-- ==== Sys2Proof/Word.lean ====
section
/-!
DEFINITION. The words of the machine.
-/

namespace Sys2Proof

/-- One byte (00, R4). -/
abbrev Byte := BitVec 8

/-- A scalar instruction word (01, R6), a lane register (07, R179). -/
abbrev W32 := BitVec 32

/-- A scalar register (01, R9). -/
abbrev W64 := BitVec 64

/-- A lane word or clause header (01, R17, R24). -/
abbrev W96 := BitVec 96

/-- A scalar register number (01, R9). -/
abbrev SReg := BitVec 6

end Sys2Proof
end

