-- ==== Sys2Proof/Config.lean ====
section
/-!
DEFINITION. What the package fixes, and the free values: constants with no body, of which nothing can be proved.
-/

namespace Sys2Proof

/-- Cores of a compute die (04, R101). -/
def Config.coresPerDie : Nat := 192

/-- Slices of a compute die (04, R86). -/
def Config.slicesPerDie : Nat := 64

/-- Compute dies (04, R86). -/
def Config.dies : Nat := 4

def Config.cores : Nat := 768
def Config.slices : Nat := 256

/-- Lane pipes of a core (17, R339). -/
def Config.pipes : Nat := 4

/-- The raw value of an approximation (08, R225-R226) by opcode and operand: a free value (log 9). `Flags` holds it
to the accuracy that the spec states. -/
opaque Config.approx : Nat → BitVec 32 → BitVec 32

/-! The cryptography of a sealed image (20, R385): the spec names the functions and gives no value of theirs, nor the keys (log 12). -/

/-- The Burard controller's random source, by draw and position. -/
opaque Config.randomByte : Nat → Nat → Byte

/-- AES-256-GCM of key, IV, additional data and plaintext: byte `i` of the ciphertext with its tag behind it. -/
opaque Config.gcmByte : List Byte → List Byte → List Byte → List Byte → Nat → Byte

/-- SHAKE256 of a message, by output byte. -/
opaque Config.shakeByte : List Byte → Nat → Byte

/-- A key wrapped under another: the 32 wrapped bytes, the key id, the tag. -/
opaque Config.wrapByte : List Byte → List Byte → Nat → Byte

/-- The XMSS-SHAKE256_20_256 signature of a message with a package's identity key, by package, leaf and byte. -/
opaque Config.signByte : Nat → Nat → List Byte → Nat → Byte

/-- The sealing key that the packages of the domain share. -/
opaque Config.sealingKey : List Byte

/-- The SHAKE256 measurement of a partition. -/
opaque Config.measureByte : Nat → Nat → Byte

/-- A cycle count of a timing header (21, R396): the spec gives none (log 9). By the free-value counter. -/
opaque Config.cycles : Nat → BitVec 16

/-- A byte of a host's or a peer's memory, fetched as code or as a table: memory outside the package (log 1). By the
free-value counter and address. -/
opaque Config.outsideByte : Nat → Nat → Byte

/-- A result that the spec gives an instruction without stating its value (log 9). By the free-value counter. -/
opaque Config.unstated : Nat → BitVec 64

/-- Which of the two ways between diagonal dies had the shorter queue for the first packet of a pair (04, R105): queues are timing
(log 8). By whether it carries replies, and by the pair's core and slice. -/
opaque Config.firstRoute : Bool → Nat → Nat → Bool

end Sys2Proof
end

