-- ==== Sys2Proof/Machine/Num.lean ====
section
/-!
DEFINITION. Numbers: formats, exact values, rounding, and the Philox streams (02).
-/

namespace Sys2Proof.Machine

/-- A number format: a valid descriptor of R34 (`wide = false`), or a format of R40 or R50. -/
structure Fmt where
  s : Bool
  e : Nat
  m : Nat
  pol : Nat
  bias : Nat
  wide : Bool
  deriving DecidableEq, Repr

/-- An exact value, or one known to lie strictly between `mag * 2^exp` and `(mag + 1) * 2^exp`
(`sticky`). `snan` is a NaN that reads as signalling (R41). -/
inductive XVal where
  | nan (snan : Bool)
  | inf (neg : Bool)
  | fin (neg : Bool) (mag : Nat) (exp : Int) (sticky : Bool)
  deriving DecidableEq, Repr

/-- The rounding modes (R22, R42). -/
inductive RMode where
  | ne | tz | dn | up | na | st
  deriving DecidableEq, Repr

/-- The five sticky flags of GMODE [12:8] (R46). -/
structure FFlags where
  nv : Bool := false
  dz : Bool := false
  ofl : Bool := false
  ufl : Bool := false
  nx : Bool := false
  deriving DecidableEq, Repr

def fmtF64 : Fmt := ⟨true, 11, 52, 0, 1023, true⟩
def fmtF32 : Fmt := ⟨true, 8, 23, 0, 127, true⟩
def fmtF16 : Fmt := ⟨true, 5, 10, 0, 15, true⟩
def fmtBF16 : Fmt := ⟨true, 8, 7, 0, 127, true⟩
/-- F48 (R50). A NaN of it whose top fraction bit is 0 is signalling, as R41 has it of the wide formats (DESIGN CHOICE, log 72). -/
def fmtF48 : Fmt := ⟨true, 8, 39, 0, 127, true⟩

/-- The fields of a descriptor (R34). -/
def fmtOf (d : BitVec 16) : Fmt :=
  ⟨d.getLsbD 15, (d.extractLsb' 12 3).toNat, (d.extractLsb' 9 3).toNat, (d.extractLsb' 6 3).toNat,
   (d.extractLsb' 0 6).toNat, false⟩

/-- R35. -/
def fmtWidth (f : Fmt) : Nat :=
  if f.pol = 3 then 1 + f.m else (if f.s then 1 else 0) + f.e + f.m

/-- R37. -/
def fmtValid (f : Fmt) : Bool :=
  2 ≤ fmtWidth f && fmtWidth f ≤ 8 && f.pol ≤ 3
    && (f.pol != 0 || (2 ≤ f.e && 1 ≤ f.m))
    && (f.pol = 0 || f.pol = 3 || 1 ≤ f.e)
    && (f.pol != 3 || (f.e = 0 && f.bias = 0))

/-- The container size in bits (R39). -/
def fmtContainer (f : Fmt) : Nat := if fmtWidth f ≤ 4 then 4 else 8

def fflagsOr (a b : FFlags) : FFlags :=
  ⟨a.nv || b.nv, a.dz || b.dz, a.ofl || b.ofl, a.ufl || b.ufl, a.nx || b.nx⟩

/-- The flags as GMODE holds them, bits [12:8] (R46). -/
def fflagsBits (f : FFlags) : W32 :=
  (if f.nv then 0x100#32 else 0#32) ||| (if f.dz then 0x200#32 else 0#32)
    ||| (if f.ofl then 0x400#32 else 0#32) ||| (if f.ufl then 0x800#32 else 0#32)
    ||| (if f.nx then 0x1000#32 else 0#32)

def fflagsNone : FFlags := {}
def fflagNV : FFlags := { nv := true }
def fflagOF : FFlags := { ofl := true }

/-- The rounding mode that a value of R22 or GMODE.RM names. -/
def rmodeOf (v : BitVec 3) : RMode :=
  if v = 2#3 then .tz else if v = 3#3 then .dn else if v = 4#3 then .up
  else if v = 5#3 then .na else if v = 6#3 then .st else .ne

/-- The exponent of the least significant bit of the smallest codes (R38). -/
def fmtQmin (f : Fmt) : Int := 1 - (f.bias : Int) - (f.m : Int)

/-- The largest finite code, sign aside (R36, R45). -/
def fmtMaxCode (f : Fmt) : Nat :=
  if f.pol = 0 then (2 ^ f.e - 1) * 2 ^ f.m - 1
  else if f.pol = 1 then 2 ^ (f.e + f.m) - 2
  else 2 ^ (f.e + f.m) - 1

/-- Magnitude and exponent of a finite code, sign aside (R38). -/
def fmtMagOf (f : Fmt) (c : Nat) : Nat × Int :=
  let x := c / 2 ^ f.m
  let fr := c % 2 ^ f.m
  if x = 0 then (fr, fmtQmin f) else (2 ^ f.m + fr, fmtQmin f + (x : Int) - 1)

def fmtMaxFinite (f : Fmt) : Nat × Int := fmtMagOf f (fmtMaxCode f)

/-- `|a * 2^ea| < |b * 2^eb|`. -/
def magLt (a : Nat) (ea : Int) (b : Nat) (eb : Int) : Bool :=
  if ea ≤ eb then a < b <<< (eb - ea).toNat else a <<< (ea - eb).toNat < b

def xzero (neg : Bool) : XVal := .fin neg 0 0 false

def xisZero : XVal → Bool
  | .fin _ 0 _ false => true
  | _ => false

def xneg : XVal → XVal
  | .nan s => .nan s
  | .inf n => .inf (!n)
  | .fin n m e st => .fin (!n) m e st

def xabs : XVal → XVal
  | .nan s => .nan s
  | .inf _ => .inf false
  | .fin _ m e st => .fin false m e st

def xsign : XVal → Bool
  | .nan _ => false
  | .inf n => n
  | .fin n _ _ _ => n

def xisNan : XVal → Bool
  | .nan _ => true
  | _ => false

def xisSnan : XVal → Bool
  | .nan s => s
  | _ => false

def xisInf : XVal → Bool
  | .inf _ => true
  | _ => false

def xOfInt (i : Int) : XVal := .fin (i < 0) i.natAbs 0 false

/-- An integer of `w` bits, two's complement when signed. -/
def intOf (signed : Bool) (w : Nat) (n : Nat) : Int :=
  let v := n % 2 ^ w
  if signed && 2 ^ (w - 1) ≤ v then (v : Int) - (2 ^ w : Nat) else v

/-- The bits of an integer, modulo 2^w. -/
def bitsOfInt (w : Nat) (i : Int) : Nat := (i % (2 ^ w : Nat)).toNat

/-- The value of an element of the format (R36, R38, R40, R41). -/
def fmtDec (f : Fmt) (bits : Nat) : XVal :=
  if f.pol = 3 then xOfInt (intOf f.s (1 + f.m) bits)
  else
    let body := f.e + f.m
    let neg := f.s && (bits / 2 ^ body) % 2 = 1
    let c := bits % 2 ^ body
    let x := c / 2 ^ f.m
    let fr := c % 2 ^ f.m
    if f.pol = 0 && x = 2 ^ f.e - 1 then
      if fr = 0 then .inf neg else .nan (f.wide && fr < 2 ^ (f.m - 1))
    else if f.pol = 1 && c = 2 ^ body - 1 then .nan false
    else
      let (mg, ex) := fmtMagOf f c
      .fin neg mg ex false

/-- A code is subnormal: exponent field 0, fraction not 0. -/
def fmtIsSub (f : Fmt) (bits : Nat) : Bool :=
  f.pol != 3 && bits % 2 ^ (f.e + f.m) != 0 && bits % 2 ^ (f.e + f.m) < 2 ^ f.m

/-- Reading an operand: FZI reads a subnormal as a zero of the same sign (R46, R47). -/
def fmtRead (f : Fmt) (fzi : Bool) (bits : Nat) : XVal :=
  if fzi && fmtIsSub f bits then xzero (f.s && (bits / 2 ^ (f.e + f.m)) % 2 = 1) else fmtDec f bits

/-- The canonical NaN of a format that has a NaN code (R40, R41). -/
def fmtNan (f : Fmt) : Nat :=
  if f.pol = 1 then 2 ^ (f.e + f.m) - 1
  else (2 ^ f.e - 1) * 2 ^ f.m + 2 ^ (f.m - 1)

def fmtHasNan (f : Fmt) : Bool := f.pol ≤ 1

def fmtSignBit (f : Fmt) (neg : Bool) : Nat := if f.s && neg then 2 ^ (f.e + f.m) else 0

def fmtInf (f : Fmt) (neg : Bool) : Nat := fmtSignBit f neg + (2 ^ f.e - 1) * 2 ^ f.m

/-- The two neighbours and where the value lies between them, at a last kept bit of weight 2^q:
(kept, inexact, twice the remainder compared with the distance, t of R43). -/
structure Cut where
  kept : Nat
  inexact : Bool
  half : Ordering
  t : Nat
  deriving DecidableEq, Repr

def cutAt (mag : Nat) (exp : Int) (sticky : Bool) (q : Int) : Cut :=
  if q ≤ exp then ⟨mag <<< (exp - q).toNat, sticky, .lt, 0⟩
  else
    let sh := (q - exp).toNat
    if mag.log2 + 40 < sh then ⟨0, mag != 0 || sticky, .lt, 0⟩
    else
      let kept := mag >>> sh
      let rem := mag % 2 ^ sh
      let c := compare (2 * rem) (2 ^ sh)
      ⟨kept, rem != 0 || sticky, if c = .eq && sticky then .gt else c, (rem <<< 32) >>> sh⟩

/-- What a last kept bit of weight 2^q adds to the parity of a code: without a mantissa field the code's least significant bit
is its exponent's (R38, R42). -/
def fmtPar (f : Fmt) (q : Int) : Nat := if f.m = 0 then ((q - fmtQmin f) % 2).toNat else 0

/-- The choice between the neighbours (R42, R43); `par` makes the kept bits' parity the code's, `u` is the word of the rounding
stream. -/
def cutRound (md : RMode) (neg : Bool) (u par : Nat) (c : Cut) : Nat :=
  if c.inexact then
    let hi : Bool := match md with
      | .ne => c.half = .gt || (c.half = .eq && (c.kept + par) % 2 = 1)
      | .tz => false
      | .dn => neg
      | .up => !neg
      | .na => c.half != .lt
      | .st => 2 ^ 32 ≤ c.t + u
    if hi then c.kept + 1 else c.kept
  else c.kept

/-- A value rounded to an integer by a mode, and whether it was inexact. -/
def roundToInt (md : RMode) (u : Nat) (neg : Bool) (mag : Nat) (exp : Int) (sticky : Bool) : Int × Bool :=
  let c := cutAt mag exp sticky 0
  let k := cutRound md neg u 0 c
  (if neg then -(k : Int) else k, c.inexact)

/-- The range of an integer format of POL 3. -/
def fmtIntRange (f : Fmt) : Int × Int :=
  if f.s then (-(2 ^ f.m : Nat), (2 ^ f.m : Nat) - 1) else (0, (2 ^ (1 + f.m) : Nat) - 1)

def clampInt (lo hi v : Int) : Int := if v < lo then lo else if hi < v then hi else v

/-- What an unsigned format gives for a negative value that does not round to zero (R45). -/
def unsignedBad (f : Fmt) : Nat := if f.pol ≤ 1 then fmtNan f else 0

/-- R45, for a finite value into a signed or non-negative float format. -/
def roundFinite (f : Fmt) (md : RMode) (sat fzo : Bool) (u : Nat)
    (neg : Bool) (mag : Nat) (exp : Int) (sticky : Bool) : Nat × FFlags :=
  if mag = 0 && !sticky then (fmtSignBit f neg, {})
  else
    let q1 : Int := (mag.log2 : Int) + exp - f.m
    let q := if q1 < fmtQmin f then fmtQmin f else q1
    let rm := if md = .st then RMode.ne else md
    let k1 := cutRound rm neg 0 (fmtPar f q1) (cutAt mag exp sticky q1)
    let (mm, me) := fmtMaxFinite f
    if magLt mm me k1 q1 then
      let fl : FFlags := { ofl := true, nx := true }
      let big := fmtSignBit f neg + fmtMaxCode f
      if f.pol = 2 || sat then (big, fl)
      else if rm = .tz || (rm = .dn && !neg) || (rm = .up && neg) then (big, fl)
      else (if f.pol = 1 then fmtNan f else fmtInf f neg, fl)
    else
      let c := cutAt mag exp sticky q
      let k := cutRound md neg u (fmtPar f q) c
      let ovr := magLt mm me k q
      let code := if ovr then fmtMaxCode f else (q - fmtQmin f).toNat * 2 ^ f.m + k
      let sub := code < 2 ^ f.m
      let ne := c.inexact || ovr
      let fl : FFlags := { ufl := sub && ne, nx := ne }
      if fzo && sub && code != 0 then (fmtSignBit f neg, { ufl := true, nx := true })
      else (fmtSignBit f neg + code, fl)

/-- `round(x, fmt, mode, sat)` of R45, with GMODE.FZO and the stream word `u`. -/
def roundTo (f : Fmt) (md : RMode) (sat fzo : Bool) (u : Nat) (x : XVal) : Nat × FFlags :=
  match x with
  | .nan sn =>
    if fmtHasNan f then (fmtNan f, { nv := sn }) else (0, fflagNV)
  | .inf neg =>
    if !f.s && neg then (unsignedBad f, fflagNV)
    else if f.pol = 3 then
      (bitsOfInt (1 + f.m) (if neg then (fmtIntRange f).1 else (fmtIntRange f).2), fflagNV)
    else if f.pol = 0 && !sat then (fmtInf f neg, {})
    else if f.pol = 1 && !sat then (fmtNan f, fflagNV)
    else (fmtSignBit f neg + fmtMaxCode f, {})
  | .fin neg mag exp st =>
    let isNeg := neg && (mag != 0 || st)
    if !f.s && isNeg then
      let q := if f.pol = 3 then 0
        else if (mag.log2 : Int) + exp - f.m < fmtQmin f then fmtQmin f else (mag.log2 : Int) + exp - f.m
      if cutRound md true u (if f.pol = 3 then 0 else fmtPar f q) (cutAt mag exp st q) = 0 then (0, { ufl := true, nx := true })
      else (unsignedBad f, fflagNV)
    else if f.pol = 3 then
      let (y, ne) := roundToInt md u neg mag exp st
      let (lo, hi) := fmtIntRange f
      if y < lo || hi < y then (bitsOfInt (1 + f.m) (clampInt lo hi y), fflagNV)
      else (bitsOfInt (1 + f.m) y, { nx := ne })
    else roundFinite f md sat fzo u neg mag exp st

/-! Exact arithmetic. A NaN operand gives a NaN; `snan` of the result carries a signalling operand,
so that the one rounding that follows sets NV (R41). -/

/-- A NaN made by an invalid operation: it sets NV as a signalling operand would. -/
def xinvalid : XVal := .nan true

def xmul (a b : XVal) : XVal :=
  match a, b with
  | .nan s, .nan t => .nan (s || t)
  | .nan s, _ => .nan s
  | _, .nan t => .nan t
  | .inf n, .inf k => .inf (n != k)
  | .inf n, .fin k m _ st => if m = 0 && !st then xinvalid else .inf (n != k)
  | .fin n m _ st, .inf k => if m = 0 && !st then xinvalid else .inf (n != k)
  | .fin n m e _, .fin k m' e' _ => .fin (n != k) (m * m') (e + e') false

/-- The sum of two exact finite values; `dn` gives the sign of an exact zero from opposite signs (R214). -/
def finAdd (dn : Bool) (n : Bool) (m : Nat) (e : Int) (n' : Bool) (m' : Nat) (e' : Int) : XVal :=
  let q := if e ≤ e' then e else e'
  let a := m <<< (e - q).toNat
  let b := m' <<< (e' - q).toNat
  if n = n' then .fin n (a + b) q false
  else if a = b then xzero dn
  else if b < a then .fin n (a - b) q false else .fin n' (b - a) q false

def xadd (dn : Bool) (a b : XVal) : XVal :=
  match a, b with
  | .nan s, .nan t => .nan (s || t)
  | .nan s, _ => .nan s
  | _, .nan t => .nan t
  | .inf n, .inf k => if n = k then .inf n else xinvalid
  | .inf n, _ => .inf n
  | _, .inf k => .inf k
  | .fin n m e _, .fin k m' e' _ =>
    if m = 0 && m' != 0 then .fin k m' e' false
    else if m' = 0 && m != 0 then .fin n m e false
    else finAdd dn n m e k m' e'

/-- The quotient of two finite values to at least 120 bits, the rest in `sticky`. -/
def finDiv (n : Bool) (m : Nat) (e : Int) (k : Bool) (m' : Nat) (e' : Int) : XVal :=
  let num := m <<< 192
  .fin (n != k) (num / m') (e - 192 - e') (num % m' != 0)

/-- The integer square root by digits, `i` of them. -/
def isqrtGo : Nat → Nat → Nat → Nat
  | 0, _, r => r
  | i + 1, n, r => if (r + 2 ^ i) * (r + 2 ^ i) ≤ n then isqrtGo i n (r + 2 ^ i) else isqrtGo i n r

def isqrt (n : Nat) : Nat := isqrtGo (n.log2 / 2 + 1) n 0

/-- The square root of a finite positive value. -/
def finSqrt (m : Nat) (e : Int) : XVal :=
  let odd : Int := e % 2
  let n := (m <<< odd.toNat) <<< 256
  let r := isqrt n
  .fin false r ((e - odd - 256) / 2) (r * r != n)

/-- a < b, a = b or a > b for two values that are no NaN. -/
def xcmp (a b : XVal) : Ordering :=
  match a, b with
  | .inf n, .inf k => if n = k then .eq else if n then .lt else .gt
  | .inf n, _ => if n then .lt else .gt
  | _, .inf k => if k then .gt else .lt
  | .fin n m e _, .fin k m' e' _ =>
    if m = 0 && m' = 0 then .eq
    else if m = 0 then (if k then .gt else .lt)
    else if m' = 0 then (if n then .lt else .gt)
    else if n != k then (if n then .lt else .gt)
    else
      let c := if magLt m e m' e' then Ordering.lt else if magLt m' e' m e then .gt else .eq
      if n then c.swap else c
  | _, _ => .eq

/-- The order of IEEE minimum and maximum: −0 below +0 (R215). -/
def xless (a b : XVal) : Bool :=
  match xcmp a b with
  | .lt => true
  | .eq => xsign a && !xsign b
  | .gt => false

/-- The exact sum of a list (R57-R58, R215, R235): any NaN gives NaN, infinities of both signs an invalid one. -/
def xsum (dn : Bool) (l : List XVal) : XVal :=
  if l.any xisNan then .nan (l.any xisSnan)
  else if l.contains (.inf false) && l.contains (.inf true) then xinvalid
  else match l with
    | [] => xzero dn
    | x :: xs => xs.foldl (xadd dn) x

/-- A sum under the rules of a dot group: any NaN sets NV (R57). -/
def xdot (dn : Bool) (l : List XVal) : XVal :=
  match xsum dn l with
  | .nan _ => xinvalid
  | x => x

/-- A finite value times 2^k. -/
def xscale (x : XVal) (k : Int) : XVal :=
  match x with
  | .fin n m e st => .fin n m (e + k) st
  | y => y

/-- Negation of a decoded element: an integer 0 has no sign (R207). -/
def elemNeg (f : Fmt) (n : Bool) (x : XVal) : XVal :=
  if n && !(f.pol = 3 && xisZero x) then xneg x else x

/-! The Philox streams (R44). -/

structure Ctr where
  c0 : Nat
  c1 : Nat
  c2 : Nat
  c3 : Nat
  deriving DecidableEq, Repr

/-- One round of R44's block function. -/
def philoxRound (c : Ctr) (k0 k1 : Nat) : Ctr :=
  let p := 0xD2511F53 * c.c0
  let q := 0xCD9E8D57 * c.c2
  ⟨(q / 2 ^ 32) ^^^ c.c1 ^^^ k0, q % 2 ^ 32, (p / 2 ^ 32) ^^^ c.c3 ^^^ k1, p % 2 ^ 32⟩

def philoxGo : Nat → Ctr → Nat → Nat → Ctr
  | 0, c, _, _ => c
  | i + 1, c, k0, k1 =>
    philoxGo i (philoxRound c k0 k1) ((k0 + 0x9E3779B9) % 2 ^ 32) ((k1 + 0xBB67AE85) % 2 ^ 32)

/-- Word `w` of a cell's draw stream (`stream = 0`) or rounding stream (`stream = 1`). -/
def philoxWord (seed : W64) (cellid : Nat) (stream : Nat) (w : W64) : W32 :=
  let n := w.toNat / 4
  let k0 := (seed.toNat % 2 ^ 32) ^^^ (cellid % 2 ^ 32)
  let k1 := seed.toNat / 2 ^ 32
  let c := philoxGo 10 ⟨n % 2 ^ 32, n / 2 ^ 32, stream, 0⟩ k0 k1
  BitVec.ofNat 32 (match w.toNat % 4 with
    | 0 => c.c0
    | 1 => c.c1
    | 2 => c.c2
    | _ => c.c3)

end Sys2Proof.Machine
end

