-- ==== Sys2Proof/Machine/Types.lean ====
section
/-!
DEFINITION. The vocabulary that instructions and the state share: causes, keys, the fields of a
lane word, the fields of a clause header, packets, request senders.
-/

namespace Sys2Proof

/-- A group, named by launch handle and `%groupid` (05, R135; 19, R360). -/
structure GKey where
  launch : Nat
  gid : Nat
  deriving DecidableEq, Repr

/-- A parcel, named by launch handle and parcel index (17, R329). -/
structure PKey where
  launch : Nat
  idx : Nat
  deriving DecidableEq, Repr

/-- The named causes of 19, R355. -/
inductive Cause where
  | illEnc | illLane | illOpnd | illHdr | illRnd | illFmt | priv | clauseHaz | divStack | align
  | tileNoalloc | tileShape | qregBad | streamRights | brkpt
  | pfRead | pfWrite | prot | busErr | stashRange | pfFetch | specOvf
  | tkStale | tkForeign | barOvf | qBaddesc
  | nbCycle | nbEdge | stepDiv | stepClosed | launchBad | marginFull | launchNoroom | workCancelled
  | fabTimeout | fabPeerReset | fabUnreach | fredClosed | fredNoslot
  | matFmt
  | user (n : BitVec 6)
  | dbgStop | watch | sliceForced | errCorrected | sealStale | sealPeer | sealShape | trapNested
  | unitErr
  deriving DecidableEq, Repr

/-- The kinds of 19, R354. -/
inductive CauseKind where
  | trap | serviceable | refusal | notice
  deriving DecidableEq, Repr

/-- The access field of a cause word (19, R360). -/
inductive Acc where
  | read | write | fetch | atomic
  deriving DecidableEq, Repr

/-- The fields of a lane word but for its opcode (01, R17). The sources are the raw 14-bit fields of
R19; `Operands` reads them. -/
structure LaneF where
  e : Bool
  rnd : BitVec 3
  sat : Bool
  pinv : Bool
  pk : BitVec 3
  dest : BitVec 8
  srcA : BitVec 14
  srcB : BitVec 14
  srcC : BitVec 14
  ty : BitVec 5
  mod : BitVec 6
  imm : BitVec 16
  deriving DecidableEq, Repr

/-- The fields of a clause header (01, R24). -/
structure Hdr where
  wait : BitVec 12
  av : Bool
  aflag : BitVec 4
  bv : Bool
  bflag : BitVec 4
  lit0 : W32
  lit1 : W32
  deriving DecidableEq, Repr

/-- The atomic operations (05, R125, R126). `fadd` is the f32 add of `latom`. -/
inductive AtomOp where
  | add | swap | cas | min | max | minu | maxu | and | or | xor | fadd
  deriving DecidableEq, Repr

/-- The scopes of 01, R15. -/
inductive Scope where
  | cell | group | core | die | package | fabric
  deriving DecidableEq, Repr

/-- What becomes of a job's counter (20, R386, R389): this package, its keeper, goes on with the commit, of which `copies` mirrors
elsewhere hold C; another keeper writes its value into the copy here; or the copies of a job that has moved are dropped. -/
inductive CtrAct where
  | own (copies : Nat)
  | copy (keeper ctr : Nat)
  | drop (keeper : Nat)
  deriving DecidableEq, Repr

/-- Who sends a mailbox request (22, R410). -/
inductive Sender where
  | fmLd            -- the FM-owned LD
  | mgmt            -- the management port
  | ld (pid : Nat)  -- a partition's own LD
  | rsv (snd : Sender)  -- one of these, with an RSV byte of the header or of the block's head that is not zero (22, R412)
  | arg (snd : Sender)    -- one of these, with an ARG or a count that the command does not list (22, R412)
  | short (snd : Sender)  -- one of these, whose block is shorter than the command needs, or does not fit one datagram (22, R411-R412)
  deriving DecidableEq, Repr

/-- Who sends. -/
def Sender.who : Sender → Sender
  | .rsv x => x.who
  | .arg x => x.who
  | .short x => x.who
  | x => x

/-- An RSV byte of the request's header or head is not zero. -/
def Sender.bad : Sender → Bool
  | .rsv _ => true
  | .arg x => x.bad
  | .short x => x.bad
  | _ => false

/-- The block is shorter than the command needs. -/
def Sender.cutShort : Sender → Bool
  | .rsv x => x.cutShort
  | .arg x => x.cutShort
  | .short _ => true
  | _ => false

/-- The request's ARG, or a count in it, is none that the command lists. -/
def Sender.odd : Sender → Bool
  | .rsv x => x.odd
  | .arg _ => true
  | .short x => x.odd
  | _ => false

/-- A Tamly packet: the header of 14, R287, and its data bytes. -/
structure Packet where
  kind : Nat
  rl : Bool := false
  sus : Bool := false
  vl : Nat := 0
  spkg : Nat
  dpkg : Nat
  sinc : Nat
  dinc : Nat
  tsl : Nat := 0
  seq : Nat := 0
  tag : Nat := 0
  gen : Nat := 0
  hops : Nat := 0
  rowHops : Nat := 0      -- of the hops taken, those in the row and those in the column dimension (log 49)
  colHops : Nat := 0
  loc : Nat := 0
  args : Nat := 0
  zeroOk : Bool := true   -- every field R287 marks zero is zero
  data : List Byte := []
  die : Nat := 0          -- the compute die whose requester table holds the tag
  core : Nat := 0         -- the core and the group that a request comes from, its job and its lane (log 19)
  g : GKey := ⟨0, 0⟩
  job : Nat := 0
  lane : Nat := 0
  acq : Nat := 0          -- when the group made its last acquire at fabric scope (12, R267; log 48)
  deriving DecidableEq, Repr

/-- Where a packet that a router handles comes from (14, R289-R291). -/
inductive HopSrc where
  | port (p : Nat) (pkt : Packet)  -- it arrives on a port from another package
  | own                            -- the oldest packet that entered from this package
  | buffered (n : Nat)             -- the n-th packet waiting in an input buffer
  | relief (n : Nat)               -- the n-th packet of the relief lane
  deriving DecidableEq, Repr

/-- What the router does with it: the adaptive choice of 14, R290. -/
inductive HopDst where
  | port (p : Nat)
  | eject
  | blocked
  deriving DecidableEq, Repr

/-- A compass token as it arrives (14, R292-R294): its epoch, and the package that it is to visit. -/
structure Token where
  epoch : BitVec 8
  dst : Nat
  deriving DecidableEq, Repr

/-- What the reading of a sealed image finds (20, R386, R388): whether the chunks' tags hold, and what other packages' copies of the job's
counter read. -/
structure Opening where
  tagsOk : Bool
  reads : List Nat
  deriving DecidableEq, Repr

/-- The units that report errors (22, R415). -/
inductive UnitId where
  | core (n : Nat)
  | slice (n : Nat)
  | channel (stack pc : Nat)
  /-- A lane of a die-to-die link: the link's width is timing alone. -/
  | lane (die link : Nat)
  /-- A lane of a Tamly port. -/
  | tamly (port lane : Nat)
  deriving DecidableEq, Repr

/-- Plain registers of a partition's register space (22, R411), for REGISTER_WRITE. -/
inductive PReg where
  | bmaddr | bmgo | trapcfg | evbase | evsize | evhead | trcctl | trchead
  | watch (n : Nat)
  | other (offset : Nat)
  deriving DecidableEq, Repr

/-- The operations that the observation of a barrier, ticket or page waits for, and every other
reason a path does not go on (05, R112; 07, R199). -/
inductive Wait where
  | sreg (r : SReg) (peer : Bool)       -- a pending scalar load (R115)
  | flags (m : BitVec 12)               -- waitf (R111)
  | counter (p n : Nat)                 -- waitp (R110)
  | earlier                             -- clauses enqueued earlier (R68, R79, R195)
  | drain                               -- accepted stores, returned loads (R122-R123)
  | fence                               -- the counters that `fence` and what waits as it does drain (R121)
  | ticket (cls n : Nat)                -- no free ticket entry (R131)
  | fetching (slice entry : Nat)        -- a redeem on a FETCHING entry (R133)
  | queueEmpty (n : Nat)                -- qpop of an empty queue (R112)
  | queueFull (n : Nat)
  | elements (n : Nat)                  -- a clause held for queue elements (R144)
  | stashLine (line : Nat)              -- an empty stash line (R158)
  | mappedFill (addr : Nat) (peer : Bool)
  | barrier (off : Nat) (parity : Bool) -- bwait (R175)
  | stepClose (told : Bool)             -- step inside its close: stores not yet accepted, or peers told and not yet heard (R191)
  | stepEntry                           -- step waiting for entry (R195)
  | tag (cell : Nat) (reg : Nat) (step : Nat) (lane : Nat)  -- a neighbour's tag, and the lane that reads it (R188)
  | page (pid page : Nat) (acc : Acc)   -- page-fault wait (R362)
  | queueSlot                           -- the clause queue is full (R75)
  | fenced                              -- an access held by the other path's fence (R121)
  | slice                               -- an access that its slice does not perform yet (R89, R143, R268)
  | written                             -- a publication whose mapped words have been written back (R122, R160)
  | told                                -- a publication that the peers have been told of (R122, R263)
  | join                                -- waiting at a join (R70)
  | otherPath                           -- split and join wait for the other slot (R68)
  | launchSlot                          -- 1,024 live launches (R335)
  | record (lvl h : Nat)                -- waitw (R336)
  | message                             -- a full active-message queue or q3 (R147, R150)
  | reduction                           -- fralloc, frcontrib, frwait (R316)
  | capture                             -- 64 capturable instructions (R358)
  | room                                -- a full counter (R108), q2 (R256), a full context table (R96)
  | cont                                -- contret waits for its page request (R367)
  | retry                               -- a STRICT_SCOPE retry (R268)
  | yield                               -- yield, for one eviction decision (R365)
  | cutHold                             -- stepq while a cut of the job is pending (20, R381)
  deriving DecidableEq, Repr

end Sys2Proof
end

