-- ==== Sys2Proof/Syntax.lean ====
section
/-!
DEFINITION. The rows of spec/opcode_table.json, one constructor each: the scalar rows, the lane rows, then the events. A scalar row carries the
fields of its word (01, R8, R11-R14); a lane row the fields of its 96-bit word (01, R17); a row that is an
event of the machine carries what names the event: the group, unit or request it is about, and what it
brings in from outside the package.
-/

namespace Sys2Proof

inductive Instr where
  /-- ADD Scalar add of two registers, modulo 2^64. (R61) -/
  | add (d : BitVec 6) (a : BitVec 6) (b : BitVec 6)
  /-- SUB Scalar subtract of two registers. (R61) -/
  | sub (d : BitVec 6) (a : BitVec 6) (b : BitVec 6)
  /-- AND Scalar bitwise AND. (R61) -/
  | and (d : BitVec 6) (a : BitVec 6) (b : BitVec 6)
  /-- OR Scalar bitwise OR. (R61) -/
  | or (d : BitVec 6) (a : BitVec 6) (b : BitVec 6)
  /-- XOR Scalar bitwise XOR. (R61) -/
  | xor (d : BitVec 6) (a : BitVec 6) (b : BitVec 6)
  /-- SHL Scalar shift left by b[5:0]. (R61) -/
  | shl (d : BitVec 6) (a : BitVec 6) (b : BitVec 6)
  /-- SHR Scalar logical shift right by b[5:0]. (R61) -/
  | shr (d : BitVec 6) (a : BitVec 6) (b : BitVec 6)
  /-- SAR Scalar arithmetic shift right by b[5:0]. (R61) -/
  | sar (d : BitVec 6) (a : BitVec 6) (b : BitVec 6)
  /-- MUL Low 64 bits of the scalar product. (R61) -/
  | mul (d : BitVec 6) (a : BitVec 6) (b : BitVec 6)
  /-- MULH High 64 bits of the signed 128-bit product. (R61) -/
  | mulh (d : BitVec 6) (a : BitVec 6) (b : BitVec 6)
  /-- MULHU High 64 bits of the unsigned 128-bit product. (R61) -/
  | mulhu (d : BitVec 6) (a : BitVec 6) (b : BitVec 6)
  /-- DIV Signed quotient truncated toward zero, with defined edge results. (R62) -/
  | div (d : BitVec 6) (a : BitVec 6) (b : BitVec 6)
  /-- DIVU Unsigned quotient, all ones on division by zero. (R62) -/
  | divu (d : BitVec 6) (a : BitVec 6) (b : BitVec 6)
  /-- REM Signed remainder with the sign of a. (R62) -/
  | rem (d : BitVec 6) (a : BitVec 6) (b : BitVec 6)
  /-- REMU Unsigned remainder. (R62) -/
  | remu (d : BitVec 6) (a : BitVec 6) (b : BitVec 6)
  /-- MIN Signed scalar minimum. (R61) -/
  | min (d : BitVec 6) (a : BitVec 6) (b : BitVec 6)
  /-- MAX Signed scalar maximum. (R61) -/
  | max (d : BitVec 6) (a : BitVec 6) (b : BitVec 6)
  /-- MINU Unsigned scalar minimum. (R61) -/
  | minu (d : BitVec 6) (a : BitVec 6) (b : BitVec 6)
  /-- MAXU Unsigned scalar maximum. (R61) -/
  | maxu (d : BitVec 6) (a : BitVec 6) (b : BitVec 6)
  /-- SLT Set 1 if a < b signed. (R61) -/
  | slt (d : BitVec 6) (a : BitVec 6) (b : BitVec 6)
  /-- SLTU Set 1 if a < b unsigned. (R61) -/
  | sltu (d : BitVec 6) (a : BitVec 6) (b : BitVec 6)
  /-- SEQ Set 1 if a = b. (R61) -/
  | seq (d : BitVec 6) (a : BitVec 6) (b : BitVec 6)
  /-- CLZ Count leading zero bits of a. (R61) -/
  | clz (d : BitVec 6) (a : BitVec 6)
  /-- POPC Count one bits of a. (R61) -/
  | popc (d : BitVec 6) (a : BitVec 6)
  /-- ANDN a AND NOT b. (R61) -/
  | andn (d : BitVec 6) (a : BitVec 6) (b : BitVec 6)
  /-- ADDI Add sign-extended 14-bit immediate. (R63) -/
  | addi (d : BitVec 6) (a : BitVec 6) (i : BitVec 14)
  /-- ANDI AND with sign-extended immediate. (R63) -/
  | andi (d : BitVec 6) (a : BitVec 6) (i : BitVec 14)
  /-- ORI OR with sign-extended immediate. (R63) -/
  | ori (d : BitVec 6) (a : BitVec 6) (i : BitVec 14)
  /-- XORI XOR with sign-extended immediate. (R63) -/
  | xori (d : BitVec 6) (a : BitVec 6) (i : BitVec 14)
  /-- SHLI Shift left by immediate count. (R63) -/
  | shli (d : BitVec 6) (a : BitVec 6) (i : BitVec 6)
  /-- SHRI Logical shift right by immediate count. (R63) -/
  | shri (d : BitVec 6) (a : BitVec 6) (i : BitVec 6)
  /-- SARI Arithmetic shift right by immediate count. (R63) -/
  | sari (d : BitVec 6) (a : BitVec 6) (i : BitVec 6)
  /-- SLTI Set 1 if a < immediate, signed. (R63) -/
  | slti (d : BitVec 6) (a : BitVec 6) (i : BitVec 14)
  /-- SLTIU Set 1 if a < immediate, unsigned. (R63) -/
  | sltiu (d : BitVec 6) (a : BitVec 6) (i : BitVec 14)
  /-- LUI Load imm20 shifted left 12, sign-extended from bit 31. (R64) -/
  | lui (d : BitVec 6) (i : BitVec 20)
  /-- ADDPC PC plus imm20 shifted left 12. (R64) -/
  | addpc (d : BitVec 6) (i : BitVec 20)
  /-- MOVK Replace one 16-bit quarter of a register. (R64) -/
  | movk (d : BitVec 6) (q : BitVec 2) (v : BitVec 16)
  /-- BEQ Branch if equal. (R65) -/
  | beq (c : BitVec 6) (a : BitVec 6) (o : BitVec 14)
  /-- BNE Branch if not equal. (R65) -/
  | bne (c : BitVec 6) (a : BitVec 6) (o : BitVec 14)
  /-- BLT Branch if less, signed. (R65) -/
  | blt (c : BitVec 6) (a : BitVec 6) (o : BitVec 14)
  /-- BGE Branch if greater or equal, signed. (R65) -/
  | bge (c : BitVec 6) (a : BitVec 6) (o : BitVec 14)
  /-- BLTU Branch if less, unsigned. (R65) -/
  | bltu (c : BitVec 6) (a : BitVec 6) (o : BitVec 14)
  /-- BGEU Branch if greater or equal, unsigned. (R65) -/
  | bgeu (c : BitVec 6) (a : BitVec 6) (o : BitVec 14)
  /-- JMP PC-relative jump. (R66) -/
  | jmp (o : BitVec 26)
  /-- CALL Write return address to s62 and jump. (R66) -/
  | call (o : BitVec 26)
  /-- JMPR Jump to register address, writing the link. (R67) -/
  | jmpr (d : BitVec 6) (a : BitVec 6)
  /-- SPLIT Divide the issuing path by a predicate, pushing a path to the spill stack if needed. (R68) -/
  | split (k : BitVec 3) (i : BitVec 1) (o : BitVec 14)
  /-- JOIN Reconvergence point: merge, wait or lower depth. (R70) -/
  | join
  /-- PANY 1 if any active lane's predicate holds. (R73) -/
  | pany (d : BitVec 6) (i : BitVec 1) (k : BitVec 3)
  /-- PALL 1 if every active lane's predicate holds. (R73) -/
  | pall (d : BitVec 6) (i : BitVec 1) (k : BitVec 3)
  /-- PCNT Count of active lanes whose predicate holds. (R73) -/
  | pcnt (d : BitVec 6) (i : BitVec 1) (k : BitVec 3)
  /-- PMASK Predicate AND active mask as a value. (R73) -/
  | pmask (d : BitVec 6) (i : BitVec 1) (k : BitVec 3)
  /-- CLS Enqueue a clause at a fixed lane-code offset. (R74) -/
  | cls (o : BitVec 26)
  /-- CLSR Enqueue a clause at a register-held lane-code offset. (R74) -/
  | clsr (a : BitVec 6)
  /-- SPOPEN Open a speculation window, discarding its tags, and set SPW. (R152) -/
  | spopen (a : BitVec 6) (w : BitVec 4)
  /-- SPSLOT Open a window if closed and set SPW slot. (R152) -/
  | spslot (a : BitVec 6) (w : BitVec 4)
  /-- SPCOMMIT Mark slots for publication, discard the rest and close the window. (R152) -/
  | spcommit (a : BitVec 6) (w : BitVec 4)
  /-- LDB Load sign-extended byte. (R113) -/
  | ldb (d : BitVec 6) (a : BitVec 6) (i : BitVec 14)
  /-- LDH Load sign-extended halfword. (R113) -/
  | ldh (d : BitVec 6) (a : BitVec 6) (i : BitVec 14)
  /-- LDW Load sign-extended word. (R113) -/
  | ldw (d : BitVec 6) (a : BitVec 6) (i : BitVec 14)
  /-- LDD Load doubleword. (R113) -/
  | ldd (d : BitVec 6) (a : BitVec 6) (i : BitVec 14)
  /-- LDBU Load zero-extended byte. (R113) -/
  | ldbu (d : BitVec 6) (a : BitVec 6) (i : BitVec 14)
  /-- LDHU Load zero-extended halfword. (R113) -/
  | ldhu (d : BitVec 6) (a : BitVec 6) (i : BitVec 14)
  /-- LDWU Load zero-extended word. (R113) -/
  | ldwu (d : BitVec 6) (a : BitVec 6) (i : BitVec 14)
  /-- STB Store byte. (R113) -/
  | stb (d : BitVec 6) (a : BitVec 6) (i : BitVec 14)
  /-- STH Store halfword. (R113) -/
  | sth (d : BitVec 6) (a : BitVec 6) (i : BitVec 14)
  /-- STW Store word. (R113) -/
  | stw (d : BitVec 6) (a : BitVec 6) (i : BitVec 14)
  /-- STD Store doubleword. (R113) -/
  | std (d : BitVec 6) (a : BitVec 6) (i : BitVec 14)
  /-- GETS Read a special register. (R77) -/
  | gets (d : BitVec 6) (i : BitVec 6)
  /-- SETS Write a special register with alignment and range checks. (R78) -/
  | sets (a : BitVec 6) (i : BitVec 6)
  /-- TKLD Allocate a ticket entry and start fetching len bytes into it. (R131) -/
  | tkld (d : BitVec 6) (a : BitVec 6) (l : BitVec 6) (c : BitVec 2)
  /-- TKRED Redeem a ticket into the stash, trapping on stale or foreign. (R134) -/
  | tkred (a : BitVec 6) (x : BitVec 6)
  /-- TKRED_Q Redeem a ticket into the stash with status in place of a trap. (R134) -/
  | tkredQ (d : BitVec 6) (a : BitVec 6) (x : BitVec 6)
  /-- TKDROP Release a ticket entry without delivery. (R137) -/
  | tkdrop (a : BitVec 6)
  /-- WAITP Wait until a path counter is no greater than a threshold. (R110) -/
  | waitp (a : BitVec 6) (p : BitVec 6)
  /-- WAITF Wait until named completion flags are clear. (R111) -/
  | waitf (m : BitVec 12)
  /-- FENCE Wait for earlier clauses to issue and path counters of the scope to drain. (R121) -/
  | fence (s : BitVec 3)
  /-- PUB Release: publish the group's ordinary stores at a scope. (R122) -/
  | pub (s : BitVec 3)
  /-- ACQ Acquire: wait for loads and refresh the snapshot at a scope. (R123) -/
  | acq (s : BitVec 3)
  /-- STEP Close the current step and wait to enter the next. (R195) -/
  | step
  /-- STEPQ Close the current step and enter the next only if ready, reporting the outcome. (R195) -/
  | stepq (d : BitVec 6)
  /-- QBIND Bind a queue register to a slice queue descriptor. (R140) -/
  | qbind (a : BitVec 6) (n : BitVec 3)
  /-- QUNBIND Release a queue binding, returning and discarding buffered elements. (R141) -/
  | qunbind (d : BitVec 6) (n : BitVec 3)
  /-- QPUSH Push a value, stalling while the queue is full. (R142) -/
  | qpush (a : BitVec 6) (n : BitVec 3)
  /-- QPUSH_T Try to push a value, reporting success. (R142) -/
  | qpushT (d : BitVec 6) (a : BitVec 6) (n : BitVec 3)
  /-- QPOP Pop the next element, waiting while empty. (R142) -/
  | qpop (d : BitVec 6) (n : BitVec 3)
  /-- QTRY Pop an element if present, reporting presence. (R142) -/
  | qtry (d : BitVec 6) (a : BitVec 6) (n : BitVec 3)
  /-- QLEN Read the number of elements at the slice and in the pop buffer. (R142) -/
  | qlen (d : BitVec 6) (n : BitVec 3)
  /-- AMSG Send an active message to a handler at a parcel. (R145) -/
  | amsg (d : BitVec 6) (a : BitVec 6) (h : BitVec 6) (l : BitVec 6)
  /-- AMSG_REPLY Handler reply pushing payload words into the sender's q3. (R150) -/
  | amsgReply (a : BitVec 6) (l : BitVec 6)
  /-- LAUNCH Publish and submit a launch descriptor, returning handle or cause. (R335) -/
  | launch (d : BitVec 6) (a : BitVec 6)
  /-- WAITW Wait until a work record's OUT is 0, then acquire and return the counter word. (R336) -/
  | waitw (d : BitVec 6) (a : BitVec 6) (v : BitVec 2)
  /-- CANCEL Cancel a work record and remove its work. (R337) -/
  | cancel (a : BitVec 6) (v : BitVec 2)
  /-- WCOUNT Read a counter word without acquire. (R334) -/
  | wcount (d : BitVec 6) (a : BitVec 6) (v : BitVec 2)
  /-- TRAP Stop with user cause 0x380 + n. (R365) -/
  | trap (n : BitVec 6)
  /-- BRKPT Stop with BRKPT and a tag. (R365) -/
  | brkpt (k : BitVec 8)
  /-- YIELD Count as blocked for one eviction decision, then go on. (R365) -/
  | yield
  /-- CONTSET Set the group's continuation address. (R366) -/
  | contset (a : BitVec 6)
  /-- CONTRET End continuation state and restore the parked work. (R367) -/
  | contret
  /-- NOP No operation. (R365) -/
  | nop
  /-- RETT Reload the image, raise a deferred cause or replay captured entries, and resume. (R368) -/
  | rett
  /-- BINIT Initialise a barrier object with a count. (R174) -/
  | binit (d : BitVec 6) (a : BitVec 6)
  /-- BEXPECT Add a byte count to a barrier's pending count. (R174) -/
  | bexpect (d : BitVec 6) (a : BitVec 6)
  /-- BARRIVE Drain stash accesses then decrement a barrier by one. (R174) -/
  | barrive (a : BitVec 6)
  /-- BWAIT Wait until a barrier's phase differs from a parity; trap on ERR. (R175) -/
  | bwait (d : BitVec 6) (a : BitVec 6)
  /-- BTEST Read a barrier's phase and error bit. (R174) -/
  | btest (d : BitVec 6) (a : BitVec 6)
  /-- MFREE Set a buffer-free bit of the parcel. (R177) -/
  | mfree (i : BitVec 4)
  /-- SATOM_ADD Scalar atomic add on a 64-bit word. (R125) -/
  | satomAdd (d : BitVec 6) (a : BitVec 6) (b : BitVec 6)
  /-- SATOM_SWAP Scalar atomic swap. (R125) -/
  | satomSwap (d : BitVec 6) (a : BitVec 6) (b : BitVec 6)
  /-- SATOM_CAS Scalar atomic compare and swap. (R125) -/
  | satomCas (d : BitVec 6) (a : BitVec 6) (b : BitVec 6)
  /-- SATOM_MIN Scalar atomic signed minimum. (R125) -/
  | satomMin (d : BitVec 6) (a : BitVec 6) (b : BitVec 6)
  /-- SATOM_MAX Scalar atomic signed maximum. (R125) -/
  | satomMax (d : BitVec 6) (a : BitVec 6) (b : BitVec 6)
  /-- SATOM_MINU Scalar atomic unsigned minimum. (R125) -/
  | satomMinu (d : BitVec 6) (a : BitVec 6) (b : BitVec 6)
  /-- SATOM_MAXU Scalar atomic unsigned maximum. (R125) -/
  | satomMaxu (d : BitVec 6) (a : BitVec 6) (b : BitVec 6)
  /-- SATOM_AND Scalar atomic AND. (R125) -/
  | satomAnd (d : BitVec 6) (a : BitVec 6) (b : BitVec 6)
  /-- SATOM_OR Scalar atomic OR. (R125) -/
  | satomOr (d : BitVec 6) (a : BitVec 6) (b : BitVec 6)
  /-- SATOM_XOR Scalar atomic XOR. (R125) -/
  | satomXor (d : BitVec 6) (a : BitVec 6) (b : BitVec 6)
  /-- SETMODE Write the path's GMODE after earlier clauses complete. (R79) -/
  | setmode (a : BitVec 6)
  /-- GETMODE Read the path's GMODE after earlier clauses complete. (R79) -/
  | getmode (d : BitVec 6)
  /-- SETFMT Write the path's GFMT. (R79) -/
  | setfmt (a : BitVec 6)
  /-- GETFMT Read the path's GFMT. (R79) -/
  | getfmt (d : BitVec 6)
  /-- RSTA Copy stash bytes to device memory as sequenced segments. (R308) -/
  | rsta (d : BitVec 6) (a : BitVec 6) (l : BitVec 8)
  /-- FRALLOC Check a reduction descriptor and allocate or join a root slot. (R316) -/
  | fralloc (d : BitVec 6) (a : BitVec 6)
  /-- FRCONTRIB Contribute a value to a reduction, trapping if late. (R316) -/
  | frcontrib (d : BitVec 6) (a : BitVec 6)
  /-- FRCONTRIB_Q Contribute a value to a reduction with status in place of a trap. (R316) -/
  | frcontribQ (d : BitVec 6) (a : BitVec 6) (t : BitVec 6)
  /-- FRWAIT Wait for a reduction slot to be DONE and write result and status. (R316) -/
  | frwait (d : BitVec 6) (a : BitVec 6) (t : BitVec 6)
  /-- TCFG Write a tile control register. (R242) -/
  | tcfg (a : BitVec 6) (n : BitVec 4)
  /-- TCFG_R Read a tile control register. (R242) -/
  | tcfgR (d : BitVec 6) (n : BitVec 4)
  /-- IADD Lane integer add, optionally saturating. (R210) -/
  | iadd (f : LaneF)
  /-- ISUB Lane integer subtract. (R210) -/
  | isub (f : LaneF)
  /-- IMUL Lane integer multiply. (R210) -/
  | imul (f : LaneF)
  /-- IMULH Upper half of signed lane product. (R210) -/
  | imulh (f : LaneF)
  /-- IMULHU Upper half of unsigned lane product. (R210) -/
  | imulhu (f : LaneF)
  /-- IMAD Lane integer multiply-add. (R210) -/
  | imad (f : LaneF)
  /-- IMIN Lane signed minimum. (R210) -/
  | imin (f : LaneF)
  /-- IMAX Lane signed maximum. (R210) -/
  | imax (f : LaneF)
  /-- IMINU Lane unsigned minimum. (R210) -/
  | iminu (f : LaneF)
  /-- IMAXU Lane unsigned maximum. (R210) -/
  | imaxu (f : LaneF)
  /-- IABS Lane integer absolute value. (R210) -/
  | iabs (f : LaneF)
  /-- IAND Lane bitwise AND. (R210) -/
  | iand (f : LaneF)
  /-- IOR Lane bitwise OR. (R210) -/
  | ior (f : LaneF)
  /-- IXOR Lane bitwise XOR. (R210) -/
  | ixor (f : LaneF)
  /-- IANDN Lane A AND NOT B. (R210) -/
  | iandn (f : LaneF)
  /-- ISHL Lane shift left. (R211) -/
  | ishl (f : LaneF)
  /-- ISHR Lane logical shift right. (R211) -/
  | ishr (f : LaneF)
  /-- ISAR Lane arithmetic shift right. (R211) -/
  | isar (f : LaneF)
  /-- IPOPC Lane population count. (R210) -/
  | ipopc (f : LaneF)
  /-- ICLZ Lane leading-zero count. (R210) -/
  | iclz (f : LaneF)
  /-- IBFE Lane bit-field extract. (R211) -/
  | ibfe (f : LaneF)
  /-- IBFI Lane bit-field insert. (R211) -/
  | ibfi (f : LaneF)
  /-- ICMP Lane integer compare into predicate or register. (R212) -/
  | icmp (f : LaneF)
  /-- ISEL Lane select by condition. (R212) -/
  | isel (f : LaneF)
  /-- IMOV Lane move of bits. (R212) -/
  | imov (f : LaneF)
  /-- IADD64 Lane 64-bit add. (R213) -/
  | iadd64 (f : LaneF)
  /-- IMAD64 Lane 32x32 multiply plus 64-bit addend. (R213) -/
  | imad64 (f : LaneF)
  /-- FADD Lane float add. (R214) -/
  | fadd (f : LaneF)
  /-- FSUB Lane float subtract. (R214) -/
  | fsub (f : LaneF)
  /-- FMUL Lane float multiply. (R214) -/
  | fmul (f : LaneF)
  /-- FFMA Lane fused multiply-add. (R214) -/
  | ffma (f : LaneF)
  /-- FMIN Lane minimumNumber. (R215) -/
  | fmin (f : LaneF)
  /-- FMAX Lane maximumNumber. (R215) -/
  | fmax (f : LaneF)
  /-- FMINNAN Lane NaN-propagating minimum. (R215) -/
  | fminnan (f : LaneF)
  /-- FMAXNAN Lane NaN-propagating maximum. (R215) -/
  | fmaxnan (f : LaneF)
  /-- FCMP Lane float compare. (R216) -/
  | fcmp (f : LaneF)
  /-- FCLASS Lane float classification. (R216) -/
  | fclass (f : LaneF)
  /-- FRND Round to an integral value in the same format. (R217) -/
  | frnd (f : LaneF)
  /-- FSCALE Multiply by a power of two. (R217) -/
  | fscale (f : LaneF)
  /-- FDOT2 Two-element 16-bit dot product into f32. (R218) -/
  | fdot2 (f : LaneF)
  /-- FDOT4 Four-element narrow dot product into f32. (R218) -/
  | fdot4 (f : LaneF)
  /-- CVTIF Convert integer to float. (R220) -/
  | cvtif (f : LaneF)
  /-- CVTFI Convert float to integer. (R220) -/
  | cvtfi (f : LaneF)
  /-- CVTFF Convert between float formats. (R220) -/
  | cvtff (f : LaneF)
  /-- CVTN Convert two FP32 values to narrow codes, optionally block-scaled. (R221) -/
  | cvtn (f : LaneF)
  /-- CVTW Widen one narrow element to FP32. (R222) -/
  | cvtw (f : LaneF)
  /-- QSCALE Compute an E8M0 block scale across acting lanes. (R223) -/
  | qscale (f : LaneF)
  /-- PACK Pack two values into 16-bit halves. (R224) -/
  | pack (f : LaneF)
  /-- UNPACK Extract and widen one element. (R224) -/
  | unpack (f : LaneF)
  /-- RCPA Approximate reciprocal. (R225) -/
  | rcpa (f : LaneF)
  /-- RSQRTA Approximate reciprocal square root. (R225) -/
  | rsqrta (f : LaneF)
  /-- EXP2A Approximate base-2 exponential. (R225) -/
  | exp2a (f : LaneF)
  /-- LOG2A Approximate base-2 logarithm. (R225) -/
  | log2a (f : LaneF)
  /-- SINPA Approximate sin(pi x). (R225) -/
  | sinpa (f : LaneF)
  /-- COSPA Approximate cos(pi x). (R225) -/
  | cospa (f : LaneF)
  /-- TANHA Approximate tanh. (R225) -/
  | tanha (f : LaneF)
  /-- SQRT Correctly rounded square root. (R225) -/
  | sqrt (f : LaneF)
  /-- FDIV Correctly rounded division. (R228) -/
  | fdiv (f : LaneF)
  /-- LLD Lane load of one element per acting lane. (R118) -/
  | lld (f : LaneF)
  /-- LST Lane store, optionally speculative. (R119) -/
  | lst (f : LaneF)
  /-- LATOM Lane atomic, combining lanes on one word. (R127) -/
  | latom (f : LaneF)
  /-- LTKLD Allocate one ticket per acting lane and fetch into it. (R132) -/
  | ltkld (f : LaneF)
  /-- LTKRED Redeem tickets into lane registers, optionally with status. (R136) -/
  | ltkred (f : LaneF)
  /-- LPREF Prefetch lines into their home slices. (R120) -/
  | lpref (f : LaneF)
  /-- TLD Load tile rows from memory. (R247) -/
  | tld (f : LaneF)
  /-- TST Store tile rows to memory. (R247) -/
  | tst (f : LaneF)
  /-- TZERO Clear tile rows. (R248) -/
  | tzero (f : LaneF)
  /-- TMOVI Move a lane word into a tile row. (R248) -/
  | tmovi (f : LaneF)
  /-- TMOVO Move a tile row word into a lane. (R248) -/
  | tmovo (f : LaneF)
  /-- TSUM Sum a tile row per lane. (R249) -/
  | tsum (f : LaneF)
  /-- MMA Accumulate tile A rows times tile B rows. (R251) -/
  | mma (f : LaneF)
  /-- MDIST Accumulate squared differences of tile rows. (R252) -/
  | mdist (f : LaneF)
  /-- ALD Load accumulator row or column elements from lanes. (R253) -/
  | ald (f : LaneF)
  /-- ADRAIN Requantise accumulator rows to lanes or a tile. (R255) -/
  | adrain (f : LaneF)
  /-- ACLR Clear accumulator rows. (R254) -/
  | aclr (f : LaneF)
  /-- MTOPK Push ranked index-value pairs of accumulator rows into q2. (R256) -/
  | mtopk (f : LaneF)
  /-- XPUB Publish named exported working copies in the current step. (R196) -/
  | xpub (f : LaneF)
  /-- NBVALID Report which bearings reach a real neighbour. (R197) -/
  | nbvalid (f : LaneF)
  /-- RNG Draw a word from the cell's draw stream. (R230) -/
  | rng (f : LaneF)
  /-- RSEED Set a cell's seed and reset both stream counters. (R230) -/
  | rseed (f : LaneF)
  /-- SAMPLE Draw an index from a stash row of weights. (R231) -/
  | sample (f : LaneF)
  /-- KOP Combine two predicates by a truth table. (R232) -/
  | kop (f : LaneF)
  /-- SHFL Read a value from another participant lane. (R233) -/
  | shfl (f : LaneF)
  /-- LBCAST Broadcast one lane's value to all participants. (R234) -/
  | lbcast (f : LaneF)
  /-- GRED Reduce over participant lanes. (R235) -/
  | gred (f : LaneF)
  /-- GSCAN Prefix reduction over participant lanes. (R235) -/
  | gscan (f : LaneF)
  /-- ILLEGAL_ENCODING A scalar word that is not an instruction (reserved op, fn or sub, or a set bit in a field marked zero) traps with ILL_ENC and has no other effect. (R30) -/
  | illegalEncoding (w : W32)
  /-- STEP_CLOSE Memory publication, publication of unpublished exported registers and close announcement, as one act. (R191) -/
  | stepClose (g : GKey)
  /-- STEP_ENTRY A closed group enters the next step once its reader set has closed. (R192) -/
  | stepEntry (g : GKey)
  /-- CLAUSE_DECODE A clause reaching the head of its path's queue is fetched and decoded whole, trapping on the first failure. (R25) -/
  | clauseDecode (g : GKey) (slot : Bool)
  /-- CLAUSE_ISSUE A decoded clause whose wait flags are clear wins a lane pipe, raises its set flags and issues its instructions in order. (R26) -/
  | clauseIssue (g : GKey) (slot : Bool) (pipe : Nat)
  /-- LONG_LATENCY_COMPLETE A long-latency operation completes, landing its register writes and lowering its flag count. (R27) -/
  | longLatencyComplete (op : Nat)
  /-- ACCESS_RETURN A memory access returns, writing data or being accepted, and retires from its path counter. (R108) -/
  | accessReturn (op : Nat)
  /-- SLICE_ACCESS A load, store or atomic is performed at its home slice or held behind a fill. (R90) -/
  | sliceAccess (op part : Nat)
  /-- MERGING_FILL_LANDS A merging fill lands, validating words and performing held requests in arrival order. (R90) -/
  | mergingFillLands (slice line : Nat)
  /-- HOST_WINDOW_PASS The target slice passes host-window loads and published stores to the I/O die. (R94) -/
  | hostWindowPass (load : Option (Nat × Nat)) (ok : Bool) (data : Nat)
  /-- LREQ A host write of LREQ submits a launch descriptor. (R338) -/
  | lreq (pid : Nat) (v : W64)
  /-- EVRESP_RESUME Host answer RESUME resumes the group as rett does. (R363) -/
  | evrespResume (pid : Nat) (seq : W32)
  /-- EVRESP_FAIL Host answer FAIL to a page request delivers the cause as a trap. (R363) -/
  | evrespFail (pid : Nat) (seq : W32)
  /-- EVRESP_CANCEL Host answer CANCEL cancels the launches of the waiting groups. (R363) -/
  | evrespCancel (pid : Nat) (seq : W32)
  /-- PART_WRITE Write a partition's budget blocks. (R344) -/
  | partWrite (snd : Sender) (pid : Nat) (blk : BitVec 1024)
  /-- CORE_OWN_WRITE Write a core's ownership register. (R346) -/
  | coreOwnWrite (snd : Sender) (core : Nat) (v : BitVec 128)
  /-- ROOTS_WRITE Write both translation roots of a partition. (R373) -/
  | rootsWrite (snd : Sender) (pid : Nat) (s1 s2 : W64)
  /-- TLBI Invalidate TLB entries of a partition stage and range. (R377) -/
  | tlbi (snd : Sender) (pid : Nat) (blk : BitVec 256)
  /-- FEAT_ACCEPT One-time write of the accepted feature legend. (R414) -/
  | featAccept (sheet : Nat) (v : BitVec 256)
  /-- REGISTER_WRITE Write to a register with no behaviour of its own, ignoring RSV fields. (R5) -/
  | registerWrite (snd : Sender) (r : PReg) (v : W64)
  /-- SHEET_BIND The fabric manager binds a sheet's logical device to a host through the CXL fabric-manager API, giving it its device-memory range. (R342) -/
  | sheetBind (sheet base size : Nat)
  /-- HOST_MEM_ACCESS A host CXL.mem read or write to a sheet's memory is performed at its home slice, a write being published at fabric scope, with BISnp where needed. (R408) -/
  | hostMemAccess (sheet addr n : Nat) (data : Option (List Byte))
  /-- PACKET_HOP A router accepts a whole packet and adaptively chooses its next hop. (R290) -/
  | packetHop (src : HopSrc) (dst : HopDst)
  /-- REPLY_ARRIVAL A reply matching an outstanding tag completes its request; others count as late. (R304) -/
  | replyArrival (pkt : Packet)
  /-- POWER_ON Power is applied: INC is 0, every peer entry is ABSENT and the package starts in STRICT_SCOPE. (R418) -/
  | powerOn
  /-- THERMAL_SHUTDOWN At 105 C every group stops and the package powers down. (R420) -/
  | thermalShutdown
  /-- FIRMWARE_VERIFY The boot ROM verifies and measures firmware after reset. (R417) -/
  | firmwareVerify (ok : Bool) (measurement : BitVec 512)
  /-- STARTUP_COMPLETE Start-up self-test passes and the package leaves STRICT_SCOPE. (R269) -/
  | startupComplete
  /-- TAMLY_ID_WRITE The fabric manager writes ROW and COL of TAMLY_ID, ignored once the package is UP. (R298) -/
  | tamlyIdWrite (v : W32)
  /-- SLOT_REFILL A free or fully waiting slot is refilled from the spill stack. (R71) -/
  | slotRefill (g : GKey)
  /-- PATH_ROTATION A slot whose rotation count reaches 64 is pushed and the oldest non-waiting entry restored. (R72) -/
  | pathRotation (g : GKey) (slot : Bool)
  /-- FORCED_PUBLICATION The device publishes named words on a set, atomic, directory or widening need. (R262) -/
  | forcedPublication (core : Nat) (words : List Nat)
  /-- SCOPE_RETRY An access to a pinned line from outside its scope is retried at the target. (R268) -/
  | scopeRetry (op part : Nat)
  /-- MARGIN_VALUE_ARRIVAL A published value reaches the reader core's margin buffer, waking waiting reads. (R193) -/
  | marginValueArrival (slice n : Nat)
  /-- CLOSE_ANNOUNCEMENT A step close announcement reaches a reading group. (R191) -/
  | closeAnnouncement (n : Nat)
  /-- TICKET_FETCH_LANDS A ticket entry's reads land or fault, starting its lease. (R129) -/
  | ticketFetchLands (slice entry : Nat)
  /-- TICKET_LEASE_EXPIRY A filled or faulted entry's lease ends and the entry is reclaimed. (R130) -/
  | ticketLeaseExpiry (slice entry : Nat)
  /-- QUEUE_ELEMENT_ACCESS A push or pop is performed at the queue's slice, waking waiting poppers. (R143) -/
  | queueElementAccess (desc : Nat)
  /-- POP_BUFFER_FILL The core pops a clause's shortfall from the slice into the group's pop buffer. (R144) -/
  | popBufferFill (g : GKey) (n : Nat)
  /-- PUSH_BUFFER_DRAIN The push buffer drains elements to the slice in order. (R144) -/
  | pushBufferDrain (g : GKey) (n : Nat)
  /-- HANDLER_SPAWN The target core spawns a handler group for the oldest active message. (R147) -/
  | handlerSpawn (p : PKey)
  /-- AMSG_ENQUEUE A message is enqueued at the target parcel's core slice. (R147) -/
  | amsgEnqueue (n : Nat)
  /-- GROUP_END A transfer to address 0 ends the group once clauses complete and counters drain. (R237) -/
  | groupEnd (g : GKey) (slot : Bool)
  /-- EVICTION A blocked victim group is saved and an eligible entrant made resident. (R200) -/
  | eviction (p : PKey)
  /-- ENTRANT_ADMISSION An eligible non-resident group is made resident when the allowance has room. (R238) -/
  | entrantAdmission (p : PKey)
  /-- STREAMER_COMMAND_START An accepted streamer command starts and issues sectors. (R165) -/
  | streamerCommandStart (p : PKey)
  /-- SECTOR_LANDS A streamer sector lands, growing the prefix, decrementing the barrier and marking lines full. (R165) -/
  | sectorLands (p : PKey) (cmd sector : Nat)
  /-- STREAMER_FAULT A sector fault pauses the command for a page request or ends it with PERR. (R168) -/
  | streamerFault (p : PKey) (cmd sector : Nat) (c : Cause)
  /-- MAP_OPERATION A map or unmap of a stash map entry once earlier commands complete. (R169) -/
  | mapOperation (p : PKey)
  /-- MCAST_START An MCAST starts once its buffer is free in every receiver. (R177) -/
  | mcastStart (p : PKey)
  /-- MAPPED_FILL_LANDS A mapped stash line's merging fill from global memory lands. (R159) -/
  | mappedFillLands (p : PKey) (line : Nat)
  /-- FLIT_RETRY A flit failing its CRC is retried from the retry buffer. (R286) -/
  | flitRetry (port : Nat)
  /-- LANE_RETIRE A failing link lane is retired and the link narrows. (R286) -/
  | laneRetire (port : Nat)
  /-- SUSPECT_TIMEOUT A blocked packet's detector timeout makes it suspect. (R291) -/
  | suspectTimeout (n : Nat)
  /-- COMPASS_TOKEN_ARRIVAL The token reaches a router, which moves suspects into the relief lane. (R292) -/
  | compassTokenArrival (token : Token)
  /-- TOKEN_REISSUE The lowest UP package issues a new token after 128 us without one. (R294) -/
  | tokenReissue
  /-- SEQUENCED_APPLY The target slice applies a pair's packets in SEQ order. (R296) -/
  | sequencedApply (spkg slice : Nat)
  /-- PACKAGE_RESET A package resets, raising INC and sending a reset notice. (R301) -/
  | packageReset
  /-- RESET_NOTICE A router receives a reset notice, marks the peer DOWN and ends outstanding requests. (R301) -/
  | resetNotice (spkg sinc : Nat)
  /-- REQUEST_TIMEOUT A request outstanding for RTO ends with FAB_TIMEOUT and its tag is quarantined. (R305) -/
  | requestTimeout (die tag : Nat)
  /-- TAG_QUARANTINE_END A timed-out tag becomes reusable. (R305) -/
  | tagQuarantineEnd (die tag : Nat)
  /-- RSTA_SEGMENT The target slice writes, publishes and acknowledges an rsta segment. (R309) -/
  | rstaSegment (op part : Nat)
  /-- RSTA_ACK An rsta acknowledgement decrements the issuer's barrier. (R309) -/
  | rstaAck (op part : Nat)
  /-- DOOR_SEGMENT A 16-byte segment to a door decrements its barrier instead of writing memory. (R323) -/
  | doorSegment (op part : Nat)
  /-- REDUCTION_REQUEST The root router finds, joins or fills a reduction slot and answers. (R313) -/
  | reductionRequest (n : Nat)
  /-- REDUCTION_TIMER A reduction slot's timer expires, completing it or freeing it. (R314) -/
  | reductionTimer (slot : Nat)
  /-- LAUNCH_RELEASE An accepted launch is released when dependences and START are met. (R332) -/
  | launchRelease (h : Nat)
  /-- LAUNCH_PLACEMENT A released launch's parcels are placed on cores and groups become resident. (R332) -/
  | launchPlacement (h : Nat)
  /-- LAUNCH_END A launch ends, lowering OUT and raising DONE in its records. (R326) -/
  | launchEnd (h : Nat)
  /-- RECORD_DROP A launch, graph or stage record is dropped 4 ms after OUT reaches 0. (R326) -/
  | recordDrop (sheet lvl h : Nat)
  /-- SLICE_START A time-shared core gives its next slice to the partition of least virtual time. (R350) -/
  | sliceStart (core : Nat)
  /-- SLICE_END A partition's slice ends and its resident groups stop and are saved. (R351) -/
  | sliceEnd (core : Nat)
  /-- SAVE_TIMEOUT At SAVETO unstopped groups take a forced precise save and SLICE_FORCED is logged. (R351) -/
  | saveTimeout (core : Nat)
  /-- PAGE_WALK A two-stage table walk completes with a translation or a fault. (R375) -/
  | pageWalk (core pid va : Nat) (acc : Acc)
  /-- PRECISE_STOP A group stops at its next stop point, capturing unfinished instructions. (R356) -/
  | preciseStop (g : GKey)
  /-- LATE_FAULT_ARRIVAL A fault known only at reply stops the group or is recorded as deferred. (R432) -/
  | lateFaultArrival (op part : Nat) (c : Cause)
  /-- EVENT_RECORD_WRITE The device writes a record to the event ring when room exists. (R363) -/
  | eventRecordWrite (pid : Nat)
  /-- CKPT A checkpoint request starts the cut of the job. (R381) -/
  | ckpt (snd : Sender) (blk : BitVec 512)
  /-- MIGRATE A checkpoint with MODE 1 keeps holds and ends the job on its source after commit. (R389) -/
  | migrate (snd : Sender) (blk : BitVec 512)
  /-- CUT_TAKEN Once all groups reach the cut, the job is published, recorded and released. (R382) -/
  | cutTaken (job : Nat)
  /-- CUT_TIMEOUT TMO passes before the cut and the checkpoint is abandoned. (R381) -/
  | cutTimeout (job : Nat)
  /-- BLOCK_COPY The copier seals one pending block, then performs any held write. (R384) -/
  | blockCopy (job : Nat)
  /-- CHECKPOINT_COMMIT After sealing and signing, the counter is written to a quorum and CTR advances. (R386) -/
  | checkpointCommit (job : Nat) (a : CtrAct)
  /-- RESTORE Check a sealed image and restore the job onto packages. (R388) -/
  | restore (snd : Sender) (blk : BitVec 512) (sigOk peersOk : Bool) (seen : Opening)
  /-- REPLAY_HORIZON Replay reaches the marker and every group stops with DBG_STOP. (R405) -/
  | replayHorizon (job : Nat)
  /-- PART_READ Read a partition's budget blocks and SAVEMAX. (R412) -/
  | partRead (snd : Sender) (pid : Nat)
  /-- CORE_OWN_READ Read a core's ownership register. (R412) -/
  | coreOwnRead (snd : Sender) (core : Nat)
  /-- ROOTS_WRITE_S1 Write only S1ROOT of a partition. (R373) -/
  | rootsWriteS1 (snd : Sender) (pid : Nat) (s1 : W64)
  /-- ROOTS_READ Read a partition's translation roots. (R412) -/
  | rootsRead (snd : Sender) (pid : Nat)
  /-- TAMLY_CFG_WRITE Write the fabric settings. (R295) -/
  | tamlyCfgWrite (snd : Sender) (v : W64)
  /-- TAMLY_CFG_READ Read the fabric settings. (R412) -/
  | tamlyCfgRead (snd : Sender)
  /-- PEER_WRITE Write peer table entries. (R299) -/
  | peerWrite (snd : Sender) (first : Nat) (vs : List W64)
  /-- PEER_READ Read peer table entries. (R412) -/
  | peerRead (snd : Sender) (first n : Nat)
  /-- INCSET Set the package incarnation once after power-on. (R418) -/
  | incset (snd : Sender) (v : W64)
  /-- END_JOB Cancel a job's work and drop its record. (R347) -/
  | endJob (snd : Sender) (pid job : Nat)
  /-- SCOPE_NORMAL Leave STRICT_SCOPE mode. (R269) -/
  | scopeNormal (snd : Sender)
  /-- SCOPE_STRICT Enter STRICT_SCOPE mode, pinning narrow-held lines. (R269) -/
  | scopeStrict (snd : Sender)
  /-- IMAGE_READ Read bytes of a stopped group's save image. (R413) -/
  | imageRead (snd : Sender) (g : GKey) (off len : Nat)
  /-- IMAGE_WRITE Write bytes of a stopped group's save image. (R369) -/
  | imageWrite (snd : Sender) (g : GKey) (off : Nat) (data : List W64)
  /-- DEBUG_STOP Stop named groups with DBG_STOP. (R398) -/
  | debugStop (snd : Sender) (launch : Nat) (gid : Option Nat)
  /-- SKCTL_WRITE Write a core's sketch control, CLR zeroing the sketch. (R394) -/
  | skctlWrite (snd : Sender) (core : Nat) (v : W64)
  /-- SKCTL_READ Read a core's sketch control. (R413) -/
  | skctlRead (snd : Sender) (core : Nat)
  /-- SKETCH_READ Read a key's estimate, counters and N. (R395) -/
  | sketchRead (snd : Sender) (core : Option Nat) (key : W32)
  /-- LOGCTL_WRITE Write a job's record/replay log control. (R403) -/
  | logctlWrite (snd : Sender) (job : Nat) (v : W64)
  /-- LOGCTL_READ Read a job's log control. (R413) -/
  | logctlRead (snd : Sender) (job : Nat)
  /-- COUNT_READ Read a work record's counter word. (R412) -/
  | countRead (snd : Sender) (lvl h : Nat)
  /-- HOST_CANCEL Cancel a work record from the host. (R337) -/
  | hostCancel (snd : Sender) (lvl h : Nat)
  /-- ROUTER_COUNT Read the router counters. (R306) -/
  | routerCount (snd : Sender)
  /-- EVSEL_WRITE Select event-counter events, zeroing the counters written. (R401) -/
  | evselWrite (pid : Nat) (v : W64)
  /-- UNIT_ERROR A unit reports an error and is isolated and tested. (R415) -/
  | unitError (u : UnitId) (corrected : Bool)
  /-- SELF_TEST_DONE A unit's self-test ends, returning it to service or retiring it to a spare. (R415) -/
  | selfTestDone (u : UnitId) (pass : Bool)
  /-- CLOCK_HOLDOVER No PTP master is heard and the clock holds over. (R419) -/
  | clockHoldover
  /-- POWER_CAP A power cap or thermal limit lowers the arithmetic clock. (R420) -/
  | powerCap (mhz : Nat)
  /-- SHEET_UNBIND The fabric manager unbinds a sheet, which the device refuses while any job of the sheet is live. (R342) -/
  | sheetUnbind (sheet : Nat)
  /-- PORT_FAILURE A Tamly port fails entirely, is removed from routing, and packets in its retry buffer are resent by another route. (R286) -/
  | portFailure (port : Nat)
  /-- PTP_MASTER_HEARD A PTP master is heard again and the meridian clock leaves holdover, clearing HOLDOVER. (R419) -/
  | ptpMasterHeard
  /-- POWER_CAP_LIFTED A power cap or thermal limit ends and the arithmetic clock is raised back toward 1.6 GHz. (R420) -/
  | powerCapLifted (mhz : Nat)
  deriving DecidableEq, Repr

end Sys2Proof
end

