-- ==== Sys2Proof/Decode.lean ====
section
/-!
DEFINITION. From words to instructions and back (01), and the checks a lane word is decoded under (01, R17-R23;
05, R116-R136; 07, R196-R197; 08; 10).
-/

namespace Sys2Proof

open Sys2Proof.Machine

/-! ## The scalar word -/

/-- Words of opcode 0x00. -/
def decOp00 (w : W32) (d a b : BitVec 6) (f : BitVec 8) : Instr :=
  if (f = 0#8) then .add d a b
  else if (f = 1#8) then .sub d a b
  else if (f = 2#8) then .and d a b
  else if (f = 3#8) then .or d a b
  else if (f = 4#8) then .xor d a b
  else if (f = 5#8) then .shl d a b
  else if (f = 6#8) then .shr d a b
  else if (f = 7#8) then .sar d a b
  else if (f = 8#8) then .mul d a b
  else if (f = 9#8) then .mulh d a b
  else if (f = 10#8) then .mulhu d a b
  else if (f = 11#8) then .div d a b
  else if (f = 12#8) then .divu d a b
  else if (f = 13#8) then .rem d a b
  else if (f = 14#8) then .remu d a b
  else if (f = 15#8) then .min d a b
  else if (f = 16#8) then .max d a b
  else if (f = 17#8) then .minu d a b
  else if (f = 18#8) then .maxu d a b
  else if (f = 19#8) then .slt d a b
  else if (f = 20#8) then .sltu d a b
  else if (f = 21#8) then .seq d a b
  else if (b = 0#6) && (f = 22#8) then .clz d a
  else if (b = 0#6) && (f = 23#8) then .popc d a
  else if (f = 24#8) then .andn d a b
  else .illegalEncoding w

/-- Words of opcode 0x01. -/
def decOp01 (_w : W32) (d a b : BitVec 6) (f : BitVec 8) : Instr :=
  .addi d a (b ++ f)

/-- Words of opcode 0x02. -/
def decOp02 (_w : W32) (d a b : BitVec 6) (f : BitVec 8) : Instr :=
  .andi d a (b ++ f)

/-- Words of opcode 0x03. -/
def decOp03 (_w : W32) (d a b : BitVec 6) (f : BitVec 8) : Instr :=
  .ori d a (b ++ f)

/-- Words of opcode 0x04. -/
def decOp04 (_w : W32) (d a b : BitVec 6) (f : BitVec 8) : Instr :=
  .xori d a (b ++ f)

/-- Words of opcode 0x05. -/
def decOp05 (w : W32) (d a b : BitVec 6) (f : BitVec 8) : Instr :=
  if (b = 0#6) && (f &&& 192#8 = 0#8) then .shli d a (f.extractLsb' 0 6)
  else .illegalEncoding w

/-- Words of opcode 0x06. -/
def decOp06 (w : W32) (d a b : BitVec 6) (f : BitVec 8) : Instr :=
  if (b = 0#6) && (f &&& 192#8 = 0#8) then .shri d a (f.extractLsb' 0 6)
  else .illegalEncoding w

/-- Words of opcode 0x07. -/
def decOp07 (w : W32) (d a b : BitVec 6) (f : BitVec 8) : Instr :=
  if (b = 0#6) && (f &&& 192#8 = 0#8) then .sari d a (f.extractLsb' 0 6)
  else .illegalEncoding w

/-- Words of opcode 0x08. -/
def decOp08 (_w : W32) (d a b : BitVec 6) (f : BitVec 8) : Instr :=
  .slti d a (b ++ f)

/-- Words of opcode 0x09. -/
def decOp09 (_w : W32) (d a b : BitVec 6) (f : BitVec 8) : Instr :=
  .sltiu d a (b ++ f)

/-- Words of opcode 0x0A. -/
def decOp0A (_w : W32) (d a b : BitVec 6) (f : BitVec 8) : Instr :=
  .lui d (a ++ b ++ f)

/-- Words of opcode 0x0B. -/
def decOp0B (_w : W32) (d a b : BitVec 6) (f : BitVec 8) : Instr :=
  .addpc d (a ++ b ++ f)

/-- Words of opcode 0x0C. -/
def decOp0C (w : W32) (d a b : BitVec 6) (f : BitVec 8) : Instr :=
  if (a &&& 48#6 = 0#6) then .movk d (a.extractLsb' 2 2) ((a.extractLsb' 0 2) ++ b ++ f)
  else .illegalEncoding w

/-- Words of opcode 0x10. -/
def decOp10 (_w : W32) (d a b : BitVec 6) (f : BitVec 8) : Instr :=
  .beq d a (b ++ f)

/-- Words of opcode 0x11. -/
def decOp11 (_w : W32) (d a b : BitVec 6) (f : BitVec 8) : Instr :=
  .bne d a (b ++ f)

/-- Words of opcode 0x12. -/
def decOp12 (_w : W32) (d a b : BitVec 6) (f : BitVec 8) : Instr :=
  .blt d a (b ++ f)

/-- Words of opcode 0x13. -/
def decOp13 (_w : W32) (d a b : BitVec 6) (f : BitVec 8) : Instr :=
  .bge d a (b ++ f)

/-- Words of opcode 0x14. -/
def decOp14 (_w : W32) (d a b : BitVec 6) (f : BitVec 8) : Instr :=
  .bltu d a (b ++ f)

/-- Words of opcode 0x15. -/
def decOp15 (_w : W32) (d a b : BitVec 6) (f : BitVec 8) : Instr :=
  .bgeu d a (b ++ f)

/-- Words of opcode 0x16. -/
def decOp16 (_w : W32) (d a b : BitVec 6) (f : BitVec 8) : Instr :=
  .jmp (d ++ a ++ b ++ f)

/-- Words of opcode 0x17. -/
def decOp17 (_w : W32) (d a b : BitVec 6) (f : BitVec 8) : Instr :=
  .call (d ++ a ++ b ++ f)

/-- Words of opcode 0x18. -/
def decOp18 (w : W32) (d a b : BitVec 6) (f : BitVec 8) : Instr :=
  if (b = 0#6) && (f = 0#8) then .jmpr d a
  else .illegalEncoding w

/-- Words of opcode 0x19. -/
def decOp19 (w : W32) (d a b : BitVec 6) (f : BitVec 8) : Instr :=
  if (d &&& 3#6 = 0#6) && (a = 0#6) && (!((d.extractLsb' 3 3) = 0#3 && (d.extractLsb' 2 1) = 1#1)) then .split (d.extractLsb' 3 3) (d.extractLsb' 2 1) (b ++ f)
  else .illegalEncoding w

/-- Words of opcode 0x1A. -/
def decOp1A (w : W32) (d a b : BitVec 6) (f : BitVec 8) : Instr :=
  if (d = 0#6) && (a = 0#6) && (b = 0#6) && (f = 0#8) then .join
  else .illegalEncoding w

/-- Words of opcode 0x1B. -/
def decOp1B (w : W32) (d a b : BitVec 6) (f : BitVec 8) : Instr :=
  if (a = 0#6) && (b = 0#6) && (f &&& 240#8 = 0#8) && (!((f.extractLsb' 0 3) = 0#3 && (f.extractLsb' 3 1) = 1#1)) then .pany d (f.extractLsb' 3 1) (f.extractLsb' 0 3)
  else if (a = 0#6) && (b = 1#6) && (f &&& 240#8 = 0#8) && (!((f.extractLsb' 0 3) = 0#3 && (f.extractLsb' 3 1) = 1#1)) then .pall d (f.extractLsb' 3 1) (f.extractLsb' 0 3)
  else if (a = 0#6) && (b = 2#6) && (f &&& 240#8 = 0#8) && (!((f.extractLsb' 0 3) = 0#3 && (f.extractLsb' 3 1) = 1#1)) then .pcnt d (f.extractLsb' 3 1) (f.extractLsb' 0 3)
  else if (a = 0#6) && (b = 3#6) && (f &&& 240#8 = 0#8) && (!((f.extractLsb' 0 3) = 0#3 && (f.extractLsb' 3 1) = 1#1)) then .pmask d (f.extractLsb' 3 1) (f.extractLsb' 0 3)
  else .illegalEncoding w

/-- Words of opcode 0x1C. -/
def decOp1C (_w : W32) (d a b : BitVec 6) (f : BitVec 8) : Instr :=
  .cls (d ++ a ++ b ++ f)

/-- Words of opcode 0x1D. -/
def decOp1D (w : W32) (d a b : BitVec 6) (f : BitVec 8) : Instr :=
  if (d = 0#6) && (b = 0#6) && (f = 0#8) then .clsr a
  else .illegalEncoding w

/-- Words of opcode 0x1E. -/
def decOp1E (w : W32) (d a b : BitVec 6) (f : BitVec 8) : Instr :=
  if (d = 0#6) && (b = 0#6) && (f &&& 240#8 = 0#8) then .spopen a (f.extractLsb' 0 4)
  else if (d = 0#6) && (b = 1#6) && (f &&& 240#8 = 0#8) then .spslot a (f.extractLsb' 0 4)
  else if (d = 0#6) && (b = 2#6) && (f &&& 240#8 = 0#8) then .spcommit a (f.extractLsb' 0 4)
  else .illegalEncoding w

/-- Words of opcode 0x20. -/
def decOp20 (_w : W32) (d a b : BitVec 6) (f : BitVec 8) : Instr :=
  .ldb d a (b ++ f)

/-- Words of opcode 0x21. -/
def decOp21 (_w : W32) (d a b : BitVec 6) (f : BitVec 8) : Instr :=
  .ldh d a (b ++ f)

/-- Words of opcode 0x22. -/
def decOp22 (_w : W32) (d a b : BitVec 6) (f : BitVec 8) : Instr :=
  .ldw d a (b ++ f)

/-- Words of opcode 0x23. -/
def decOp23 (_w : W32) (d a b : BitVec 6) (f : BitVec 8) : Instr :=
  .ldd d a (b ++ f)

/-- Words of opcode 0x24. -/
def decOp24 (_w : W32) (d a b : BitVec 6) (f : BitVec 8) : Instr :=
  .ldbu d a (b ++ f)

/-- Words of opcode 0x25. -/
def decOp25 (_w : W32) (d a b : BitVec 6) (f : BitVec 8) : Instr :=
  .ldhu d a (b ++ f)

/-- Words of opcode 0x26. -/
def decOp26 (_w : W32) (d a b : BitVec 6) (f : BitVec 8) : Instr :=
  .ldwu d a (b ++ f)

/-- Words of opcode 0x27. -/
def decOp27 (_w : W32) (d a b : BitVec 6) (f : BitVec 8) : Instr :=
  .stb d a (b ++ f)

/-- Words of opcode 0x28. -/
def decOp28 (_w : W32) (d a b : BitVec 6) (f : BitVec 8) : Instr :=
  .sth d a (b ++ f)

/-- Words of opcode 0x29. -/
def decOp29 (_w : W32) (d a b : BitVec 6) (f : BitVec 8) : Instr :=
  .stw d a (b ++ f)

/-- Words of opcode 0x2A. -/
def decOp2A (_w : W32) (d a b : BitVec 6) (f : BitVec 8) : Instr :=
  .std d a (b ++ f)

/-- Words of opcode 0x2B. -/
def decOp2B (w : W32) (d a b : BitVec 6) (f : BitVec 8) : Instr :=
  if (a = 0#6) && (f = 0#8) && (b < 17#6) then .gets d b
  else .illegalEncoding w

/-- Words of opcode 0x2C. -/
def decOp2C (w : W32) (d a b : BitVec 6) (f : BitVec 8) : Instr :=
  if (d = 0#6) && (f = 0#8) && (b = 7#6 || b = 8#6 || b = 15#6) then .sets a b
  else .illegalEncoding w

/-- Words of opcode 0x2D. -/
def decOp2D (w : W32) (d a b : BitVec 6) (f : BitVec 8) : Instr :=
  if (f &&& 252#8 = 0#8) && (b != 0#6 && b < 33#6) then .tkld d a b (f.extractLsb' 0 2)
  else .illegalEncoding w

/-- Words of opcode 0x2E. -/
def decOp2E (w : W32) (d a b : BitVec 6) (f : BitVec 8) : Instr :=
  if (d = 0#6) && (b = 0#6) && (f &&& 192#8 = 0#8) then .tkred a (f.extractLsb' 0 6)
  else if (b = 1#6) && (f &&& 192#8 = 0#8) then .tkredQ d a (f.extractLsb' 0 6)
  else .illegalEncoding w

/-- Words of opcode 0x2F. -/
def decOp2F (w : W32) (d a b : BitVec 6) (f : BitVec 8) : Instr :=
  if (d = 0#6) && (b = 0#6) && (f = 0#8) then .tkdrop a
  else .illegalEncoding w

/-- Words of opcode 0x30. -/
def decOp30 (w : W32) (d a b : BitVec 6) (f : BitVec 8) : Instr :=
  if (d = 0#6) && (f = 0#8) && (b < 4#6) then .waitp a b
  else .illegalEncoding w

/-- Words of opcode 0x31. -/
def decOp31 (w : W32) (d a b : BitVec 6) (f : BitVec 8) : Instr :=
  if (d = 0#6) && (a = 0#6) && (b &&& 48#6 = 0#6) then .waitf ((b.extractLsb' 0 4) ++ f)
  else .illegalEncoding w

/-- Words of opcode 0x32. -/
def decOp32 (w : W32) (d a b : BitVec 6) (f : BitVec 8) : Instr :=
  if (d = 0#6) && (a = 0#6) && (b = 0#6) && (f &&& 248#8 = 0#8) && ((f.extractLsb' 0 3) < 6#3) then .fence (f.extractLsb' 0 3)
  else .illegalEncoding w

/-- Words of opcode 0x33. -/
def decOp33 (w : W32) (d a b : BitVec 6) (f : BitVec 8) : Instr :=
  if (d = 0#6) && (a = 0#6) && (b = 0#6) && (f &&& 248#8 = 0#8) && ((f.extractLsb' 0 3) < 6#3) then .pub (f.extractLsb' 0 3)
  else if (d = 0#6) && (a = 0#6) && (b = 1#6) && (f &&& 248#8 = 0#8) && ((f.extractLsb' 0 3) < 6#3) then .acq (f.extractLsb' 0 3)
  else .illegalEncoding w

/-- Words of opcode 0x34. -/
def decOp34 (w : W32) (d a b : BitVec 6) (f : BitVec 8) : Instr :=
  if (d = 0#6) && (a = 0#6) && (b = 0#6) && (f = 0#8) then .step
  else if (a = 0#6) && (b = 1#6) && (f = 0#8) then .stepq d
  else .illegalEncoding w

/-- Words of opcode 0x35. -/
def decOp35 (w : W32) (d a b : BitVec 6) (f : BitVec 8) : Instr :=
  if (d = 0#6) && (b = 0#6) && (f &&& 248#8 = 0#8) then .qbind a (f.extractLsb' 0 3)
  else if (a = 0#6) && (b = 1#6) && (f &&& 248#8 = 0#8) then .qunbind d (f.extractLsb' 0 3)
  else if (d = 0#6) && (b = 2#6) && (f &&& 248#8 = 0#8) then .qpush a (f.extractLsb' 0 3)
  else if (b = 2#6) && (f &&& 248#8 = 8#8) then .qpushT d a (f.extractLsb' 0 3)
  else if (a = 0#6) && (b = 3#6) && (f &&& 248#8 = 0#8) then .qpop d (f.extractLsb' 0 3)
  else if (b = 4#6) && (f &&& 248#8 = 0#8) then .qtry d a (f.extractLsb' 0 3)
  else if (a = 0#6) && (b = 5#6) && (f &&& 248#8 = 0#8) then .qlen d (f.extractLsb' 0 3)
  else .illegalEncoding w

/-- Words of opcode 0x36. -/
def decOp36 (w : W32) (d a b : BitVec 6) (f : BitVec 8) : Instr :=
  if (f &&& 192#8 = 0#8) then .amsg d a b (f.extractLsb' 0 6)
  else if (d = 0#6) && (b = 0#6) && (f &&& 192#8 = 128#8) then .amsgReply a (f.extractLsb' 0 6)
  else .illegalEncoding w

/-- Words of opcode 0x37. -/
def decOp37 (w : W32) (d a b : BitVec 6) (f : BitVec 8) : Instr :=
  if (b = 0#6) && (f = 0#8) then .launch d a
  else if (b = 1#6) && (f &&& 252#8 = 0#8) then .waitw d a (f.extractLsb' 0 2)
  else if (d = 0#6) && (b = 2#6) && (f &&& 252#8 = 0#8) then .cancel a (f.extractLsb' 0 2)
  else if (b = 3#6) && (f &&& 252#8 = 0#8) then .wcount d a (f.extractLsb' 0 2)
  else .illegalEncoding w

/-- Words of opcode 0x38. -/
def decOp38 (w : W32) (d a b : BitVec 6) (f : BitVec 8) : Instr :=
  if (d = 0#6) && (a = 0#6) && (b = 0#6) && (f &&& 192#8 = 0#8) then .trap (f.extractLsb' 0 6)
  else if (d = 0#6) && (a = 0#6) && (b = 1#6) then .brkpt f
  else if (d = 0#6) && (a = 0#6) && (b = 2#6) && (f = 0#8) then .yield
  else if (d = 0#6) && (b = 3#6) && (f = 0#8) then .contset a
  else if (d = 0#6) && (a = 0#6) && (b = 4#6) && (f = 0#8) then .contret
  else if (d = 0#6) && (a = 0#6) && (b = 5#6) && (f = 0#8) then .nop
  else .illegalEncoding w

/-- Words of opcode 0x39. -/
def decOp39 (w : W32) (d a b : BitVec 6) (f : BitVec 8) : Instr :=
  if (d = 0#6) && (a = 0#6) && (b = 0#6) && (f = 0#8) then .rett
  else .illegalEncoding w

/-- Words of opcode 0x3A. -/
def decOp3A (w : W32) (d a b : BitVec 6) (f : BitVec 8) : Instr :=
  if (b = 0#6) && (f = 0#8) then .binit d a
  else if (b = 1#6) && (f = 0#8) then .bexpect d a
  else if (d = 0#6) && (b = 2#6) && (f = 0#8) then .barrive a
  else if (b = 3#6) && (f = 0#8) then .bwait d a
  else if (b = 4#6) && (f = 0#8) then .btest d a
  else if (d = 0#6) && (a = 0#6) && (b = 5#6) && (f &&& 240#8 = 0#8) then .mfree (f.extractLsb' 0 4)
  else .illegalEncoding w

/-- Words of opcode 0x3B. -/
def decOp3B (w : W32) (d a b : BitVec 6) (f : BitVec 8) : Instr :=
  if (f = 0#8) then .satomAdd d a b
  else if (f = 1#8) then .satomSwap d a b
  else if (f = 2#8) then .satomCas d a b
  else if (f = 3#8) then .satomMin d a b
  else if (f = 4#8) then .satomMax d a b
  else if (f = 5#8) then .satomMinu d a b
  else if (f = 6#8) then .satomMaxu d a b
  else if (f = 7#8) then .satomAnd d a b
  else if (f = 8#8) then .satomOr d a b
  else if (f = 9#8) then .satomXor d a b
  else .illegalEncoding w

/-- Words of opcode 0x3C. -/
def decOp3C (w : W32) (d a b : BitVec 6) (f : BitVec 8) : Instr :=
  if (d = 0#6) && (b = 0#6) && (f = 0#8) then .setmode a
  else if (a = 0#6) && (b = 1#6) && (f = 0#8) then .getmode d
  else if (d = 0#6) && (b = 2#6) && (f = 0#8) then .setfmt a
  else if (a = 0#6) && (b = 3#6) && (f = 0#8) then .getfmt d
  else .illegalEncoding w

/-- Words of opcode 0x3D. -/
def decOp3D (w : W32) (d a b : BitVec 6) (f : BitVec 8) : Instr :=
  if (b = 0#6) then .rsta d a f
  else if (b = 1#6) && (f = 0#8) then .fralloc d a
  else if (b = 2#6) && (f = 0#8) then .frcontrib d a
  else if (b = 2#6) && (f &&& 192#8 = 64#8) then .frcontribQ d a (f.extractLsb' 0 6)
  else if (b = 3#6) && (f &&& 192#8 = 0#8) then .frwait d a (f.extractLsb' 0 6)
  else .illegalEncoding w

/-- Words of opcode 0x3E. -/
def decOp3E (w : W32) (d a b : BitVec 6) (f : BitVec 8) : Instr :=
  if (d = 0#6) && (b &&& 48#6 = 0#6) && (f = 0#8) then .tcfg a (b.extractLsb' 0 4)
  else if (a = 0#6) && (b &&& 48#6 = 0#6) && (f = 1#8) then .tcfgR d (b.extractLsb' 0 4)
  else .illegalEncoding w

/-- The instruction of a scalar word (01, R8-R16); total, every other word is `illegalEncoding` (R30). -/
def decodeScalar (w : W32) : Instr :=
  let op := w.extractLsb' 26 6
  let d := w.extractLsb' 20 6
  let a := w.extractLsb' 14 6
  let b := w.extractLsb' 8 6
  let f := w.extractLsb' 0 8
  if op = 0x00#6 then decOp00 w d a b f
  else if op = 0x01#6 then decOp01 w d a b f
  else if op = 0x02#6 then decOp02 w d a b f
  else if op = 0x03#6 then decOp03 w d a b f
  else if op = 0x04#6 then decOp04 w d a b f
  else if op = 0x05#6 then decOp05 w d a b f
  else if op = 0x06#6 then decOp06 w d a b f
  else if op = 0x07#6 then decOp07 w d a b f
  else if op = 0x08#6 then decOp08 w d a b f
  else if op = 0x09#6 then decOp09 w d a b f
  else if op = 0x0A#6 then decOp0A w d a b f
  else if op = 0x0B#6 then decOp0B w d a b f
  else if op = 0x0C#6 then decOp0C w d a b f
  else if op = 0x10#6 then decOp10 w d a b f
  else if op = 0x11#6 then decOp11 w d a b f
  else if op = 0x12#6 then decOp12 w d a b f
  else if op = 0x13#6 then decOp13 w d a b f
  else if op = 0x14#6 then decOp14 w d a b f
  else if op = 0x15#6 then decOp15 w d a b f
  else if op = 0x16#6 then decOp16 w d a b f
  else if op = 0x17#6 then decOp17 w d a b f
  else if op = 0x18#6 then decOp18 w d a b f
  else if op = 0x19#6 then decOp19 w d a b f
  else if op = 0x1A#6 then decOp1A w d a b f
  else if op = 0x1B#6 then decOp1B w d a b f
  else if op = 0x1C#6 then decOp1C w d a b f
  else if op = 0x1D#6 then decOp1D w d a b f
  else if op = 0x1E#6 then decOp1E w d a b f
  else if op = 0x20#6 then decOp20 w d a b f
  else if op = 0x21#6 then decOp21 w d a b f
  else if op = 0x22#6 then decOp22 w d a b f
  else if op = 0x23#6 then decOp23 w d a b f
  else if op = 0x24#6 then decOp24 w d a b f
  else if op = 0x25#6 then decOp25 w d a b f
  else if op = 0x26#6 then decOp26 w d a b f
  else if op = 0x27#6 then decOp27 w d a b f
  else if op = 0x28#6 then decOp28 w d a b f
  else if op = 0x29#6 then decOp29 w d a b f
  else if op = 0x2A#6 then decOp2A w d a b f
  else if op = 0x2B#6 then decOp2B w d a b f
  else if op = 0x2C#6 then decOp2C w d a b f
  else if op = 0x2D#6 then decOp2D w d a b f
  else if op = 0x2E#6 then decOp2E w d a b f
  else if op = 0x2F#6 then decOp2F w d a b f
  else if op = 0x30#6 then decOp30 w d a b f
  else if op = 0x31#6 then decOp31 w d a b f
  else if op = 0x32#6 then decOp32 w d a b f
  else if op = 0x33#6 then decOp33 w d a b f
  else if op = 0x34#6 then decOp34 w d a b f
  else if op = 0x35#6 then decOp35 w d a b f
  else if op = 0x36#6 then decOp36 w d a b f
  else if op = 0x37#6 then decOp37 w d a b f
  else if op = 0x38#6 then decOp38 w d a b f
  else if op = 0x39#6 then decOp39 w d a b f
  else if op = 0x3A#6 then decOp3A w d a b f
  else if op = 0x3B#6 then decOp3B w d a b f
  else if op = 0x3C#6 then decOp3C w d a b f
  else if op = 0x3D#6 then decOp3D w d a b f
  else if op = 0x3E#6 then decOp3E w d a b f
  else .illegalEncoding w

/-- A scalar word from its fields (01, R8). -/
def catWord (op d a b : BitVec 6) (f : BitVec 8) : W32 := (op ++ d ++ a ++ b ++ f : BitVec (6 + 6 + 6 + 6 + 8))

/-- The word of a scalar instruction (01, R8-R16); none for the other rows. -/
def encodeScalar : Instr → Option W32
  | .add d a b => some (catWord 0x00#6 d a b 0#8)
  | .sub d a b => some (catWord 0x00#6 d a b 1#8)
  | .and d a b => some (catWord 0x00#6 d a b 2#8)
  | .or d a b => some (catWord 0x00#6 d a b 3#8)
  | .xor d a b => some (catWord 0x00#6 d a b 4#8)
  | .shl d a b => some (catWord 0x00#6 d a b 5#8)
  | .shr d a b => some (catWord 0x00#6 d a b 6#8)
  | .sar d a b => some (catWord 0x00#6 d a b 7#8)
  | .mul d a b => some (catWord 0x00#6 d a b 8#8)
  | .mulh d a b => some (catWord 0x00#6 d a b 9#8)
  | .mulhu d a b => some (catWord 0x00#6 d a b 10#8)
  | .div d a b => some (catWord 0x00#6 d a b 11#8)
  | .divu d a b => some (catWord 0x00#6 d a b 12#8)
  | .rem d a b => some (catWord 0x00#6 d a b 13#8)
  | .remu d a b => some (catWord 0x00#6 d a b 14#8)
  | .min d a b => some (catWord 0x00#6 d a b 15#8)
  | .max d a b => some (catWord 0x00#6 d a b 16#8)
  | .minu d a b => some (catWord 0x00#6 d a b 17#8)
  | .maxu d a b => some (catWord 0x00#6 d a b 18#8)
  | .slt d a b => some (catWord 0x00#6 d a b 19#8)
  | .sltu d a b => some (catWord 0x00#6 d a b 20#8)
  | .seq d a b => some (catWord 0x00#6 d a b 21#8)
  | .clz d a => some (catWord 0x00#6 d a 0#6 22#8)
  | .popc d a => some (catWord 0x00#6 d a 0#6 23#8)
  | .andn d a b => some (catWord 0x00#6 d a b 24#8)
  | .addi d a i => some (catWord 0x01#6 d a (i.extractLsb' 8 6) (i.extractLsb' 0 8))
  | .andi d a i => some (catWord 0x02#6 d a (i.extractLsb' 8 6) (i.extractLsb' 0 8))
  | .ori d a i => some (catWord 0x03#6 d a (i.extractLsb' 8 6) (i.extractLsb' 0 8))
  | .xori d a i => some (catWord 0x04#6 d a (i.extractLsb' 8 6) (i.extractLsb' 0 8))
  | .shli d a i => some (catWord 0x05#6 d a 0#6 (0#2 ++ i))
  | .shri d a i => some (catWord 0x06#6 d a 0#6 (0#2 ++ i))
  | .sari d a i => some (catWord 0x07#6 d a 0#6 (0#2 ++ i))
  | .slti d a i => some (catWord 0x08#6 d a (i.extractLsb' 8 6) (i.extractLsb' 0 8))
  | .sltiu d a i => some (catWord 0x09#6 d a (i.extractLsb' 8 6) (i.extractLsb' 0 8))
  | .lui d i => some (catWord 0x0A#6 d (i.extractLsb' 14 6) (i.extractLsb' 8 6) (i.extractLsb' 0 8))
  | .addpc d i => some (catWord 0x0B#6 d (i.extractLsb' 14 6) (i.extractLsb' 8 6) (i.extractLsb' 0 8))
  | .movk d q v => some (catWord 0x0C#6 d (0#2 ++ q ++ (v.extractLsb' 14 2)) (v.extractLsb' 8 6) (v.extractLsb' 0 8))
  | .beq c a o => some (catWord 0x10#6 c a (o.extractLsb' 8 6) (o.extractLsb' 0 8))
  | .bne c a o => some (catWord 0x11#6 c a (o.extractLsb' 8 6) (o.extractLsb' 0 8))
  | .blt c a o => some (catWord 0x12#6 c a (o.extractLsb' 8 6) (o.extractLsb' 0 8))
  | .bge c a o => some (catWord 0x13#6 c a (o.extractLsb' 8 6) (o.extractLsb' 0 8))
  | .bltu c a o => some (catWord 0x14#6 c a (o.extractLsb' 8 6) (o.extractLsb' 0 8))
  | .bgeu c a o => some (catWord 0x15#6 c a (o.extractLsb' 8 6) (o.extractLsb' 0 8))
  | .jmp o => some (catWord 0x16#6 (o.extractLsb' 20 6) (o.extractLsb' 14 6) (o.extractLsb' 8 6) (o.extractLsb' 0 8))
  | .call o => some (catWord 0x17#6 (o.extractLsb' 20 6) (o.extractLsb' 14 6) (o.extractLsb' 8 6) (o.extractLsb' 0 8))
  | .jmpr d a => some (catWord 0x18#6 d a 0#6 0#8)
  | .split k i o => some (catWord 0x19#6 (k ++ i ++ 0#2) 0#6 (o.extractLsb' 8 6) (o.extractLsb' 0 8))
  | .join => some (catWord 0x1A#6 0#6 0#6 0#6 0#8)
  | .pany d i k => some (catWord 0x1B#6 d 0#6 0#6 (0#4 ++ i ++ k))
  | .pall d i k => some (catWord 0x1B#6 d 0#6 1#6 (0#4 ++ i ++ k))
  | .pcnt d i k => some (catWord 0x1B#6 d 0#6 2#6 (0#4 ++ i ++ k))
  | .pmask d i k => some (catWord 0x1B#6 d 0#6 3#6 (0#4 ++ i ++ k))
  | .cls o => some (catWord 0x1C#6 (o.extractLsb' 20 6) (o.extractLsb' 14 6) (o.extractLsb' 8 6) (o.extractLsb' 0 8))
  | .clsr a => some (catWord 0x1D#6 0#6 a 0#6 0#8)
  | .spopen a w => some (catWord 0x1E#6 0#6 a 0#6 (0#4 ++ w))
  | .spslot a w => some (catWord 0x1E#6 0#6 a 1#6 (0#4 ++ w))
  | .spcommit a w => some (catWord 0x1E#6 0#6 a 2#6 (0#4 ++ w))
  | .ldb d a i => some (catWord 0x20#6 d a (i.extractLsb' 8 6) (i.extractLsb' 0 8))
  | .ldh d a i => some (catWord 0x21#6 d a (i.extractLsb' 8 6) (i.extractLsb' 0 8))
  | .ldw d a i => some (catWord 0x22#6 d a (i.extractLsb' 8 6) (i.extractLsb' 0 8))
  | .ldd d a i => some (catWord 0x23#6 d a (i.extractLsb' 8 6) (i.extractLsb' 0 8))
  | .ldbu d a i => some (catWord 0x24#6 d a (i.extractLsb' 8 6) (i.extractLsb' 0 8))
  | .ldhu d a i => some (catWord 0x25#6 d a (i.extractLsb' 8 6) (i.extractLsb' 0 8))
  | .ldwu d a i => some (catWord 0x26#6 d a (i.extractLsb' 8 6) (i.extractLsb' 0 8))
  | .stb d a i => some (catWord 0x27#6 d a (i.extractLsb' 8 6) (i.extractLsb' 0 8))
  | .sth d a i => some (catWord 0x28#6 d a (i.extractLsb' 8 6) (i.extractLsb' 0 8))
  | .stw d a i => some (catWord 0x29#6 d a (i.extractLsb' 8 6) (i.extractLsb' 0 8))
  | .std d a i => some (catWord 0x2A#6 d a (i.extractLsb' 8 6) (i.extractLsb' 0 8))
  | .gets d i => some (catWord 0x2B#6 d 0#6 i 0#8)
  | .sets a i => some (catWord 0x2C#6 0#6 a i 0#8)
  | .tkld d a l c => some (catWord 0x2D#6 d a l (0#6 ++ c))
  | .tkred a x => some (catWord 0x2E#6 0#6 a 0#6 (0#2 ++ x))
  | .tkredQ d a x => some (catWord 0x2E#6 d a 1#6 (0#2 ++ x))
  | .tkdrop a => some (catWord 0x2F#6 0#6 a 0#6 0#8)
  | .waitp a p => some (catWord 0x30#6 0#6 a p 0#8)
  | .waitf m => some (catWord 0x31#6 0#6 0#6 (0#2 ++ (m.extractLsb' 8 4)) (m.extractLsb' 0 8))
  | .fence s => some (catWord 0x32#6 0#6 0#6 0#6 (0#5 ++ s))
  | .pub s => some (catWord 0x33#6 0#6 0#6 0#6 (0#5 ++ s))
  | .acq s => some (catWord 0x33#6 0#6 0#6 1#6 (0#5 ++ s))
  | .step => some (catWord 0x34#6 0#6 0#6 0#6 0#8)
  | .stepq d => some (catWord 0x34#6 d 0#6 1#6 0#8)
  | .qbind a n => some (catWord 0x35#6 0#6 a 0#6 (0#5 ++ n))
  | .qunbind d n => some (catWord 0x35#6 d 0#6 1#6 (0#5 ++ n))
  | .qpush a n => some (catWord 0x35#6 0#6 a 2#6 (0#5 ++ n))
  | .qpushT d a n => some (catWord 0x35#6 d a 2#6 (1#5 ++ n))
  | .qpop d n => some (catWord 0x35#6 d 0#6 3#6 (0#5 ++ n))
  | .qtry d a n => some (catWord 0x35#6 d a 4#6 (0#5 ++ n))
  | .qlen d n => some (catWord 0x35#6 d 0#6 5#6 (0#5 ++ n))
  | .amsg d a h l => some (catWord 0x36#6 d a h (0#2 ++ l))
  | .amsgReply a l => some (catWord 0x36#6 0#6 a 0#6 (2#2 ++ l))
  | .launch d a => some (catWord 0x37#6 d a 0#6 0#8)
  | .waitw d a v => some (catWord 0x37#6 d a 1#6 (0#6 ++ v))
  | .cancel a v => some (catWord 0x37#6 0#6 a 2#6 (0#6 ++ v))
  | .wcount d a v => some (catWord 0x37#6 d a 3#6 (0#6 ++ v))
  | .trap n => some (catWord 0x38#6 0#6 0#6 0#6 (0#2 ++ n))
  | .brkpt k => some (catWord 0x38#6 0#6 0#6 1#6 k)
  | .yield => some (catWord 0x38#6 0#6 0#6 2#6 0#8)
  | .contset a => some (catWord 0x38#6 0#6 a 3#6 0#8)
  | .contret => some (catWord 0x38#6 0#6 0#6 4#6 0#8)
  | .nop => some (catWord 0x38#6 0#6 0#6 5#6 0#8)
  | .rett => some (catWord 0x39#6 0#6 0#6 0#6 0#8)
  | .binit d a => some (catWord 0x3A#6 d a 0#6 0#8)
  | .bexpect d a => some (catWord 0x3A#6 d a 1#6 0#8)
  | .barrive a => some (catWord 0x3A#6 0#6 a 2#6 0#8)
  | .bwait d a => some (catWord 0x3A#6 d a 3#6 0#8)
  | .btest d a => some (catWord 0x3A#6 d a 4#6 0#8)
  | .mfree i => some (catWord 0x3A#6 0#6 0#6 5#6 (0#4 ++ i))
  | .satomAdd d a b => some (catWord 0x3B#6 d a b 0#8)
  | .satomSwap d a b => some (catWord 0x3B#6 d a b 1#8)
  | .satomCas d a b => some (catWord 0x3B#6 d a b 2#8)
  | .satomMin d a b => some (catWord 0x3B#6 d a b 3#8)
  | .satomMax d a b => some (catWord 0x3B#6 d a b 4#8)
  | .satomMinu d a b => some (catWord 0x3B#6 d a b 5#8)
  | .satomMaxu d a b => some (catWord 0x3B#6 d a b 6#8)
  | .satomAnd d a b => some (catWord 0x3B#6 d a b 7#8)
  | .satomOr d a b => some (catWord 0x3B#6 d a b 8#8)
  | .satomXor d a b => some (catWord 0x3B#6 d a b 9#8)
  | .setmode a => some (catWord 0x3C#6 0#6 a 0#6 0#8)
  | .getmode d => some (catWord 0x3C#6 d 0#6 1#6 0#8)
  | .setfmt a => some (catWord 0x3C#6 0#6 a 2#6 0#8)
  | .getfmt d => some (catWord 0x3C#6 d 0#6 3#6 0#8)
  | .rsta d a l => some (catWord 0x3D#6 d a 0#6 l)
  | .fralloc d a => some (catWord 0x3D#6 d a 1#6 0#8)
  | .frcontrib d a => some (catWord 0x3D#6 d a 2#6 0#8)
  | .frcontribQ d a t => some (catWord 0x3D#6 d a 2#6 (1#2 ++ t))
  | .frwait d a t => some (catWord 0x3D#6 d a 3#6 (0#2 ++ t))
  | .tcfg a n => some (catWord 0x3E#6 0#6 a (0#2 ++ n) 0#8)
  | .tcfgR d n => some (catWord 0x3E#6 d 0#6 (0#2 ++ n) 1#8)
  | .illegalEncoding w => some w
  | _ => none

/-! ## The lane word -/

/-- The fields of a lane word (01, R17). -/
def laneFields (w : W96) : LaneF :=
  { e := w.getLsbD 85
    rnd := w.extractLsb' 82 3
    sat := w.getLsbD 81
    pinv := w.getLsbD 80
    pk := w.extractLsb' 77 3
    dest := w.extractLsb' 69 8
    srcA := w.extractLsb' 55 14
    srcB := w.extractLsb' 41 14
    srcC := w.extractLsb' 27 14
    ty := w.extractLsb' 22 5
    mod := w.extractLsb' 16 6
    imm := w.extractLsb' 0 16 }

/-- A lane word from its opcode and fields (01, R17). -/
def laneWord (op : BitVec 10) (f : LaneF) : W96 :=
  (op ++ BitVec.ofBool f.e ++ f.rnd ++ BitVec.ofBool f.sat ++ BitVec.ofBool f.pinv ++ f.pk ++ f.dest ++ f.srcA
    ++ f.srcB ++ f.srcC ++ f.ty ++ f.mod ++ f.imm
    : BitVec (10 + 1 + 3 + 1 + 1 + 3 + 8 + 14 + 14 + 14 + 5 + 6 + 16))

/-- The opcode of a lane word. -/
def laneOp (w : W96) : BitVec 10 := w.extractLsb' 86 10

/-- The opcode of a clause header (01, R24). -/
def hdrOp : BitVec 10 := 0x3FF#10

/-- The fields of a clause header (01, R24). -/
def hdrFields (w : W96) : Hdr :=
  { wait := w.extractLsb' 74 12
    av := w.getLsbD 73
    aflag := w.extractLsb' 69 4
    bv := w.getLsbD 68
    bflag := w.extractLsb' 64 4
    lit0 := w.extractLsb' 32 32
    lit1 := w.extractLsb' 0 32 }

/-- A header word (01, R24). -/
def hdrWord (h : Hdr) : W96 :=
  (hdrOp ++ h.wait ++ BitVec.ofBool h.av ++ h.aflag ++ BitVec.ofBool h.bv ++ h.bflag ++ h.lit0 ++ h.lit1
    : BitVec (10 + 12 + 1 + 4 + 1 + 4 + 32 + 32))

/-- The instruction of a lane opcode (01, R29). -/
def laneOfOp (op : BitVec 10) (f : LaneF) : Option Instr :=
  match op.toNat with
  | 0x000 => some (.iadd f)
  | 0x001 => some (.isub f)
  | 0x002 => some (.imul f)
  | 0x003 => some (.imulh f)
  | 0x004 => some (.imulhu f)
  | 0x005 => some (.imad f)
  | 0x006 => some (.imin f)
  | 0x007 => some (.imax f)
  | 0x008 => some (.iminu f)
  | 0x009 => some (.imaxu f)
  | 0x00A => some (.iabs f)
  | 0x00B => some (.iand f)
  | 0x00C => some (.ior f)
  | 0x00D => some (.ixor f)
  | 0x00E => some (.iandn f)
  | 0x00F => some (.ishl f)
  | 0x010 => some (.ishr f)
  | 0x011 => some (.isar f)
  | 0x012 => some (.ipopc f)
  | 0x013 => some (.iclz f)
  | 0x014 => some (.ibfe f)
  | 0x015 => some (.ibfi f)
  | 0x016 => some (.icmp f)
  | 0x017 => some (.isel f)
  | 0x018 => some (.imov f)
  | 0x019 => some (.iadd64 f)
  | 0x01A => some (.imad64 f)
  | 0x040 => some (.fadd f)
  | 0x041 => some (.fsub f)
  | 0x042 => some (.fmul f)
  | 0x043 => some (.ffma f)
  | 0x044 => some (.fmin f)
  | 0x045 => some (.fmax f)
  | 0x046 => some (.fminnan f)
  | 0x047 => some (.fmaxnan f)
  | 0x048 => some (.fcmp f)
  | 0x049 => some (.fclass f)
  | 0x04A => some (.frnd f)
  | 0x04B => some (.fscale f)
  | 0x04C => some (.fdot2 f)
  | 0x04D => some (.fdot4 f)
  | 0x060 => some (.cvtif f)
  | 0x061 => some (.cvtfi f)
  | 0x062 => some (.cvtff f)
  | 0x063 => some (.cvtn f)
  | 0x064 => some (.cvtw f)
  | 0x065 => some (.qscale f)
  | 0x066 => some (.pack f)
  | 0x067 => some (.unpack f)
  | 0x070 => some (.rcpa f)
  | 0x071 => some (.rsqrta f)
  | 0x072 => some (.exp2a f)
  | 0x073 => some (.log2a f)
  | 0x074 => some (.sinpa f)
  | 0x075 => some (.cospa f)
  | 0x076 => some (.tanha f)
  | 0x077 => some (.sqrt f)
  | 0x078 => some (.fdiv f)
  | 0x080 => some (.lld f)
  | 0x081 => some (.lst f)
  | 0x082 => some (.latom f)
  | 0x083 => some (.ltkld f)
  | 0x084 => some (.ltkred f)
  | 0x085 => some (.lpref f)
  | 0x0A0 => some (.tld f)
  | 0x0A1 => some (.tst f)
  | 0x0A2 => some (.tzero f)
  | 0x0A3 => some (.tmovi f)
  | 0x0A4 => some (.tmovo f)
  | 0x0A5 => some (.tsum f)
  | 0x0A6 => some (.mma f)
  | 0x0A7 => some (.mdist f)
  | 0x0A8 => some (.ald f)
  | 0x0A9 => some (.adrain f)
  | 0x0AA => some (.aclr f)
  | 0x0AB => some (.mtopk f)
  | 0x0C0 => some (.xpub f)
  | 0x0C1 => some (.nbvalid f)
  | 0x0D0 => some (.rng f)
  | 0x0D1 => some (.rseed f)
  | 0x0D2 => some (.sample f)
  | 0x0D3 => some (.kop f)
  | 0x0D4 => some (.shfl f)
  | 0x0D5 => some (.lbcast f)
  | 0x0D6 => some (.gred f)
  | 0x0D7 => some (.gscan f)
  | _ => none

/-- The lane opcode and the fields of a lane instruction (01, R29). -/
def laneParts : Instr → Option (BitVec 10 × LaneF)
  | .iadd f => some (0x000#10, f)
  | .isub f => some (0x001#10, f)
  | .imul f => some (0x002#10, f)
  | .imulh f => some (0x003#10, f)
  | .imulhu f => some (0x004#10, f)
  | .imad f => some (0x005#10, f)
  | .imin f => some (0x006#10, f)
  | .imax f => some (0x007#10, f)
  | .iminu f => some (0x008#10, f)
  | .imaxu f => some (0x009#10, f)
  | .iabs f => some (0x00A#10, f)
  | .iand f => some (0x00B#10, f)
  | .ior f => some (0x00C#10, f)
  | .ixor f => some (0x00D#10, f)
  | .iandn f => some (0x00E#10, f)
  | .ishl f => some (0x00F#10, f)
  | .ishr f => some (0x010#10, f)
  | .isar f => some (0x011#10, f)
  | .ipopc f => some (0x012#10, f)
  | .iclz f => some (0x013#10, f)
  | .ibfe f => some (0x014#10, f)
  | .ibfi f => some (0x015#10, f)
  | .icmp f => some (0x016#10, f)
  | .isel f => some (0x017#10, f)
  | .imov f => some (0x018#10, f)
  | .iadd64 f => some (0x019#10, f)
  | .imad64 f => some (0x01A#10, f)
  | .fadd f => some (0x040#10, f)
  | .fsub f => some (0x041#10, f)
  | .fmul f => some (0x042#10, f)
  | .ffma f => some (0x043#10, f)
  | .fmin f => some (0x044#10, f)
  | .fmax f => some (0x045#10, f)
  | .fminnan f => some (0x046#10, f)
  | .fmaxnan f => some (0x047#10, f)
  | .fcmp f => some (0x048#10, f)
  | .fclass f => some (0x049#10, f)
  | .frnd f => some (0x04A#10, f)
  | .fscale f => some (0x04B#10, f)
  | .fdot2 f => some (0x04C#10, f)
  | .fdot4 f => some (0x04D#10, f)
  | .cvtif f => some (0x060#10, f)
  | .cvtfi f => some (0x061#10, f)
  | .cvtff f => some (0x062#10, f)
  | .cvtn f => some (0x063#10, f)
  | .cvtw f => some (0x064#10, f)
  | .qscale f => some (0x065#10, f)
  | .pack f => some (0x066#10, f)
  | .unpack f => some (0x067#10, f)
  | .rcpa f => some (0x070#10, f)
  | .rsqrta f => some (0x071#10, f)
  | .exp2a f => some (0x072#10, f)
  | .log2a f => some (0x073#10, f)
  | .sinpa f => some (0x074#10, f)
  | .cospa f => some (0x075#10, f)
  | .tanha f => some (0x076#10, f)
  | .sqrt f => some (0x077#10, f)
  | .fdiv f => some (0x078#10, f)
  | .lld f => some (0x080#10, f)
  | .lst f => some (0x081#10, f)
  | .latom f => some (0x082#10, f)
  | .ltkld f => some (0x083#10, f)
  | .ltkred f => some (0x084#10, f)
  | .lpref f => some (0x085#10, f)
  | .tld f => some (0x0A0#10, f)
  | .tst f => some (0x0A1#10, f)
  | .tzero f => some (0x0A2#10, f)
  | .tmovi f => some (0x0A3#10, f)
  | .tmovo f => some (0x0A4#10, f)
  | .tsum f => some (0x0A5#10, f)
  | .mma f => some (0x0A6#10, f)
  | .mdist f => some (0x0A7#10, f)
  | .ald f => some (0x0A8#10, f)
  | .adrain f => some (0x0A9#10, f)
  | .aclr f => some (0x0AA#10, f)
  | .mtopk f => some (0x0AB#10, f)
  | .xpub f => some (0x0C0#10, f)
  | .nbvalid f => some (0x0C1#10, f)
  | .rng f => some (0x0D0#10, f)
  | .rseed f => some (0x0D1#10, f)
  | .sample f => some (0x0D2#10, f)
  | .kop f => some (0x0D3#10, f)
  | .shfl f => some (0x0D4#10, f)
  | .lbcast f => some (0x0D5#10, f)
  | .gred f => some (0x0D6#10, f)
  | .gscan f => some (0x0D7#10, f)
  | _ => none

/-- The instruction of a lane word: ILL_HDR for a header, ILL_LANE for an opcode outside 01, R29. -/
def decodeLane (w : W96) : Except Cause Instr :=
  if laneOp w = hdrOp then .error .illHdr
  else match laneOfOp (laneOp w) (laneFields w) with
    | some i => .ok i
    | none => .error .illLane

/-- The word of a lane instruction. -/
def encodeLane (i : Instr) : Option W96 :=
  match laneParts i with
  | some (op, f) => some (laneWord op f)
  | none => none

/-! ## Fields of a lane word that the checks and the operands read -/

/-- Bits `lo + n - 1 .. lo` of the modifier, numbered from 16 as the tables number them (01, R17). -/
def modBits (f : LaneF) (lo n : Nat) : Nat := (f.mod.extractLsb' (lo - 16) n).toNat

def modBit (f : LaneF) (b : Nat) : Bool := f.mod.getLsbD (b - 16)

/-- Bits `lo + n - 1 .. lo` of imm16. -/
def immBits (f : LaneF) (lo n : Nat) : Nat := (f.imm.extractLsb' lo n).toNat

def srcCur (x : BitVec 14) : Bool := x.getLsbD 13
def srcBearing (x : BitVec 14) : Nat := (x.extractLsb' 9 4).toNat
def srcCode (x : BitVec 14) : Nat := (x.extractLsb' 1 8).toNat
def srcNeg (x : BitVec 14) : Bool := x.getLsbD 0

/-- The type codes of 01, R23, as sets. -/
def tyI6 : BitVec 16 := 0xF300#16
def tySigned : BitVec 16 := 0x5100#16
def tyUnsigned : BitVec 16 := 0xA200#16
def tyF4 : BitVec 16 := 0x000F#16
def tyInt : BitVec 16 := 0xFF00#16
def ty64 : BitVec 16 := 0x0C00#16
def tyN : BitVec 16 := 0x0010#16
def tyU32 : BitVec 16 := 0x0200#16

/-- A float type; `.n` counts as one (01, R20). -/
def isFloatTy (t : Nat) : Bool := t ≤ 4

def is64Ty (t : Nat) : Bool := t = 0 || t = 10 || t = 11

def isSignedTy (t : Nat) : Bool := t = 8 || t = 10 || t = 12 || t = 14

/-- The width in bits of a type but `.n`. -/
def tyWidth (t : Nat) : Nat :=
  if is64Ty t then 64 else if t = 2 || t = 3 || t = 12 || t = 13 then 16
  else if t = 14 || t = 15 then 8 else 32

/-- What the decode of a lane word knows of its launch and path (01, R20; 07, R183; 10, R240). -/
structure LaneCx where
  regs : Nat
  bmask : BitVec 16
  cmask : BitVec 16
  n0 : BitVec 16
  handler : Bool
  noSpec : Bool := false     -- SPEC or STOCH is not accepted (22, R414)
  noStoch : Bool := false
  mx : BitVec 16 := 0#16     -- tiles under MX32, whose `tld` and `tst` read source C (10, R247)
  deriving DecidableEq, Repr

/-- The operand type of a source, and whether neg is allowed on it. -/
structure SrcSpec where
  ty : Nat
  neg : Bool
  base : Bool := false      -- a 64-bit base of 05, R117: an even pair or 0xA0
  deriving DecidableEq, Repr

/-- What an instruction's description allows of its word. -/
structure LaneSpec where
  a : Option SrcSpec := none
  b : Option SrcSpec := none
  c : Option SrcSpec := none
  tys : BitVec 16
  rnd : Bool := false
  sat : Bool := false
  modMask : BitVec 6 := 0#6          -- modifier bits that it defines
  immMask : BitVec 16 := 0xFFFF#16   -- imm16 bits that may be set
  extra : Bool := true               -- its own ILL_LANE conditions hold
  claims : Bool := false             -- it claims imm16
  dv : Bool := true                  -- destinations: v, x, k1-k7, q, discard
  dx : Bool := true
  dk : Bool := false
  dq : Bool := true
  dd : Bool := true
  nreg : Nat := 1                    -- registers written from dest
  even : Bool := false               -- dest names an even register
  opnd : Bool := true                -- its own ILL_OPND conditions hold
  deriving DecidableEq, Repr

/-- A source of the type field, neg allowed or not. -/
def srcT (t : Nat) (neg : Bool) : Option SrcSpec := some ⟨t, neg, false⟩

/-- A base address source. -/
def srcBase : Option SrcSpec := some ⟨11, false, true⟩

/-- No lane-register result: dest must be 0xFF, else ILL_OPND. -/
def noDest (s : LaneSpec) : LaneSpec := { s with dv := false, dx := false, dq := false, dd := true }

/-- The integer class (08, R210-R213). -/
def specInt (op : Nat) (f : LaneF) : LaneSpec :=
  let t := f.ty.toNat
  let w64 := is64Ty t
  if op ≤ 0x002 then { a := srcT t true, b := srcT t true, tys := tyI6, sat := true }
  else if op = 0x003 then { a := srcT t false, b := srcT t false, tys := tySigned }
  else if op = 0x004 then { a := srcT t false, b := srcT t false, tys := tyUnsigned }
  else if op = 0x005 then { a := srcT t true, b := srcT t true, c := srcT t true, tys := tyI6, sat := true }
  else if op ≤ 0x007 then { a := srcT t true, b := srcT t true, tys := tySigned }
  else if op ≤ 0x009 then { a := srcT t true, b := srcT t true, tys := tyUnsigned }
  else if op = 0x00A then { a := srcT t false, tys := tySigned, sat := true }
  else if op ≤ 0x00E then { a := srcT t true, b := srcT t true, tys := tyI6 }
  else if op ≤ 0x011 then
    let i := modBit f 16
    { a := srcT t false, b := if i then none else srcT t false, tys := tyI6, modMask := 1#6
      immMask := if i then 0x001F#16 else 0xFFFF#16, claims := i }
  else if op ≤ 0x013 then { a := srcT t false, tys := tyI6 }
  else if op = 0x014 then
    { a := srcT t false, tys := 0x0300#16, immMask := 0x07FF#16, claims := true
      extra := immBits f 5 6 ≤ 32 && immBits f 0 5 + immBits f 5 6 ≤ 32 }
  else if op = 0x015 then
    { a := srcT t false, b := srcT t false, tys := 0x0300#16, immMask := 0x07FF#16, claims := true
      extra := immBits f 5 6 ≤ 32 && immBits f 0 5 + immBits f 5 6 ≤ 32 }
  else if op = 0x016 then
    { a := srcT t false, b := srcT t false, tys := tyI6, modMask := 7#6, extra := modBits f 16 3 ≤ 5, dk := true }
  else if op = 0x017 then
    { a := srcT t false, b := srcT t false, c := srcT 9 false, tys := 0xFF0F#16
      nreg := if w64 then 2 else 1, even := w64 }
  else if op = 0x018 then
    { a := srcT t false, tys := 0xFF0F#16, nreg := if w64 then 2 else 1, even := w64 }
  else
    let half := if t = 10 then 8 else 9
    let w := op = 0x01A || modBit f 16
    { a := srcT (if op = 0x01A then half else t) true, b := srcT (if w then half else t) true
      c := if op = 0x01A then srcT t true else none, tys := ty64, sat := true
      modMask := if op = 0x01A then 0#6 else 1#6, nreg := 2, even := true }

/-- The float class (08, R214-R218). -/
def specFloat (op : Nat) (f : LaneF) : LaneSpec :=
  let t := f.ty.toNat
  let w64 := is64Ty t
  let n := if w64 then 2 else 1
  if op ≤ 0x042 then
    { a := srcT t true, b := srcT t true, tys := tyF4, rnd := true, sat := true, nreg := n, even := w64 }
  else if op = 0x043 then
    { a := srcT t true, b := srcT t true, c := srcT t true, tys := tyF4, rnd := true, sat := true
      nreg := n, even := w64 }
  else if op ≤ 0x047 then { a := srcT t true, b := srcT t true, tys := tyF4, nreg := n, even := w64 }
  else if op = 0x048 then { a := srcT t true, b := srcT t true, tys := tyF4, modMask := 7#6, dk := true }
  else if op = 0x049 then
    { a := srcT t false, tys := tyF4, dk := true, claims := true
      immMask := if 0x88 ≤ f.dest.toNat && f.dest.toNat ≤ 0x8F then 0x03FF#16 else 0#16 }
  else if op = 0x04A then { a := srcT t true, tys := tyF4, rnd := true, nreg := n, even := w64 }
  else if op = 0x04B then
    { a := srcT t true, b := srcT 8 false, tys := tyF4, rnd := true, sat := true, nreg := n, even := w64 }
  else if op = 0x04C then
    { a := srcT t true, b := srcT t true, c := srcT 1 true, tys := 0x000C#16, rnd := true, sat := true }
  else
    { a := srcT t true, b := srcT t true, c := srcT 1 true, tys := tyN, rnd := true, sat := true, modMask := 3#6 }

/-- The convert class (08, R219-R224). -/
def specConv (op : Nat) (f : LaneF) : LaneSpec :=
  let t := f.ty.toNat
  let w64 := is64Ty t
  let n := if w64 then 2 else 1
  let st := modBits f 16 4
  let dd := modBit f 20
  if op = 0x060 then
    { a := srcT st true, tys := 0x001F#16, rnd := true, sat := true, modMask := 0x1F#6
      extra := 8 ≤ st && (!dd || t = 4), nreg := n, even := w64 }
  else if op = 0x061 then
    { a := srcT st true, tys := tyInt, rnd := true, modMask := 0x1F#6, extra := st ≤ 4 && (!dd || st = 4)
      nreg := n, even := w64 }
  else if op = 0x062 then
    { a := srcT st true, tys := 0x001F#16, rnd := true, sat := true, modMask := 0x1F#6
      extra := st ≤ 4 && !(st = 4 && t = 4) && (!dd || st = 4 || t = 4), nreg := n, even := w64 }
  else if op = 0x063 then
    { a := srcT 1 true, b := srcT 1 true, c := if modBit f 18 then srcT 9 false else none, tys := tyN
      rnd := true, sat := true, modMask := 7#6 }
  else if op = 0x064 then
    { a := srcT 4 false, b := if modBit f 19 then srcT 9 false else none, tys := tyN, rnd := true, sat := true
      modMask := 0xF#6 }
  else if op = 0x065 then { a := srcT 1 false, tys := tyN, modMask := 1#6 }
  else if op = 0x066 then
    let fl := t = 2 || t = 3
    let s := if fl then 1 else if t = 12 then 8 else 9
    { a := srcT s fl, b := srcT s fl, tys := 0x300C#16, rnd := fl, sat := true }
  else
    { a := srcT t false, tys := 0xF00C#16, modMask := 3#6
      extra := !(t = 2 || t = 3 || t = 12 || t = 13) || modBits f 16 2 ≤ 1 }

/-- The special-function class (08, R225). -/
def specSfu (op : Nat) (f : LaneF) : LaneSpec :=
  let t := f.ty.toNat
  let w64 := is64Ty t
  let n := if w64 then 2 else 1
  if op ≤ 0x076 then { a := srcT 1 true, tys := 0x0002#16 }
  else if op = 0x077 then { a := srcT t true, tys := tyF4, rnd := true, sat := true, nreg := n, even := w64 }
  else { a := srcT t true, b := srcT t true, tys := tyF4, rnd := true, sat := true, nreg := n, even := w64 }

/-- The lane memory class (05, R116-R120, R126, R132, R136; 13, R283). -/
def specMem (op : Nat) (f : LaneF) : LaneSpec :=
  let t := f.ty.toNat
  let w64 := is64Ty t
  let n := if w64 then 2 else 1
  let st := modBit f 17
  let b := if st then none else srcBase
  if op = 0x080 then
    { a := srcT 9 false, b := b, tys := 0xFF0F#16, modMask := 0x0F#6, claims := true, dq := false
      nreg := n, even := w64 }
  else if op = 0x081 then
    { a := srcT 9 false, b := b, c := srcT t false, tys := 0xFF0F#16, modMask := 0x1F#6, claims := true
      dv := false, dx := false, dq := false, extra := f.dest = 0xFF#8 && !(modBit f 20 && st) }
  else if op = 0x082 then
    { a := srcT 9 false, b := b, c := srcT t false, tys := 0x0F02#16, modMask := 3#6, immMask := 0x000F#16
      claims := true, extra := immBits f 0 4 ≤ 7 && (t != 1 || immBits f 0 4 = 0), dq := false
      nreg := n, even := w64, opnd := !(immBits f 0 4 = 2 && f.dest = 0xFF#8) }
  else if op = 0x083 then
    { a := srcT 9 false, b := srcBase, tys := tyU32, modMask := 0x1D#6, immMask := 3#16, claims := true
      extra := modBits f 18 3 ≤ 4, dq := false, dd := false }
  else if op = 0x084 then
    { a := srcT 9 false, tys := tyU32, modMask := 0x0F#6, immMask := 7#16, claims := true
      extra := immBits f 0 3 ≤ 4, dx := false, dq := false, dd := false, nreg := 2 ^ immBits f 0 3
      opnd := !(modBit f 16 && modBits f 17 3 = 0) }
  else noDest { a := srcT 9 false, b := b, tys := 0x8000#16, modMask := 0x0F#6, claims := true }

/-- The element width of a drain to lanes (10, R255). -/
def drainWidth (cx : LaneCx) (t : Nat) : Nat :=
  if t = 4 then if fmtValid (fmtOf cx.n0) then fmtContainer (fmtOf cx.n0) else 8 else tyWidth t

/-- The tile and matrix class (10, R244-R256). -/
def specMat (cx : LaneCx) (op : Nat) (f : LaneF) : LaneSpec :=
  let t := f.ty.toNat
  if op ≤ 0x0A1 then
    let st := modBit f 16
    noDest { a := if st then none else srcBase, b := srcT 9 false, c := srcT (if st then 9 else 11) false
             tys := tyU32, modMask := 3#6, immMask := 0x01FF#16, claims := true }
  else if op = 0x0A2 then noDest { tys := tyU32, immMask := 0x01FF#16, claims := true }
  else if op = 0x0A3 then
    noDest { a := srcT 9 false, tys := tyU32, modMask := 1#6, immMask := 0x7FFF#16, claims := true }
  else if op = 0x0A4 then { tys := tyU32, modMask := 1#6, immMask := 0x7FFF#16, claims := true, dd := false }
  else if op = 0x0A5 then
    { tys := 0x0102#16, rnd := t = 1, sat := true, immMask := 0x01FF#16, claims := true, dq := false, dd := false }
  else if op = 0x0A6 then
    noDest { tys := tyU32, sat := modBits f 16 2 = 0, modMask := 3#6, extra := modBits f 16 2 ≤ 2, claims := true }
  else if op = 0x0A7 then
    noDest { tys := tyU32, sat := modBits f 16 2 = 0, modMask := 3#6, extra := modBits f 16 2 ≤ 1, claims := true }
  else if op = 0x0A8 then
    noDest { a := srcT t false, tys := 0x0103#16, modMask := 3#6, immMask := 0x00FF#16, claims := true }
  else if op = 0x0A9 then
    let td := modBit f 16
    let fl := modBit f 17
    let mq := modBit f 18
    let p := modBit f 19
    let n := (immBits f 8 5 + 1) * drainWidth cx t
    { a := if mq then srcT 9 false else none, b := srcT 8 false
      tys := if td then tyU32 else 0xF31F#16, rnd := true, sat := true, modMask := 0x0F#6
      immMask := if td then 0x0FFF#16 else 0x1FFF#16, claims := true
      extra := (!p || (fl && !mq && !td)) && (t != 0 || p) && (!p || t = 0)
      dv := !td, dx := false, dq := false, dd := td
      nreg := if td then 1 else (n + 31) / 32, even := !td && t = 0 }
  else if op = 0x0AA then noDest { tys := tyU32, immMask := 0x00FF#16, claims := true }
  else noDest { a := srcT 9 false, tys := 0x0102#16, modMask := 0x3F#6, immMask := 0x1FFF#16, claims := true }

/-- The grid class (07, R196-R197). -/
def specGrid (cx : LaneCx) (op : Nat) (f : LaneF) : LaneSpec :=
  if op = 0x0C0 then noDest { tys := tyU32, immMask := 0x00FF#16, claims := true, opnd := !cx.handler }
  else
    let isK := 0x88 ≤ f.dest.toNat && f.dest.toNat ≤ 0x8F
    { tys := tyU32, immMask := 0#16, claims := true, modMask := if isK then 0x0F#6 else 0#6
      dk := true, dq := false, dd := false, opnd := !cx.handler && !(isK && modBits f 16 4 = 15) }

/-- The group and random class (08, R229-R235). -/
def specGroup (op : Nat) (f : LaneF) : LaneSpec :=
  let t := f.ty.toNat
  let w64 := is64Ty t
  let n := if w64 then 2 else 1
  if op = 0x0D0 then { tys := 0x0202#16 }
  else if op = 0x0D1 then noDest { a := srcT 9 false, b := srcT 9 false, tys := tyU32 }
  else if op = 0x0D2 then
    { a := srcT 9 false, b := srcT 9 false, tys := 0x0002#16, modMask := 7#6, dq := false }
  else if op = 0x0D3 then
    { a := srcT 9 false, b := srcT 9 false, tys := tyU32, modMask := 0x0F#6, dv := false, dx := false
      dk := true, dq := false, dd := false
      opnd := 0x88 ≤ srcCode f.srcA && srcCode f.srcA ≤ 0x8F && 0x88 ≤ srcCode f.srcB && srcCode f.srcB ≤ 0x8F }
  else if op = 0x0D4 then
    { a := srcT t false, b := srcT 9 false, c := srcT t false, tys := 0x0F03#16, modMask := 3#6
      nreg := n, even := w64 }
  else if op = 0x0D5 then
    let l := modBit f 16
    { a := srcT t false, c := if l then srcT t false else none, tys := 0x0F03#16, modMask := 1#6
      immMask := if l then 0x001F#16 else 0xFFFF#16, claims := l, nreg := n, even := w64 }
  else
    let o := modBits f 16 3
    { a := srcT t false, tys := 0xFF03#16, rnd := t ≤ 1 && o = 0, sat := 8 ≤ t && o = 0
      modMask := if op = 0x0D7 then 0x0F#6 else 7#6, extra := o ≤ 5 && !(t ≤ 1 && 3 ≤ o), nreg := n, even := w64 }

/-- What each lane instruction allows of its word. -/
def laneSpec (cx : LaneCx) (op : Nat) (f : LaneF) : LaneSpec :=
  if op < 0x040 then specInt op f
  else if op < 0x060 then specFloat op f
  else if op < 0x070 then specConv op f
  else if op < 0x080 then specSfu op f
  else if op < 0x0A0 then specMem op f
  else if op < 0x0C0 then specMat cx op f
  else if op < 0x0D0 then specGrid cx op f
  else specGroup op f

/-- The ILL_LANE condition on a source field (01, R19). -/
def srcLaneOk (s : Option SrcSpec) (x : BitVec 14) : Bool :=
  match s with
  | none => x = 0#14
  | some s => s.neg || !srcNeg x

/-- The ILL_OPND conditions on a source field (01, R19-R21; 05, R117; 07, R181, R183; 08, R205). -/
def srcOpndOk (cx : LaneCx) (claims : Bool) (s : Option SrcSpec) (x : BitVec 14) : Bool :=
  match s with
  | none => true
  | some s =>
    let c := srcCode x
    let b := srcBearing x
    let w64 := is64Ty s.ty
    let isX := 0x80 ≤ c && c ≤ 0x87
    let codeOk :=
      if c < 0x80 then c < cx.regs && (!w64 || (c % 2 = 0 && c + 1 < cx.regs))
      else if c ≤ 0x87 then !w64 || c % 2 = 0
      else if c ≤ 0x8F then !isFloatTy s.ty
      else if c ≤ 0x97 then true
      else if c = 0xA0 then true
      else if c = 0xA1 then !w64
      else if c = 0xA2 then !isFloatTy s.ty && !claims
      else if c = 0xA3 then (s.ty = 0 || s.ty = 1 || s.ty = 2) && !claims
      else if 0xB0 ≤ c && c ≤ 0xB9 then 8 ≤ s.ty && s.ty ≤ 11
      else false
    let baseOk := !s.base || c < 0x80 || isX || c = 0xA0
    let bearOk :=
      if b = 0 then !srcCur x
      else isX && b != 15 && !cx.handler && cx.bmask.getLsbD b && (!srcCur x || cx.cmask.getLsbD b)
    codeOk && baseOk && bearOk

/-- The ILL_OPND conditions on dest (01, R20; 08, R205-R206). -/
def destOk (cx : LaneCx) (sp : LaneSpec) (d : Nat) : Bool :=
  if d < 0x80 then sp.dv && d + sp.nreg ≤ cx.regs && (!sp.even || d % 2 = 0)
  else if d ≤ 0x87 then sp.dx && d + sp.nreg ≤ 0x88 && (!sp.even || d % 2 = 0)
  else if d ≤ 0x8F then sp.dk && d != 0x88
  else if d ≤ 0x97 then sp.dq
  else d = 0xFF && sp.dd

/-- The checks of 01, R25 item 2 on one lane instruction: ILL_LANE, then ILL_RND, then ILL_OPND. Any rnd but 0 of `xpub` is ILL_LANE (07,
R196). Bits of imm16 that an instruction
claims and that must be zero have no cause of their own in the spec: ILL_LANE, as for modifier bits (DESIGN CHOICE, log 35). -/
def laneCheck (cx : LaneCx) (i : Instr) : Option Cause :=
  match laneParts i with
  | none => some .illLane
  | some (op, f) =>
    let sp := laneSpec cx op.toNat f
    if !(f.ty.toNat < 16 && sp.tys.getLsbD f.ty.toNat) then some .illLane
    else if f.rnd != 0#3 && (f.rnd != 7#3 || op = 0x0C0#10) && !sp.rnd then some .illLane
    else if f.sat && !sp.sat then some .illLane
    else if f.pinv && f.pk = 0#3 then some .illLane
    else if f.mod &&& ~~~sp.modMask != 0#6 then some .illLane
    else if f.imm &&& ~~~sp.immMask != 0#16 then some .illLane
    else if !(srcLaneOk sp.a f.srcA && srcLaneOk sp.b f.srcB && srcLaneOk sp.c f.srcC) then some .illLane
    else if !sp.extra || (cx.noSpec && op = 0x081#10 && modBit f 20) then some .illLane
    else if f.rnd = 7#3 || (f.rnd = 6#3 && cx.noStoch) then some .illRnd
    else if !(srcOpndOk cx sp.claims sp.a f.srcA && srcOpndOk cx sp.claims sp.b f.srcB
        && srcOpndOk cx sp.claims sp.c f.srcC) then some .illOpnd
    else if !destOk cx sp f.dest.toNat then some .illOpnd
    else if !sp.opnd then some .illOpnd
    else none

/-! ## Bytes and the table's words -/

/-- The value of little-endian bytes (00, R4). -/
def leNat : List Byte → Nat
  | [] => 0
  | b :: bs => b.toNat + 256 * leNat bs

/-- `n` little-endian bytes of a value. -/
def leBytes : Nat → Nat → List Byte
  | 0, _ => []
  | n + 1, v => BitVec.ofNat 8 (v % 256) :: leBytes n (v / 256)

/-- The bytes of an instruction's word, lowest address first (01, R6). -/
def encode (i : Instr) : Option (List Byte) :=
  match encodeScalar i with
  | some w => some (leBytes 4 w.toNat)
  | none => (encodeLane i).map (fun w => leBytes 12 w.toNat)

/-- The scalar instruction in four bytes, or the lane instruction in twelve. -/
def decode (bs : List Byte) : Option Instr :=
  if bs.length = 4 then some (decodeScalar (BitVec.ofNat 32 (leNat bs)))
  else if bs.length = 12 then (decodeLane (BitVec.ofNat 96 (leNat bs))).toOption
  else none

/-- The instruction the decoder reads from the table's bits: a scalar word of 32 bits, a lane word of 96. -/
def decodeTableWord (nbits w : Nat) : Option Instr :=
  if nbits ≤ 32 then decode (leBytes 4 (w % 2 ^ 32)) else decode (leBytes 12 (w % 2 ^ 96))

end Sys2Proof
end

