-- ==== Sys2Proof/Machine/GTypes.lean ====
section
/-!
DEFINITION. The records of a group, of its accesses, of a parcel and of a launch.
-/

namespace Sys2Proof.Machine

/-- A launch descriptor (17, R327), its fields as numbers. -/
structure Desc where
  gx : Nat
  gy : Nat
  gz : Nat
  gw : Nat
  regs : Nat
  prio : Nat
  prod : Nat
  pex : Nat
  pey : Nat
  pez : Nat
  bnd : BitVec 16
  bmask : BitVec 16
  cmask : BitVec 16
  btab : List Int          -- twelve signed values
  frame : Nat
  entry : W64
  lcode : W64
  argp : W64
  halo : List Nat          -- x-, x+, y-, y+, z-, z+
  tile : Nat
  accs : Nat
  hq : Nat
  hcnt : Nat
  stash : Nat
  spill : Nat
  dcnt : Nat
  htab : Nat
  doors : Nat
  back : Nat
  bsize : Nat
  start : Nat
  graph : Nat
  stage : Nat
  job : Nat
  deps : List (Nat × Nat × Nat)  -- level, handle, count of each valid dependence
  span : W32
  lkey : W32
  raw : List Byte := []          -- the descriptor's 256 bytes, as a checkpoint saves them (20, R387)
  deriving DecidableEq, Repr

/-- An entry of a clause queue (03, R74-R75; 19, R370). `hdr` and `code` are the clause's words once it is
fetched and decoded (01, R25); `pipe` is the lane pipe it runs on; `id` names the live clause once it has been issued on a pipe, else 0; `wait` is why the
clause, or its next instruction, does not go on; `since` is the turn in which it became eligible (17, R339). -/
structure CEnt where
  addr : Nat
  mask : W32
  idx : Nat := 0
  hdr : Option Hdr := none
  code : List W96 := []
  id : Nat := 0
  running : Bool := false
  pipe : Nat := 0
  wait : Option Wait := none
  since : Option Nat := none
  deriving DecidableEq, Repr

/-- A path slot (03, R60). `tag` names the path for 02, R47 (log 2); `wait` is why it does not go on. -/
structure Path where
  occ : Bool := false
  pc : W64 := 0#64
  mask : W32 := 0#32
  depth : Nat := 0
  waiting : Bool := false
  rot : Nat := 0
  scnt : Nat := 0
  gmode : W32 := 1#32
  gfmt : W64 := 0x00000000D40FC647#64
  cq : List CEnt := []
  wait : Option Wait := none
  tag : Nat := 0
  exempt : Bool := false
  due : Option Nat := none      -- since when its next scalar instruction waits for the scalar unit (17, R339)
  deriving DecidableEq, Repr

/-- Where an access goes (04, R80-R83, R94). -/
inductive PKind where
  | dev (slice : Nat)
  | host (slice : Nat)
  | peer (pkg : Nat)
  | stash
  | ticket (slice entry : Nat)
  | nowhere
  deriving DecidableEq, Repr

/-- How far a part of an access has come. -/
inductive PSt where
  | todo
  | held
  | sent (die tag : Nat)
  | done
  deriving DecidableEq, Repr

/-- One access of an instruction: one lane's, or the scalar stream's. `ga` is the generic address, `fa` the
fabric address or the stash offset. -/
structure Part where
  lane : Nat := 0
  ga : Nat := 0
  fa : Nat := 0
  size : Nat := 0
  kind : PKind := .nowhere
  wr : Bool := false
  data : Nat := 0
  cmp : Nat := 0
  st : PSt := .todo
  res : Nat := 0
  err : Option (Cause × Nat) := none
  spec : Option (Nat × Nat) := none
  sampled : Bool := false
  walked : Bool := false  -- its timing header passed a page walker (21, R396)
  missed : Bool := false
  onSlice : Bool := false  -- a host load that held stores answered at its slice (04, R94)
  ord : Nat := 0           -- its place among the answers, once it has been answered (04, R102)
  stg : Bool := false      -- a fault that translation found lies in the sheet stage (19, R360)
  deriving DecidableEq, Repr

/-- The classes of issued, unfinished instructions (19, R357); `fetch` is a ticket's fetch, which outlives the
instruction that made it (05, R131); `engine` is an access of the streamer or of a mapped fill. -/
inductive OpCls where
  | load | store | atomic | tkld | tkred | rsta | halo | sfu | matrix | amsg | fetch | engine
  deriving DecidableEq, Repr

/-- What an access writes when it completes. -/
inductive Land where
  | none
  | sreg (r : SReg) (size : Nat) (sgn : Bool)
  | lane (f : LaneF)
  deriving DecidableEq, Repr

/-- An instruction that has issued and not retired (05, R107-R109). `vals` holds the captured sources, source by
source and lane by lane (19, R357); `gmode` and `gfmt` are those of its path as it issued, `cmask` is the
mask that a trace record names (21, R391),
`tcs` the tile control registers that a matrix instruction read (10, R242). -/
structure Op where
  id : Nat
  g : GKey
  slot : Bool
  tag : Nat
  pc : Nat := 0
  core : Nat := 0
  pid : Nat := 0
  clause : Nat := 0
  setB : Bool := false
  cls : OpCls
  instr : Instr
  mask : W32 := 0#32
  cmask : W32 := 0#32
  vals : List (List Nat) := []
  parts : List Part := []
  land : Land := .none
  aop : Option AtomOp := none
  paths : BitVec 4 := 0#4
  returned : Bool := false
  begun : Bool := false
  valid : Bool := true
  gmode : W32 := 0#32
  gfmt : W64 := 0#64
  tcs : List W64 := []
  deriving DecidableEq, Repr

/-- A clause that still counts on a flag (01, R27). -/
structure Clause where
  id : Nat
  g : GKey
  fa : Option Nat
  fb : Option Nat
  ended : Bool := false
  deriving DecidableEq, Repr

/-- The trap frame's own fields (19, R360); masks, depths and PCs stand in the path slots. -/
structure Frame where
  cause : Cause
  tk : Bool := false
  stg : Bool := false
  acc : Acc := .read
  slot : Bool := false
  lane : Option Nat := none
  dfr : Option Cause := none
  addr : Nat := 0
  time : Nat := 0
  info : Nat := 0
  deriving DecidableEq, Repr

/-- How a group stands with the stops of 19, R356-R364. -/
inductive Stop where
  | running
  | stopping (f : Frame)      -- waits for what R357 does not capture
  | pageWait (f : Frame)      -- R362 step 3
  | hostWait (f : Frame)      -- stopped under HOST, its record written or waiting (R363)
  | ended                     -- the group has ended; its published copies stay readable (09, R237)
  | held (f : Frame)          -- stopped at a slice end or by an eviction; resumes as rett does
  | leaving                   -- removed by a cancellation, while its outstanding accesses complete (17, R337)
  deriving DecidableEq, Repr

/-- Why a stop was asked for (19, R371): `failed` is a parked fault whose page request failed, delivered as kind T (19, R367). -/
inductive StopWhy where
  | trap | evict | slice | debug | failed
  deriving DecidableEq, Repr

/-- What a continuation parks (19, R366); what supervisor state interrupts, with how often the group's window had closed when SPW was
set. -/
structure Park where
  frame : Frame
  p0 : Path
  p1 : Path
  s : List W64
  replay : List Op
  gen : Nat := 0
  deriving DecidableEq, Repr

/-- A binding of q4-q7 with its buffers (05, R140, R144). -/
structure QBind where
  desc : Nat
  esz : Nat
  ga : Nat := 0         -- the descriptor's generic address
  popb : List Nat := []
  pushb : List Nat := []
  deriving DecidableEq, Repr

/-- A group of cells, or a handler group (03, R60; 05, R149; 07, R179-R189). -/
structure Group where
  key : GKey
  live : Bool                 -- the group exists: launched, not ended
  handler : Option Nat        -- the handler index of a handler group
  hquads : List Nat           -- the reserved quads that a handler group takes
  reply : Option GKey         -- the group whose message a handler group handles
  pid : Nat
  parcel : Nat
  pos : Nat                   -- position in its parcel
  core : Nat
  width : Nat
  lanes : Nat                 -- lanes that hold a cell
  d : Desc
  s : List W64
  v : List W32
  k : List W32
  xw : List W32
  x0 : List W32
  x1 : List W32
  t0 : List (Option Int)      -- step tags of the even copies
  t1 : List (Option Int)
  seed : List W64
  draw : List W64
  rnd : List W64
  tc : List W64
  tile : List (Nat × Byte)
  acc : List (Nat × BitVec 48)
  q2 : List W64
  q3 : List W64
  qb : List (Option QBind)
  flags : List Nat
  step : Nat
  isOpen : Bool
  closedBy : List (Nat × Nat)  -- (reader group, last step it has closed)
  argp : W64
  stashbase : BitVec 20
  spill : BitVec 20
  spillCnt : Nat
  spillTags : List Nat
  spw : Option (Nat × Nat)
  spwGen : Nat                -- how often its window had closed when SPW was set
  lost : List (Nat × Nat)         -- tags whose package was reset while the group waited for them: cell, step (07, R194)
  cont : W64
  park : Option Park
  sup : Option Park           -- what supervisor state interrupted: the model's copy beside the image
  supImage : Option (Bool × Nat × Nat)   -- the image that supervisor state entered with, which rett reloads (19, R364, R368)
  contDone : Option Bool      -- the parked fault's page request has completed: true for FAIL
  super : Bool
  stop : Stop
  why : StopWhy
  replay : List Op
  resident : Bool
  inPlace : Bool              -- stopped at a slice end, its state still in the core's files (18, R351)
  blockedAt : Option Nat      -- since when it has been blocked, for R200
  ranAt : Nat                 -- when it last ran, for R200
  everRan : Bool
  image : Option (Bool × Nat × Nat)   -- in the stash?, address, size
  snap : Nat                  -- snapshot position in P (12, R264)
  acqAt : Nat := 0            -- when its last acquire at fabric scope was made (12, R267; log 48)
  p0 : Path
  p1 : Path
  deriving DecidableEq, Repr

/-- A map entry of a parcel (06, R159). -/
structure MapEnt where
  off : Nat      -- stash offset
  ga : Nat
  len : Nat
  deriving DecidableEq, Repr

/-- A streamer command (06, R163). -/
structure Cmd where
  seq : Nat
  w0 : W64
  w1 : W64
  w2 : W64
  w3 : W64
  at_ : Nat := 0   -- the number that the next operation was to take as the fourth word was pushed (06, R166)
  deriving DecidableEq, Repr

/-- A started command (06, R165): landed sectors, the length of the landed prefix in sectors, a paused sector with its
page fault. An MCAST numbers its sectors receiver by receiver. -/
structure Started where
  cmd : Cmd
  landed : List Nat
  pre : Nat
  paused : Option (Nat × Cause × Nat)   -- sector, cause, address
  deriving DecidableEq, Repr

/-- A parcel on its core (06; 17, R329-R330). -/
structure Parcel where
  key : PKey
  pid : Nat
  core : Nat
  base : Nat
  size : Nat
  ngroups : Nat
  gmax : Nat                  -- the largest number of groups in any parcel of the launch (17, R330)
  prodGid : Nat
  home : Nat
  partial_ : List W64
  cmds : List Cmd
  started : List Started
  seq : Nat
  q1 : List W64
  lost : Bool
  maps : List (Option MapEnt)
  mvalid : List Nat           -- stash offsets of valid words of mapped lines
  mdirty : List Nat           -- and of dirty ones
  mfill : List Nat            -- stash lines whose fill is outstanding
  mbad : List (Nat × Cause × GKey)   -- words whose fill has failed, until the group that touched the line faults (06, R159)
  mback : List (GKey × Nat × Nat) := []  -- dirty words that a publication of a group writes back, with the bytes it writes (06, R160)
  bfree : BitVec 16
  deriving DecidableEq, Repr

/-- A range of doors (16, R322): `live` until its launch ends, retired until the job ends. -/
structure Door where
  base : Nat
  count : Nat
  launch : Nat
  sheet : Nat
  job : Nat
  live : Bool
  deriving DecidableEq, Repr

/-- How far a launch has come (17, R332). -/
inductive LSt where
  | accepted | released | placed | leaving | ended
  deriving DecidableEq, Repr

/-- A launch (17, R325-R333; 05, R151). -/
structure Launch where
  handle : Nat
  pid : Nat
  d : Desc
  st : LSt
  order : Nat
  can : Bool
  pinned : Bool
  windows : BitVec 16
  wgens : List (Nat × Nat)            -- how often each window has closed by a commit (05, R155)
  marks : List (GKey × Nat × Nat)     -- commits waiting for the group's publication: window, slots
  gone : List Nat := []               -- packages of its span that have been reset since it was accepted (07, R194)
  deriving DecidableEq, Repr

/-- A counter record (17, R326), kept by sheet, level and handle. -/
structure CRec where
  sheet : Nat
  lvl : Nat
  h : Nat
  can : Bool
  out : Nat
  done : Nat
  zeroAt : Nat
  pids : List Nat := []      -- the partitions whose launches it has counted (22, R410)
  deriving DecidableEq, Repr

/-- States of a ticket entry (05, R129). -/
inductive TSt where
  | free | fetching | filled | faulted | draining
  deriving DecidableEq, Repr

/-- A ticket entry (05, R129). `rd` are the reads of the fetch, as (generic address, fabric address, kind). -/
structure Ticket where
  slice : Nat
  idx : Nat
  st : TSt := .free
  gen : Nat := 0
  pid : Nat := 0
  len : Nat := 0
  cls : Nat := 0
  deadline : Option Nat := none
  fault : Option (Cause × Nat) := none
  stg : Bool := false      -- the fault lies in the sheet stage (19, R360)
  fgroup : Option GKey := none
  core : Nat := 0
  g : GKey := ⟨0, 0⟩
  ga : Nat := 0
  data : List Byte := []
  deriving DecidableEq, Repr

/-- A group waiting to pop, or a full push waiting for room (05, R143). -/
structure QWait where
  g : GKey
  slot : Bool
  n : Nat
  deriving DecidableEq, Repr

/-- A queue context (04, R96; 05, R139-R143). -/
structure QCtx where
  desc : Nat
  slice : Nat
  base : Nat
  cap : Nat
  esz : Nat
  head : Nat
  tail : Nat
  pid : Nat
  core : Nat
  binds : List (GKey × Nat)
  waiters : List QWait
  deriving DecidableEq, Repr

/-- An active message (05, R145-R148), or the words of a reply not yet pushed: to whom, from which path (05, R150). -/
structure Msg where
  p : PKey
  h : Nat
  g : Nat
  parcel : Nat
  data : List Byte
  queued : Bool
  reply : Option (GKey × GKey × Bool) := none
  deriving DecidableEq, Repr

/-- A cache line of a slice (04, R88-R91): its bits, its fill, the requests held behind it, the partition that allocated it, and
the ways it takes: true for a way of that partition's guarantee, false for one that no guarantee claims (18, R345). The list of
lines has the least recently used one first. -/
structure Line where
  slice : Nat
  addr : Nat
  valid : BitVec 32
  dirty : BitVec 32
  fill : Bool
  held : List (Nat × Nat)
  ways : List Bool
  pid : Nat
  deriving DecidableEq, Repr

/-- An unpublished byte of one core (12, R263), with the groups whose stores a publication would publish. -/
structure Unpub where
  core : Nat
  addr : Nat
  val : Byte
  writers : List GKey
  deriving DecidableEq, Repr

/-- A byte published at a scope narrower than fabric (12, R266; 04, R99). -/
structure Narrow where
  core : Nat
  scope : Nat
  addr : Nat
  val : Byte
  writers : List GKey
  at_ : Nat := 0          -- when it was published, for the acquires of peers (12, R267; log 48)
  deriving DecidableEq, Repr

/-- Stores of a group that a peer's target slice holds unpublished, or, with a window, tagged words there (12, R263; 05, R153). -/
structure Away where
  core : Nat
  g : GKey
  pkg : Nat
  slice : Nat
  win : Option Nat
  deriving DecidableEq, Repr

/-- A speculative tagged byte (05, R153-R154). -/
structure Spec where
  launch : Nat
  win : Nat
  slot : Nat
  addr : Nat
  val : Byte
  deriving DecidableEq, Repr

/-- A combined translation (19, R376). `own` is the core of an L1 entry or the slice of an L2 entry. -/
structure Tlb where
  own : Nat
  pid : Nat
  page : Nat
  fa : Nat
  r : Bool
  w : Bool
  x : Bool
  deriving DecidableEq, Repr

/-- A value on its way to, or in, a core's margin buffer (07, R193; 04, R100). -/
structure MVal where
  slice : Nat
  core : Nat
  launch : Nat
  parcel : Nat             -- the reader parcel
  cell : Nat
  reg : Nat
  tag : Nat
  val : W32
  deriving DecidableEq, Repr

/-- A close announcement on its way (07, R191, R193). -/
structure Ann where
  src : GKey
  step : Nat
  dst : GKey
  deriving DecidableEq, Repr

/-- What the agenda may hold (log 2). -/
inductive Turn where
  | act (i : Instr)                    -- an event of the table
  | scalar (g : GKey) (slot : Bool)    -- the path's next scalar instruction
  | lane (g : GKey) (slot : Bool)      -- the next lane instruction of the slot's running clause
  | tick (ns : Nat)                    -- meridian time advances
  deriving DecidableEq, Repr

end Sys2Proof.Machine
end

