-- ==== Sys2Proof/Machine/PTypes.lean ====
section
/-!
DEFINITION. The records of a partition, a core, the router, a job and the host interface.
-/

namespace Sys2Proof.Machine

/-- A watchpoint (21, R399). -/
structure Watch where
  kinds : Nat
  len : Nat
  addr : Nat
  deriving DecidableEq, Repr

/-- A record of the event ring (19, R363). -/
structure EvRec where
  seq : Nat
  kind : Nat              -- 1 page request, 2 trap, 3 notice
  g : Option GKey
  page : Option (Nat × Acc)
  frame : Frame
  written : Bool
  bytes : List Byte := []  -- the trap frame's bytes as they were when the record was made
  deriving DecidableEq, Repr

/-- An entry of the page-request queue (18, R352). -/
structure PReq where
  page : Nat
  stg : Bool
  acc : Acc
  seq : Nat
  groups : List GKey
  rsv : Bool              -- it holds one of its sheet's reserved entries
  deriving DecidableEq, Repr

/-- One mailbox (22, R409): the address, GO, the last status and the reply block. -/
structure Mbox where
  addr : Nat := 0
  go : W64 := 0#64
  stat : W64 := 0#64
  reply : List Byte := []
  deriving DecidableEq, Repr

/-- The carried sketch (21, R402): its counters, N and SAT, and the cores that have been cleared since it was loaded. -/
structure Carried where
  cells : List W32
  n : Nat
  sat : Bool
  cores : List Nat
  deriving DecidableEq, Repr

/-- A partition: a sheet or an inset (18, R342-R345; 19, R363, R373; 21; 22, R411). -/
structure Prt where
  pid : Nat
  bound : Bool := false
  mbase : Nat := 0
  msize : Nat := 0
  quads : Nat := 0
  quadsIn : Nat := 0              -- the QUADS that counts: a change that a pinned launch puts off is not in it (07, R202)
  weight : Nat := 16
  lvl : Nat := 0
  quantum : Nat := 1000
  hbmsh : Nat := 0
  tamsh : Nat := 0
  tksh : Nat := 0
  tk3q : Nat := 64
  prqcap : Nat := 1024
  saveto : Nat := 20
  slmask : Option (BitVec 256) := none   -- none while it stands at its default
  ways : Nat := 0
  s1root : W64 := 0#64
  s2root : W64 := 0#64
  trapcfg : W64 := 0#64
  evbase : W64 := 0#64
  evsize : Nat := 64
  evhead : Nat := 0
  evtail : Nat := 0
  evresp : W64 := 0#64
  evseq : Nat := 0
  recs : List EvRec := []
  preqs : List PReq := []
  refused : List (Nat × Option GKey × Frame) := []  -- faults that found the page-request queue full, numbered by age
  mbox : Mbox := {}
  trcctl : W64 := 32#64
  trcptr : W64 := 0#64
  trchead : W64 := 0#64
  trace : List (List Byte) := []
  evsel : W64 := 0xFFFFFFFFFFFFFFFF#64
  evc : List W64 := List.replicate 8 0#64
  watch : List Watch := List.replicate 8 ⟨0, 2, 0⟩
  carried : Option Carried := none
  lreq : W64 := 0#64
  lres : W64 := 0#64
  vtime : Nat := 0
  vin : Nat := 0               -- virtual time among a sheet and its insets
  written : Bool := false      -- its budget has been written (18, R344)
  acceptWritten : Bool := false
  featOffer : BitVec 256 := 0xFF#256
  featAccept : BitVec 256 := 0#256
  deriving DecidableEq, Repr

/-- A core's own registers (18, R346, R350; 21, R393-R396). -/
structure CoreRec where
  core : Nat
  pids : List Nat := List.replicate 8 0x3FF
  mode : Nat := 0
  own : BitVec 128 := 0#128
  running : Option Nat := none
  top : Option Nat := none     -- the listed partition whose slice it is
  topEnd : Nat := 0            -- when its quantum is over
  topUsed : Nat := 0           -- and what it has used of it
  sliceAt : Nat := 0           -- the slice of the member of that partition that runs
  sliceEnd : Nat := 0
  stopping : Bool := false
  stopAt : Nat := 0
  leaveAt : Nat := 0           -- since when groups that may not stay have had to leave
  readyO : List Nat := []      -- listed partitions with runnable work after the last turn (18, R350)
  readyI : List Nat := []      -- and their members with runnable work
  sketch : List W32 := []
  skctl : W64 := 0xFFC000#64
  sketchN : Nat := 0
  sketchSat : Bool := false
  request : Nat := 0
  passed : List (Nat × Nat) := []   -- issues of a unit to other classes while a class waits, by 8·unit + class (17, R339)
  deriving DecidableEq, Repr

/-- A requester tag of a compute die that has been used (14, R304-R305): 0 free, 1 outstanding, 2 quarantined. -/
structure Tag where
  die : Nat
  tag : Nat
  st : Nat
  gen : Nat
  op : Nat
  part : Nat
  peer : Nat
  since : Nat
  slice : Nat := 0
  seq : Nat := 0
  deriving DecidableEq, Repr

/-- A reduction slot of this router (14, R313-R314): 0 FREE, 1 OPEN, 2 DONE. -/
structure RSlot where
  st : Nat := 0
  gen : Nat := 0
  job : Nat := 0
  cid : Nat := 0
  parts : BitVec 256 := 0#256
  op : Nat := 0
  ty : Nat := 0
  timeout : Nat := 0
  deadline : Nat := 0
  vals : List (Nat × Nat) := []
  waited : List Nat := []
  deriving DecidableEq, Repr

/-- The answer to a reduction request. -/
inductive RAns where
  | handle (h : Nat)
  | taken
  | late
  | refused (c : Cause)
  | result (val status : Nat) (missing : BitVec 256)
  deriving DecidableEq, Repr

/-- A reduction request (14, R315-R316): 0 `fralloc`, 1 `frcontrib`, 2 `frwait`; from a path of this package, named by its group and
its tag, or
from a peer, whose packet's tag the answer carries. -/
structure RReq where
  kind : Nat
  pkg : Nat
  g : Option (GKey × Nat) := none
  tag : Nat := 0
  tgen : Nat := 0
  root : Nat
  job : Nat := 0
  cid : Nat := 0
  parts : BitVec 256 := 0#256
  op : Nat := 0
  ty : Nat := 0
  timeout : Nat := 0
  slot : Nat := 0
  gen : Nat := 0
  val : Nat := 0
  ans : Option RAns := none
  deriving DecidableEq, Repr

/-- The router of the package and what it knows of the domain (14). -/
structure Net where
  inc : Nat := 0
  row : Nat := 0
  col : Nat := 0
  incSet : Bool := false
  everUp : Bool := false
  lvl : Nat := 0
  cap : Nat := 8
  dto : Nat := 20
  rto : Nat := 100
  peers : List (Nat × Nat × Nat) := []    -- number, PINC, STATE
  own : List Packet := []                 -- entered from this package, oldest first
  bufs : List (Nat × Packet × Nat) := []  -- input buffers of the normal lanes: port, packet, arrival time
  relief : List (Nat × Packet) := []      -- the relief lane: the port a packet came by, 32 for one moved here
  sent : List (Nat × Packet) := []        -- packets that left, with their port (the environment's)
  window : List Packet := []              -- ejected sequenced packets, until applied
  arrived : List Packet := []             -- ejected packets of KIND 3-5, 7 and 11, until their event
  early : List Packet := []               -- step packets held for a part not yet placed
  deadPorts : List Nat := []
  lanes : List (Nat × Nat) := []          -- lanes of a narrowed link; every other link has 4
  txseq : List (Nat × Nat × Nat) := []    -- peer, slice, next SEQ
  rxseq : List (Nat × Nat × Nat) := []    -- peer, slice, expected SEQ
  tags : List Tag := []
  domain : List Nat := []                 -- packages of the domain, by the entries written (log 61)
  given : List (Nat × Nat × Nat) := []    -- numbers given and not known to be applied: peer, slice, SEQ, oldest first
  waiting : List Packet := []             -- step packets and KIND 7 held at the limit of their pair
  pins : List Packet := []                -- requests applied here that a pinned line keeps back, until retried (12, R268)
  tokens : List (Nat × Nat × BitVec 8) := []  -- compass tokens that left: port, package to visit, epoch (the environment's)
  epoch : BitVec 8 := 0#8
  tokenSeen : Nat := 0
  counts : List Nat := List.replicate 7 0
  noticed : List (Nat × Nat) := []
  slots : List RSlot := List.replicate 64 {}
  rreqs : List RReq := []
  deriving DecidableEq, Repr

/-- The counter state of a partition that a migration carries (21, R402): EVSEL and EVC, TRCCTL and its pointers, the watches, and the
sum of the sketches with N and SAT. -/
structure Counters where
  evsel : W64
  evc : List W64
  trcctl : W64
  trcptr : W64
  trchead : W64
  watch : List Watch
  cells : List W32
  n : Nat
  sat : Bool
  deriving DecidableEq, Repr

/-- What a cut records of a job on this package (20, R382): its launches, the groups with their save images, the parcel records and
allotments with their empty lines, the counter records, and the region blocks as they stood. -/
structure CutRec where
  time : Nat := 0
  packages : List Nat := []
  launches : List Launch := []
  groups : List Group := []
  images : List (List Byte) := []
  clauses : List Clause := []
  parcels : List Parcel := []
  allots : List (PKey × List Host.Cell) := []
  empties : List (PKey × List Nat) := []
  recs : List CRec := []
  margin : List MVal := []
  mbuf : List MVal := []
  anns : List Ann := []
  blocks : List (Nat × List Host.Cell) := []
  deriving DecidableEq, Repr, Inhabited

/-- What reads of a partition's counters give while it migrates: its counter state and its cores' sketches as they stood before the
cut (21, R406). -/
structure Seen where
  pid : Nat
  counters : Counters
  cores : List CoreRec
  deriving DecidableEq, Repr

/-- A checkpoint in progress (20, R381-R386): 0 the cut is pending, 1 the copy runs, 2 every block is sealed, 3 the image is signed
and its counter is on its way to the mirrors. -/
structure Ckpt where
  job : Nat
  sheet : Nat
  pid : Nat
  snd : Sender
  migrate : Bool
  stage : Nat
  since : Nat
  tmo : Nat
  img : Nat
  room : Nat                        -- ISIZE
  regions : List (Nat × Nat)
  closing : List GKey               -- groups that were inside a close when the request came
  reached : List GKey               -- groups that have reached the cut
  pending : List (Nat × List Nat)   -- 64 KiB blocks not yet copied: generic address, local page addresses
  held : List Nat                   -- blocks at which a write is held
  cut : CutRec
  seen : Option Seen := none        -- a migration's counters as they stood before the cut (21, R402, R406)
  ctr : Nat := 0                    -- C, once the image is signed
  dk : Nat                          -- which draw of the random source made DK and the nonce
  deriving DecidableEq, Repr

/-- A sealed image (20, R387): what its manifest and its plaintext hold, and the manifest's own bytes that name it. -/
structure Img where
  head : List Byte                 -- manifest bytes [39:0], with CTR
  size : Nat
  sheet : Nat
  pid : Nat
  job : Nat
  ctr : Nat
  cut : CutRec
  counters : Option Counters       -- a migration's counter state (21, R402)
  legend : BitVec 256
  cores : Nat
  deriving DecidableEq, Repr

/-- A job's monotonic counter at its keeper (20, R386): CTR, and the cells that stand for missing mirrors. A migration that has
committed leaves it behind, to be read until the copies are dropped (20, R389). -/
structure JobCtr where
  sheet : Nat
  job : Nat
  keeper : Nat
  mirrors : List Nat
  ctr : Nat
  cells : List Nat := []
  moved : Bool := false
  seen : Option Seen := none
  deriving DecidableEq, Repr

/-- The copy of another keeper's counter that this package holds as a mirror (20, R386). -/
structure CtrCopy where
  keeper : Nat
  job : Nat
  ctr : Nat
  deriving DecidableEq, Repr

/-- A log record of 21, R403, its fields as numbers. -/
structure LogRec where
  kind : Nat
  wher : Nat
  ord : Nat
  launch : Nat
  group : Nat
  lane : Nat
  deriving DecidableEq, Repr

/-- A job's replay log (21, R403-R405). -/
structure JobLog where
  job : Nat
  ctl : W64 := 0#64
  recs : List LogRec := []
  replayed : List LogRec := []
  atomics : List (Nat × Nat) := []   -- atomics performed on each word since recording began
  deriving DecidableEq, Repr

/-- The Burard controller and the unit states (20-22). -/
structure Svc where
  fm : Mbox := {}
  mgmt : Mbox := {}
  ckpts : List Ckpt := []
  imgs : List Img := []
  ctrs : List JobCtr := []
  copies : List CtrCopy := []
  logs : List JobLog := []
  sigs : Nat := 0
  random : Nat := 0
  measures : List (BitVec 512) := []
  testing : List (UnitId × Bool) := []   -- units under self-test, and whether a second error has come
  retired : List UnitId := []
  coreSpares : List Nat := [8, 8, 8, 8]
  sliceSpares : List Nat := [2, 2, 2, 2]
  chanSpares : List Nat := List.replicate 12 2
  stoppedCores : List Nat := []
  ending : List (Option Sender × Nat × Nat) := []  -- jobs whose last launches are being removed: who is answered, sheet, job
  hostRead : Option (Nat × Nat × List Byte) := none  -- what the last host read returned: sheet, address, bytes (22, R408)
  unbindRes : Nat := 0       -- what the last unbind returned (18, R347)
  fwBad : Bool := false      -- a firmware image has failed its verification (22, R417)
  hot : Bool := false        -- 105 °C have been reached: every group stops, and the package powers down (22, R420)
  deriving DecidableEq, Repr

end Sys2Proof.Machine

namespace Sys2Proof

/-- What the part of a package in an image that another package has sealed holds, by the image's bytes and the part: to be decrypted
(20, R385, R389; log 12). -/
opaque Config.openedCut : List Byte → Nat → Machine.CutRec

/-- The counter state that such an image carries. -/
opaque Config.openedCounters : List Byte → Option Machine.Counters

end Sys2Proof
end

