-- ==== Sys2Proof/Machine/State.lean ====
section
/-!
DEFINITION. The state of one package, the reasons a step stops, and the state after reset.
-/

namespace Sys2Proof.Machine

/-- Why the machine stops. -/
inductive Fault where
  /-- Raised by `step` once the package has switched off at its thermal limit (22, R420): nothing runs until
  POWER_ON. Safe: the hardware does nothing either. -/
  | poweredDown
  deriving DecidableEq, Repr

/-- Why the model gives no next state. -/
inductive Refusal where
  /-- Raised by `exec` for an instruction that has no meaning yet. Safe: nothing is claimed of it. -/
  | notModelled (mnemonic : String)
  deriving DecidableEq, Repr

/-- A descriptor with nothing in it. -/
def Desc.zero : Desc :=
  { gx := 0, gy := 0, gz := 0, gw := 4, regs := 8, prio := 0, prod := 0, pex := 0, pey := 0, pez := 0, bnd := 0#16
    bmask := 0#16, cmask := 0#16, btab := [], frame := 0, entry := 0#64, lcode := 0#64, argp := 0#64, halo := []
    tile := 0, accs := 0, hq := 0, hcnt := 0, stash := 0, spill := 0, dcnt := 0, htab := 0, doors := 0, back := 0
    bsize := 0, start := 0, graph := 0, stage := 0, job := 0, deps := [], span := 0#32, lkey := 0#32 }

/-- A group at its start (03, R60; 07, R179, R187, R189; 05, R151; 19, R366), of `w` lanes with `n` registers,
`cells` of the lanes holding a cell. -/
def Group.start (key : GKey) (pid parcel pos core w cells : Nat) (d : Desc) : Group :=
  { key := key, live := true, handler := none, hquads := [], reply := none, pid := pid, parcel := parcel, pos := pos, core := core
    width := w, lanes := cells, d := d
    s := List.replicate 64 0#64
    v := List.replicate (d.regs * w) 0#32
    k := 0xFFFFFFFF#32 :: List.replicate 7 0#32
    xw := List.replicate (8 * w) 0#32
    x0 := List.replicate (8 * w) 0#32
    x1 := List.replicate (8 * w) 0#32
    t0 := List.replicate (8 * w) none
    t1 := List.replicate (8 * w) (some (-1))
    seed := List.replicate w 0#64
    draw := List.replicate w 0#64
    rnd := List.replicate w 0#64
    tc := List.replicate 16 0#64
    tile := [], acc := [], q2 := [], q3 := []
    qb := List.replicate 4 none
    flags := List.replicate 12 0
    step := 0, isOpen := true, closedBy := []
    argp := d.argp, stashbase := 0#20, spill := 0#20, spillCnt := 0, spillTags := []
    spw := none, spwGen := 0, lost := [], cont := 0#64, park := none, sup := none, supImage := none, contDone := none, super := false
    stop := .running, why := .trap, replay := [], resident := true, inPlace := false, blockedAt := none, ranAt := 0, everRan := false
    image := none, snap := 0
    p0 := { occ := true, pc := d.entry, mask := BitVec.ofNat 32 (2 ^ cells - 1) }
    p1 := {} }

/-- No group: what the focus holds when no group is there. -/
def Group.nobody : Group :=
  { Group.start ⟨0, 0⟩ 0 0 0 0 4 0 Desc.zero with live := false, resident := false, p0 := {} }

/-- The state of one package (log 1). -/
structure State where
  -- the focus (log 2), the groups, their accesses and clauses
  g : Group
  slot : Bool
  others : List Group
  ops : List Op
  clauses : List Clause
  nextId : Nat
  free : Nat
  turns : Nat
  round : Nat                         -- where the kinds of act without an agenda stand (log 2)
  agenda : List Turn
  -- memory and its views
  mem : List Host.Cell
  poison : List Nat                    -- poisoned words that the slices hold
  memPoison : List Nat                 -- poisoned words at the controllers
  unpub : List Unpub
  narrow : List Narrow
  spec : List Spec
  lines : List Line
  away : List Away
  replied : Nat                        -- answers that the slices have sent
  reclaimed : List (Nat × Nat)         -- ticket entries reclaimed, by slice
  pOrder : Nat
  retries : List (Nat × Nat)
  stash : List Host.Cell
  emptyLines : List Nat
  hostOut : List (Nat × Byte)
  hostHeld : List Unpub
  -- slices and translation
  tlb1 : List Tlb
  tlb2 : List Tlb
  tickets : List Ticket
  qctxs : List QCtx
  msgs : List Msg
  margin : List MVal
  mbuf : List MVal
  anns : List Ann
  -- work
  parcels : List Parcel
  launches : List Launch
  recs : List CRec
  seqs : List (Nat × Nat)
  doors : List Door
  orders : Nat
  -- partitions, cores, the package
  prts : List Prt
  cores : List CoreRec
  time : Nat
  mhz : Nat
  powered : Bool
  strict : Bool
  holdover : Bool
  fwOk : Bool
  selfTest : Bool                      -- the start-up self-test has passed
  started : Bool
  notices : List (Cause × Nat)
  net : Net
  svc : Svc
  deriving DecidableEq, Repr

/-- The package right after reset. Fields the spec gives no value are named in log 10. -/
def State.reset : State :=
  { g := Group.nobody, slot := false, others := [], ops := [], clauses := [], nextId := 1, free := 0, turns := 0, round := 0, agenda := []
    mem := [], poison := [], memPoison := [], unpub := [], narrow := [], spec := [], lines := [], away := [], replied := 0
    reclaimed := [], pOrder := 0, retries := []
    stash := [], emptyLines := [], hostOut := [], hostHeld := []
    tlb1 := [], tlb2 := [], tickets := [], qctxs := [], msgs := [], margin := [], mbuf := [], anns := []
    parcels := [], launches := [], recs := [], seqs := [], doors := [], orders := 0
    prts := [], cores := []
    time := 0, mhz := 1600, powered := true, strict := true, holdover := false, fwOk := false, selfTest := false, started := false
    notices := [], net := {}, svc := {} }

end Sys2Proof.Machine
end

