-- ==== Sys2Proof/Machine/Access.lean ====
section
/-!
DEFINITION. Reading and writing the pieces of the state: memory cells, groups, path slots, scalar registers,
parcels, partitions, operations.
-/

namespace Sys2Proof.Machine

abbrev Res := Host.Outcome State Fault Refusal

/-! ## Memory cells in canonical form: addresses strictly rising, no zero byte listed -/

/-- A byte; an unlisted address reads 0 (log 4). -/
def cellGet : List Host.Cell → Nat → Byte
  | [], _ => 0#8
  | (b, w) :: m, a => if a = b then w else cellGet m a

def cellSet : List Host.Cell → Nat → Byte → List Host.Cell
  | [], a, v => if v = 0#8 then [] else [(a, v)]
  | (b, w) :: m, a, v =>
    if a < b then (if v = 0#8 then (b, w) :: m else (a, v) :: (b, w) :: m)
    else if a = b then (if v = 0#8 then m else (a, v) :: m)
    else (b, w) :: cellSet m a v

/-- Every listed address is at least `n`, rises strictly, and holds no zero. -/
def cellsFrom : Nat → List Host.Cell → Bool
  | _, [] => true
  | n, (a, v) :: m => n ≤ a && v != 0#8 && cellsFrom (a + 1) m

/-- The canonical form. -/
def Memory.wf (m : List Host.Cell) : Bool := cellsFrom 0 m

/-- `n` bytes from `a`, little-endian (00, R4). -/
def cellRead (m : List Host.Cell) (a : Nat) : Nat → Nat
  | 0 => 0
  | n + 1 => (cellGet m a).toNat + 256 * cellRead m (a + 1) n

def cellWrite (m : List Host.Cell) (a : Nat) : List Byte → List Host.Cell
  | [] => m
  | b :: bs => cellWrite (cellSet m a b) (a + 1) bs

def cellBytes (m : List Host.Cell) (a : Nat) : Nat → List Byte
  | 0 => []
  | n + 1 => cellGet m a :: cellBytes m (a + 1) n

/-! ## Small list operations -/

def bit32 (m : W32) (l : Nat) : Bool := m.getLsbD l

/-- The lanes set in a mask, ascending. -/
def lanesOf (m : W32) : List Nat := (List.range 32).filter (fun l => m.getLsbD l)

def setBit (m : W32) (l : Nat) (b : Bool) : W32 :=
  if b then m ||| (1#32 <<< l) else m &&& ~~~(1#32 <<< l)

def popcount (m : W32) : Nat := (lanesOf m).length

/-- The value under a key of an association list, with a default. -/
def assocD {α : Type} (d : α) : List (Nat × α) → Nat → α
  | [], _ => d
  | (k, v) :: r, x => if k = x then v else assocD d r x

def assocSet {α : Type} : List (Nat × α) → Nat → α → List (Nat × α)
  | [], x, v => [(x, v)]
  | (k, w) :: r, x, v => if k = x then (x, v) :: r else (k, w) :: assocSet r x v

/-- The number of a pair (peer, slice). -/
def pairKey (p s : Nat) : Nat := p * 256 + s

/-! ## Groups and path slots -/

def pathOf (g : Group) (slot : Bool) : Path := if slot then g.p1 else g.p0

def setPath (g : Group) (slot : Bool) (p : Path) : Group :=
  if slot then { g with p1 := p } else { g with p0 := p }

/-- The path slot in focus. -/
def cur (s : State) : Path := pathOf s.g s.slot

def setCur (s : State) (p : Path) : State := { s with g := setPath s.g s.slot p }

/-- A group by its key, wherever it is held. -/
def getG (s : State) (k : GKey) : Option Group :=
  if s.g.live && s.g.key = k then some s.g else s.others.find? (fun g => g.live && g.key = k)

/-- Puts a group back under its key. -/
def setG (s : State) (g : Group) : State :=
  if s.g.live && s.g.key = g.key then { s with g := g }
  else { s with others := s.others.map (fun h => if h.live && h.key = g.key then g else h) }

/-- Every live group, the focused one first. -/
def groups (s : State) : List Group := if s.g.live then s.g :: s.others else s.others

/-- Changes one group, if it is there. -/
def updG (s : State) (k : GKey) (f : Group → Group) : State :=
  match getG s k with
  | some g => setG s (f g)
  | none => s

/-- Moves the focus to a slot of a group, if it is there. -/
def focusOn (s : State) (k : GKey) (slot : Bool) : State :=
  if s.g.live && s.g.key = k then { s with slot := slot }
  else match s.others.find? (fun g => g.live && g.key = k) with
    | some g =>
      let rest := s.others.filter (fun h => !(h.live && h.key = k))
      { s with g := g, slot := slot, others := if s.g.live then s.g :: rest else rest }
    | none => s

/-- Does something with a group in focus, then gives the focus back. -/
def withFocus (s : State) (k : GKey) (slot : Bool) (f : State → State) : State :=
  let s' := f (focusOn s k slot)
  if s.g.live then focusOn s' s.g.key s.slot else s'

/-! ## Scalar registers -/

/-- s0 reads as zero (01, R9). -/
def rs (s : State) (r : SReg) : W64 := if r = 0#6 then 0#64 else s.g.s.getD r.toNat 0#64

/-- A write to s0 is discarded (01, R9). -/
def ws (s : State) (r : SReg) (v : W64) : State :=
  if r = 0#6 then s else { s with g := { s.g with s := s.g.s.set r.toNat v } }

/-- The operation that will write a scalar register, if one is outstanding (05, R115). -/
def pendingS (s : State) (r : SReg) : Option Op :=
  if r = 0#6 then none
  else s.ops.find? (fun o => o.g = s.g.key && !o.returned &&
    (match o.land with
     | .sreg d _ _ => d = r
     | _ => false))

/-- The current path goes on with the next word (01, R7). -/
def advance (s : State) : State :=
  setCur s { cur s with pc := (cur s).pc + 4#64, wait := none, exempt := false }

/-- The current path goes on at an address. -/
def goTo (s : State) (pc : W64) : State :=
  setCur s { cur s with pc := pc, wait := none, exempt := false }

/-- The current path does not go on, for a reason. -/
def waitFor (s : State) (w : Wait) : Res :=
  .next (setCur s { cur s with wait := some w })

/-- A part that travels to a peer. -/
def isPeerPart (p : Part) : Bool :=
  match p.kind with
  | .peer _ => true
  | _ => false

/-- A peer's load or atomic will write the register. -/
def peerPending (s : State) (r : SReg) : Bool := (pendingS s r).any (fun o => o.parts.any isPeerPart)

/-- A scalar instruction waits while a register it reads or writes has a load outstanding (05, R115). A wait on one that a peer's access
will write is a blocking point, whichever others it waits on beside it (05, R112). -/
def needS (s : State) (l : List SReg) (k : Res) : Res :=
  match l.find? (peerPending s), l.find? (fun r => (pendingS s r).isSome) with
  | some r, _ => waitFor s (.sreg r true)
  | none, some r => waitFor s (.sreg r false)
  | none, none => k

/-! ## Packages, dies, slices, cores -/

/-- The number of this package (14, R284). -/
def pkgNo (s : State) : Nat := 16 * s.net.row + s.net.col

def dieOfCore (c : Nat) : Nat := c / 192

/-- The slice adjacent to a core (04, R104). -/
def coreSlice (c : Nat) : Nat := (c / 192) * 64 + (c % 192) / 3

/-- The home slice of a device-memory address (04, R86). -/
def homeSlice (p : Nat) : Nat :=
  let n := (p / 256) % 2 ^ 32
  let t := n % 12
  let j := n / 12
  (t / 3) * 64 + ((j % 64) ^^^ (j / 64 % 64) ^^^ (j / 4096 % 64))

/-- The target slice of a host-window address (04, R94). -/
def hostSlice (h : Nat) : Nat :=
  let n := (h % 2 ^ 51) / 256
  (n % 256) ^^^ (n / 256 % 256) ^^^ (n / 65536 % 256)

/-! ## Partitions, cores, parcels, launches -/

def sheetOf (pid : Nat) : Nat := pid / 8

/-- A partition's record; a partition never written stands at its reset values (18, R344). -/
def prtOf (s : State) (pid : Nat) : Prt :=
  match s.prts.find? (fun p => p.pid = pid) with
  | some p => p
  | none => { pid := pid }

def setPrt (s : State) (p : Prt) : State :=
  if s.prts.any (fun q => q.pid = p.pid) then
    { s with prts := s.prts.map (fun q => if q.pid = p.pid then p else q) }
  else { s with prts := s.prts ++ [p] }

def coreOf (s : State) (c : Nat) : CoreRec :=
  match s.cores.find? (fun r => r.core = c) with
  | some r => r
  | none => { core := c }

def setCore (s : State) (r : CoreRec) : State :=
  if s.cores.any (fun q => q.core = r.core) then
    { s with cores := s.cores.map (fun q => if q.core = r.core then r else q) }
  else { s with cores := s.cores ++ [r] }

def parcelOf (s : State) (k : PKey) : Option Parcel := s.parcels.find? (fun p => p.key = k)

def setParcel (s : State) (p : Parcel) : State :=
  { s with parcels := s.parcels.map (fun q => if q.key = p.key then p else q) }

def launchOf (s : State) (h : Nat) : Option Launch := s.launches.find? (fun l => l.handle = h)

def setLaunch (s : State) (l : Launch) : State :=
  { s with launches := s.launches.map (fun q => if q.handle = l.handle then l else q) }

/-- The parcel of a group. -/
def parcelKey (g : Group) : PKey := ⟨g.key.launch, g.parcel⟩

/-- The allotment of a group's parcel: base and size (06, R157). -/
def allotOf (s : State) (g : Group) : Nat × Nat :=
  match parcelOf s (parcelKey g) with
  | some p => (p.base, p.size)
  | none => (0, 0)

/-- A stash range lies in the allotment (06, R157). -/
def inAllot (s : State) (g : Group) (off n : Nat) : Bool :=
  let (b, z) := allotOf s g
  b ≤ off && off + n ≤ b + z

/-- A feature of the sheet has been accepted (22, R414). -/
def featOn (s : State) (pid bit : Nat) : Bool := (prtOf s (8 * sheetOf pid)).featAccept.getLsbD bit

/-- CORE_OWN gives a core to a partition or to its sheet (18, R346). -/
def ownsCore (s : State) (pid core : Nat) : Bool :=
  let r := coreOf s core
  (r.mode = 1 && ((r.pids.getD 0 0x3FF) = pid || (r.pids.getD 0 0x3FF) = 8 * sheetOf pid))
    || (r.mode = 2 && r.pids.any (fun p => p = pid || p = 8 * sheetOf pid))

/-- A partition may use a core (18, R346); an unbound sheet runs no work (18, R342). -/
def mayUse (s : State) (pid core : Nat) : Bool :=
  (prtOf s (8 * sheetOf pid)).bound && !s.svc.stoppedCores.contains core && ownsCore s pid core

/-- A core is isolated for its self-test (22, R415). -/
def coreIsolated (s : State) (core : Nat) : Bool := s.svc.testing.any (fun t => t.1 = .core core)

/-- The partition may run on the core now: its own, or its slice of a time-shared one (18, R346, R350). -/
def coreRuns (s : State) (pid core : Nat) : Bool :=
  let r := coreOf s core
  !s.svc.hot && !coreIsolated s core && mayUse s pid core && (r.mode = 1 || (r.running = some pid && !r.stopping))

/-- The quads of a partition on each of its cores: what its insets are granted is drawn from a sheet's (18, R349; DESIGN CHOICE:
whether or not they have work there, log 63). -/
def ownQuads (s : State) (pid : Nat) : Nat :=
  (prtOf s pid).quadsIn - (if pid % 8 = 0 then ((List.range 4).map (fun i => (prtOf s (pid + 1 + i)).quadsIn)).sum else 0)

/-- A slice is isolated for its self-test, or has failed without a spare: it holds requests (22, R415). -/
def sliceIsolated (s : State) (sl : Nat) : Bool :=
  s.svc.testing.any (fun t => t.1 = .slice sl) || s.svc.retired.contains (.slice sl)

/-- The slices that have failed and found no spare (22, R415). -/
def lostSlices (s : State) : BitVec 256 :=
  s.svc.retired.foldl (fun m u => match u with
    | .slice n => m ||| (1#256 <<< n)
    | _ => m) 0#256

/-- The default of SLMASK: every slice of the dies that hold the partition's cores (18, R344). -/
def defaultMask (s : State) (pid : Nat) : BitVec 256 :=
  (s.cores.filter (fun r => ownsCore s pid r.core)).foldl
    (fun a r => a ||| ((BitVec.ofNat 256 (2 ^ 64 - 1)) <<< (64 * dieOfCore r.core))) 0#256

/-- SLMASK of a partition: as written, or by default every slice of the dies that hold its cores (18, R344). -/
def maskOf (s : State) (pid : Nat) : BitVec 256 := ((prtOf s pid).slmask).getD (defaultMask s pid)

/-- The slices granted to a partition: its SLMASK, inside what its sheet's SLMASK grants where that has been written (18,
R344-R345); a slice that has failed without a spare is in none (22, R415). -/
def slicesOf (s : State) (pid : Nat) : BitVec 256 :=
  maskOf s pid &&& ((prtOf s (8 * sheetOf pid)).slmask).getD (~~~0#256) &&& ~~~lostSlices s

/-! ## Operations in flight -/

def opOf (s : State) (id : Nat) : Option Op := s.ops.find? (fun o => o.id = id)

def setOp (s : State) (o : Op) : State :=
  { s with ops := s.ops.map (fun q => if q.id = o.id then o else q) }

/-- The operations of a group on a path that have not retired: those from the first that has not returned (05,
R108). -/
def unretired (s : State) (k : GKey) (path : Nat) : List Op :=
  (s.ops.filter (fun o => o.g = k && o.paths.getLsbD path)).dropWhile (fun o => o.returned)

/-- A path counter (05, R108). -/
def pathCount (s : State) (k : GKey) (path : Nat) : Nat := (unretired s k path).length

/-- An operation that has returned and whose earlier ones on each of its paths have too. -/
def retired (s : State) (o : Op) : Bool :=
  o.returned && (List.range 4).all (fun p => !o.paths.getLsbD p || !(unretired s o.g p).any (fun q => q.id = o.id))

/-- Drops the operations that have retired; an instruction that has issued and waits stays until it goes on (07, R186; log 71). -/
def pruneOps (s : State) : State := { s with ops := s.ops.filter (fun o => o.cls = .halo || !retired s o) }

/-- An access would raise a counter past 255 (05, R108). -/
def countersFull (s : State) (paths : BitVec 4) : Option Nat :=
  (List.range 4).find? (fun p => paths.getLsbD p && 255 ≤ pathCount s s.g.key p)

/-- An instruction that a stop captures (19, R357). -/
def capturable (c : OpCls) : Bool :=
  match c with
  | .load => true
  | .tkred => true
  | .halo => true
  | .sfu => true
  | .matrix => true
  | _ => false

/-- The lane-code address of a clause's next instruction. -/
def lanePc (e : CEnt) : Nat := e.addr + 12 * (e.idx + 1)

/-- A `tld`. -/
def isTld (o : Op) : Bool :=
  match o.instr with
  | .tld _ => true
  | _ => false

/-- A `tst`, whose requests leave the core in its turn only (10, R246-R247). -/
def isTst (o : Op) : Bool :=
  match o.instr with
  | .tst _ => true
  | _ => false

/-- A `tst` whose turn at the array has not come: it has begun no access (10, R246). -/
def tstWaits (o : Op) : Bool := isTst o && o.parts.all (fun p => p.st = .todo)

/-- Sixty-four capturable instructions are issued and unfinished (19, R358). -/
def captureFull (s : State) : Bool :=
  64 ≤ (s.ops.filter (fun o => o.g = s.g.key && (!o.returned || o.cls = .halo) && (capturable o.cls || tstWaits o))).length

/-! ## The clause queues and flags -/

/-- A clause in the queue has issued all its instructions or not: entries leave the queue when their last
instruction has issued, so an empty queue means that every clause enqueued has issued. -/
def clausesIssued (p : Path) : Bool := p.cq = []

/-- Every clause that the path in focus enqueued has completed (01, R27). -/
def clausesDone (s : State) : Bool :=
  (cur s).cq = [] && !s.ops.any (fun o => o.g = s.g.key && !o.returned && o.clause != 0 && o.tag = (cur s).tag)

end Sys2Proof.Machine
end

