-- ==== Sys2Proof/Machine/Memory.lean ====
section
/-!
DEFINITION. Addresses, translation, what each core sees of a byte, and publication (04 R80-R83; 12 R261-R268;
19 R372-R376; 06 R157-R158).
-/

namespace Sys2Proof.Machine

/-! ## Generic addresses (04, R80) -/

def stashWindow : Nat := 0x00F0000000000000

def inStashWindow (ga : Nat) : Bool := stashWindow ≤ ga && ga < stashWindow + 2 ^ 20

/-- The fault of an address before translation, if any (04, R80). -/
def addrFault (ga : Nat) : Option Cause :=
  if 2 ^ 56 ≤ ga then some .prot
  else if stashWindow ≤ ga && ga < stashWindow + 2 ^ 48 && !inStashWindow ga then some .stashRange
  else none

/-! ## What a core sees (12, R263, R266) -/

/-- A core of another package, as the slices here name it. -/
def peerCore (pkg core : Nat) : Nat := 4096 * (pkg + 1) + core

/-- The host, among the cores: it shares no scope but fabric with any. -/
def hostAgent : Nat := 4096 * 512

/-- A publication by core `c` at a scope contains the groups of core `h` (12, R266). -/
def scopeContains (c scope h : Nat) : Bool :=
  h = c || 5 ≤ scope || (scope = 4 && h / 4096 = c / 4096)
    || (scope = 3 && h / 4096 = c / 4096 && dieOfCore (h % 4096) = dieOfCore (c % 4096))

/-- The byte of local device memory that core `c` sees. -/
def viewByte (s : State) (c a : Nat) : Byte :=
  match s.unpub.find? (fun u => u.core = c && u.addr = a) with
  | some u => u.val
  | none =>
    match s.narrow.find? (fun n => n.addr = a && scopeContains n.core n.scope c) with
    | some n => n.val
    | none => cellGet s.mem a

def viewBytes (s : State) (c a : Nat) : Nat → List Byte
  | 0 => []
  | n + 1 => viewByte s c a :: viewBytes s c (a + 1) n

/-- The byte as an acquire at fabric scope sees it: the newest one published at any scope (12, R267; 19, R375). -/
def wideByte (s : State) (a : Nat) : Byte :=
  match s.narrow.find? (fun n => n.addr = a) with
  | some n => n.val
  | none => cellGet s.mem a

def wideRead (s : State) (a : Nat) : Nat → Nat
  | 0 => 0
  | n + 1 => (wideByte s a).toNat + 256 * wideRead s (a + 1) n

/-! ## Lines and poison (04, R85, R88-R93) -/

def lineAddr (a : Nat) : Nat := a / 128 * 128

def lineOf (s : State) (slice a : Nat) : Option Line := s.lines.find? (fun l => l.slice = slice && l.addr = lineAddr a)

def setLine (s : State) (l : Line) : State :=
  if s.lines.any (fun x => x.slice = l.slice && x.addr = l.addr) then
    { s with lines := s.lines.map (fun x => if x.slice = l.slice && x.addr = l.addr then l else x) }
  else { s with lines := s.lines ++ [l] }

/-- A line as it is used: it becomes the most recently used one (04, R88). -/
def touchLine (s : State) (l : Line) : State :=
  { s with lines := s.lines.filter (fun x => !(x.slice = l.slice && x.addr = l.addr)) ++ [l] }

/-- The words of a line that a mask names. -/
def lineWords (a : Nat) (m : BitVec 32) : List Nat := ((List.range 32).filter (fun i => m.getLsbD i)).map (fun i => a + 4 * i)

/-- A word is valid in a line of its home slice (04, R90). -/
def wordValid (s : State) (w : Nat) : Bool :=
  match lineOf s (homeSlice w) w with
  | some l => l.valid.getLsbD (w / 4 % 32)
  | none => false

/-- A poisoned word: as its slice holds it, or, where it does not, as the controller does (04, R85, R92-R93). -/
def wordPoisoned (s : State) (w : Nat) : Bool := if wordValid s w then s.poison.contains w else s.memPoison.contains w

/-- The lowest poisoned word of a range (04, R93): its address. -/
def poisoned (s : State) (a n : Nat) : Option Nat :=
  match (s.poison ++ s.memPoison).filter (fun w => w < a + n && a < w + 4 && wordPoisoned s w) with
  | [] => none
  | w :: ws => some (ws.foldl min w)

/-- The stack of a device-memory address, and its address there (04, R86). -/
def stackOf (p : Nat) : Nat := p / 256 % 2 ^ 32 % 12

def stackAddr (p : Nat) : Nat := p / 256 % 2 ^ 32 / 12 * 256 + p % 256

/-- The pseudo-channel of a device-memory address is under its self-test: it takes no traffic (04, R84, R86; 22, R415). -/
def chanTesting (s : State) (a : Nat) : Bool :=
  s.svc.testing.any (fun t => t.1 = .channel (stackOf a) (stackAddr a / 256 % 64))

/-- The device-memory address that lies at an address of a stack. -/
def ofStack (t x : Nat) : Nat := (x / 256 * 12 + t) * 256 + x % 256

/-! ## Stores and publication (12, R261-R266) -/

/-- A byte of core `c`'s store is accepted at its target. The value that is kept is a word's: the group is a writer of every byte
of the word that the core holds unpublished, so that a publication of one of them publishes the word (12, R263). -/
def acceptByte (l : List Unpub) (c a : Nat) (v : Byte) (g : GKey) : List Unpub :=
  let same : Unpub → Bool := fun u => u.core = c && u.addr / 4 = a / 4
  let ws := match l.find? same with
    | some u => if u.writers.contains g then u.writers else u.writers ++ [g]
    | none => [g]
  (l.filter (fun u => !(u.core = c && u.addr = a))).map (fun u => if same u then { u with writers := ws } else u) ++ [⟨c, a, v, ws⟩]

def acceptBytes (l : List Unpub) (c a : Nat) (g : GKey) : List Byte → List Unpub
  | [] => l
  | b :: bs => acceptBytes (acceptByte l c a b g) c (a + 1) g bs

/-- Words that a store of `n` bytes at `a` writes whole lose their poison (04, R93). -/
def clearPoison (p : List Nat) (a n : Nat) : List Nat :=
  p.filter (fun w => !(a ≤ w && w + 4 ≤ a + n))

/-- An ordinary store is accepted at local device memory. -/
def acceptStore (s : State) (c a : Nat) (g : GKey) (bs : List Byte) : State :=
  { s with unpub := acceptBytes s.unpub c a g bs, poison := clearPoison s.poison a bs.length }

/-- Bytes published too narrowly take a wider scope; at fabric scope they become the memory's (12, R266, R267).
Oldest first, so that coherence order is kept. -/
def widenList (s : State) (scope : Nat) (p : Narrow → Bool) : List Narrow → State
  | [] => s
  | n :: ns =>
    let s' := widenList s scope p ns
    if p n && n.scope < scope then
      if 5 ≤ scope then
        { s' with mem := cellSet s'.mem n.addr n.val, narrow := s'.narrow.filter (fun x => x.addr != n.addr) }
      else { s' with narrow := { n with scope := scope } :: s'.narrow }
    else { s' with narrow := n :: s'.narrow }

/-- A newer unpublished store of the holder's core to a word that is widened: it is published with it, as a superseded store is never
published on its own (12, R262-R263). -/
def newerThan (s : State) (scope : Nat) (p : Narrow → Bool) (u : Unpub) : Bool :=
  s.narrow.any (fun n => p n && n.scope < scope && n.core = u.core && n.addr / 4 = u.addr / 4)

/-- Forced publication of bytes published too narrowly, at fabric scope. -/
def widenFabric (s : State) (p : Narrow → Bool) : State :=
  let w := widenList { s with narrow := [] } 5 p s.narrow
  (w.unpub.filter (newerThan s 5 p)).foldl (fun t u =>
      { t with mem := cellSet t.mem u.addr u.val, narrow := t.narrow.filter (fun n => n.addr != u.addr) })
    { w with unpub := w.unpub.filter (fun u => !newerThan s 5 p u) }

/-- The lines that a slice's directory records, the most recently recorded first (04, R99). -/
def dirLines (s : State) (slice : Nat) : List Nat :=
  (s.narrow.filter (fun n => homeSlice n.addr = slice)).foldl
    (fun l n => if l.contains (lineAddr n.addr) then l else l ++ [lineAddr n.addr]) []

/-- Room in the directory for the line of `a`: a full one force-publishes its least recently used entry (04, R99; 12, R262). Use of
an entry is the recording of a publication (log 60). -/
def dirRoom (s : State) (a : Nat) : State :=
  let ls := dirLines s (homeSlice a)
  if ls.contains (lineAddr a) || ls.length < 8192 then s
  else match ls.getLast? with
    | some x => widenFabric s (fun n => lineAddr n.addr = x)
    | none => s

/-- A byte is published by core `c` at a scope (12, R261, R266). -/
def publishByte (s : State) (c scope a : Nat) (v : Byte) (ws : List GKey) : State :=
  if 5 ≤ scope then
    { s with mem := cellSet s.mem a v, narrow := s.narrow.filter (fun n => n.addr != a) }
  else
    let t := dirRoom s a
    { t with narrow := ⟨c, scope, a, v, ws, s.time⟩ ::
        t.narrow.filter (fun n => !(n.addr = a && n.core = c && n.scope ≤ scope)) }

def publishAll (s : State) (scope : Nat) : List Unpub → State
  | [] => s
  | u :: us => publishAll (publishByte s u.core scope u.addr u.val u.writers) scope us

/-- Publishes the unpublished bytes that satisfy `p`, in acceptance order. -/
def publishWhere (s : State) (scope : Nat) (p : Unpub → Bool) : State :=
  publishAll { s with unpub := s.unpub.filter (fun u => !p u) } scope (s.unpub.filter p)

/-- Bytes published too narrowly, those that satisfy `p`, take a wider scope; then the unpublished ones that satisfy `q`, and the newer
stores of the widened ones' cores, are published, in acceptance order (12, R262-R263, R266-R267). -/
def publishOver (s : State) (scope : Nat) (p : Narrow → Bool) (q : Unpub → Bool) : State :=
  publishWhere (widenList { s with narrow := [] } scope p s.narrow) scope (fun u => q u || newerThan s scope p u)

/-- The same where nothing else is published. -/
def widenWhere (s : State) (scope : Nat) (p : Narrow → Bool) : State := publishOver s scope p (fun _ => false)

/-- The target passes held host-window stores on to the I/O die, in acceptance order (04, R94). -/
def passHost (s : State) (p : Unpub → Bool) : State :=
  { s with hostOut := s.hostOut ++ (s.hostHeld.filter p).map (fun u => (u.addr, u.val))
           hostHeld := s.hostHeld.filter (fun u => !p u) }

/-- A publication takes its place in the order P (12, R264). -/
def tickP (s : State) : State := { s with pOrder := s.pOrder + 1 }

/-- The group's ordinary stores are published at a scope (12, R261, R263; 05, R122). In STRICT_SCOPE mode the core's
narrow-held lines are published with them (12, R268). -/
def publishGroup (s : State) (core : Nat) (g : GKey) (scope : Nat) : State :=
  let mine : Unpub → Bool := fun u => u.core = core && u.writers.contains g
  tickP (passHost (publishOver s scope (fun n => n.core = core && (s.strict || n.writers.contains g)) mine) mine)

/-- Forced publication of the bytes `a .. a + n - 1` at fabric scope (12, R262). -/
def forceBytes (s : State) (a n : Nat) : State :=
  let hit : Nat → Bool := fun b => a ≤ b && b < a + n
  publishOver s 5 (fun x => hit x.addr) (fun u => hit u.addr)

/-- A write at fabric scope as it is performed: a queue element, or a record that the package itself writes (12, R265). -/
def writeNow (s : State) (a : Nat) (bs : List Byte) : State :=
  let s' := forceBytes s a bs.length
  { s' with mem := cellWrite s'.mem a bs, poison := clearPoison s'.poison a bs.length
            memPoison := clearPoison s'.memPoison a bs.length }

/-- A store of agent `c` that is published at fabric scope as it is performed: an `rsta` segment's, a host's (12, R261; 19, R375).
What the same core stored there before is superseded; other cores' unpublished stores stay, to be published later (12, R263). -/
def storeOut (s : State) (c a : Nat) (bs : List Byte) : State :=
  let hit : Nat → Bool := fun b => a ≤ b && b < a + bs.length
  { s with mem := cellWrite s.mem a bs, unpub := s.unpub.filter (fun u => !(u.core = c && hit u.addr))
           narrow := s.narrow.filter (fun n => !hit n.addr), poison := clearPoison s.poison a bs.length }

/-- Before an atomic of core `h` performs, the words it touches are force-published, and so is a line whose recorded scope does not
contain the core (12, R262, R267). -/
def forceAtomic (s : State) (h a n : Nat) : State :=
  let s1 := forceBytes s a n
  if s1.narrow.any (fun x => lineAddr x.addr = lineAddr a && !scopeContains x.core x.scope h) then
    widenWhere s1 5 (fun x => lineAddr x.addr = lineAddr a)
  else s1

/-- An acquire at a scope by a group of core `h` (12, R267): lines of holders within the scope that do not contain
it are force-published, unless the package is in STRICT_SCOPE mode (12, R268). -/
def acquire (s : State) (h scope : Nat) : State :=
  let s' := if s.strict then s
    else widenWhere s 5 (fun n => scopeContains h scope n.core && !scopeContains n.core n.scope h)
  tickP s'

/-- A narrow-held line of the bytes does not contain the accessing core: in STRICT_SCOPE mode its access is retried
(12, R268). -/
def pinnedAgainst (s : State) (h a n : Nat) : Bool :=
  s.strict && s.narrow.any (fun x => a / 128 ≤ x.addr / 128 && x.addr / 128 ≤ (a + n - 1) / 128
    && !scopeContains x.core x.scope h)

/-! ## The stash (06, R157-R158) -/

def stashKey (core off : Nat) : Nat := core * 2 ^ 20 + off

def stashBytes (s : State) (core off n : Nat) : List Byte := cellBytes s.stash (stashKey core off) n

def stashRead (s : State) (core off n : Nat) : Nat := cellRead s.stash (stashKey core off) n

def stashWrite (s : State) (core off : Nat) (bs : List Byte) : State :=
  { s with stash := cellWrite s.stash (stashKey core off) bs }

def lineKey (core line : Nat) : Nat := core * 8192 + line

/-- The stash lines of a range. -/
def linesOf (off n : Nat) : List Nat :=
  if n = 0 then [] else (List.range ((off + n - 1) / 128 - off / 128 + 1)).map (fun i => off / 128 + i)

/-- The first empty line of a range (06, R158). -/
def emptyLine (s : State) (core off n : Nat) : Option Nat :=
  (linesOf off n).find? (fun l => s.emptyLines.contains (lineKey core l))

def markEmpty (s : State) (core off n : Nat) : State :=
  { s with emptyLines := s.emptyLines ++
      ((linesOf off n).map (lineKey core)).filter (fun k => !s.emptyLines.contains k) }

def markFull (s : State) (core : Nat) (ls : List Nat) : State :=
  { s with emptyLines := s.emptyLines.filter (fun k => !(ls.map (lineKey core)).contains k) }

/-! ## Translation (19, R372-R376) -/

def accCause (acc : Acc) : Cause :=
  match acc with
  | .read => .pfRead
  | .write => .pfWrite
  | .atomic => .pfWrite
  | .fetch => .pfFetch

def permOk (acc : Acc) (r w x : Bool) : Bool :=
  match acc with
  | .read => r
  | .write => w
  | .atomic => w
  | .fetch => x

/-- A translation found by a walk: the output address, and what the page allows. -/
structure Page where
  out : Nat
  r : Bool
  w : Bool
  x : Bool
  deriving DecidableEq, Repr

/-- The address shift of a level (19, R375). -/
def levelShift (lvl : Nat) : Nat := if lvl = 4 then 48 else 12 + 9 * lvl

def levelIndex (lvl va : Nat) : Nat := if lvl = 4 then va / 2 ^ 48 % 256 else va / 2 ^ levelShift lvl % 512

/-- One stage's walk from level `lvl` (19, R374-R375). `rd` reads an 8-byte entry; `inset` entries hold no bits
[59:56]. -/
def walkFrom (rd : Nat → Except (Cause × Bool) Nat) (inset : Bool) (pf : Cause) (va : Nat) :
    Nat → Nat → Except (Cause × Bool) Page
  | lvl, table =>
    match rd (table + 8 * levelIndex lvl va) with
    | .error e => .error e
    | .ok e =>
      let stg := !inset
      let addr := e / 4096 % 2 ^ 48 * 4096
      let leaf := e / 64 % 2 = 1
      let r := e / 2 % 2 = 1
      let w := e / 4 % 2 = 1
      let x := e / 8 % 2 = 1
      if e % 2 = 0 then .error (pf, stg)
      else if e / 2 ^ 60 != 0 || e / 256 % 16 != 0 || e / 16 % 4 != 0 then .error (.prot, stg)
      else if inset && addr / 2 ^ 56 != 0 then .error (.prot, stg)
      else if (leaf && 3 ≤ lvl) || (w && !r) then .error (.prot, stg)
      else if leaf || lvl = 0 then
        let sz := 2 ^ levelShift lvl
        if addr % sz != 0 then .error (.prot, stg)
        else .ok ⟨addr + va % sz, r, w, x⟩
      else match lvl with
        | 0 => .error (.prot, stg)
        | l + 1 => walkFrom rd inset pf va l addr

/-- The walker reads an 8-byte entry at a fabric address (19, R375); of tables outside local device memory see log 79. -/
def readEntry (s : State) (fa : Nat) : Except (Cause × Bool) Nat :=
  if fa / 2 ^ 52 = pkgNo s && fa % 2 ^ 52 < 0xC000000000 then
    match poisoned s (fa % 2 ^ 52) 8 with
    | some _ => .error (.busErr, true)
    | none => .ok (wideRead s (fa % 2 ^ 52) 8)
  else .error (.busErr, true)

def rootAddr (r : W64) : Nat := r.toNat / 4096 % 2 ^ 48 * 4096

/-- The sheet stage (19, R372): an intermediate address to a fabric address. -/
def sheetStage (s : State) (pid : Nat) (pf : Cause) (ia : Nat) : Except (Cause × Bool) Page :=
  let p := prtOf s (8 * sheetOf pid)
  if !p.s2root.getLsbD 0 then .error (pf, true)
  else match walkFrom (readEntry s) false pf ia 4 (rootAddr p.s2root) with
    | .error e => .error e
    | .ok pg =>
      let loc := pg.out % 2 ^ 52
      if pg.out / 2 ^ 52 = pkgNo s && loc < 0xC000000000 && !(p.mbase ≤ loc && loc < p.mbase + p.msize) then
        .error (.prot, true)
      else .ok pg

/-- A table entry of the inset stage, read through the sheet stage (19, R372). -/
def readInsetEntry (s : State) (pid : Nat) (pf : Cause) (ia : Nat) : Except (Cause × Bool) Nat :=
  match sheetStage s pid pf ia with
  | .error e => .error e
  | .ok pg => if pg.r then readEntry s pg.out else .error (.prot, true)

/-- Both stages (19, R372-R375). -/
def walk (s : State) (pid : Nat) (acc : Acc) (ga : Nat) : Except (Cause × Bool) Page :=
  let pf := accCause acc
  let p := prtOf s pid
  let inset : Except (Cause × Bool) Page :=
    if !p.s1root.getLsbD 0 then .error (pf, false)
    else if p.s1root.getLsbD 1 && pid % 8 = 0 then .ok ⟨ga, true, true, true⟩
    else walkFrom (readInsetEntry s pid pf) true pf ga 4 (rootAddr p.s1root)
  match inset with
  | .error e => .error e
  | .ok i =>
    if !permOk acc i.r i.w i.x then .error (.prot, false)
    else match sheetStage s pid pf i.out with
      | .error e => .error e
      | .ok o =>
        if !permOk acc o.r o.w o.x then .error (.prot, true)
        else .ok ⟨o.out, i.r && o.r, i.w && o.w, i.x && o.x⟩

/-- A TLB entry that serves the access (19, R376). -/
def tlbHit (s : State) (core pid ga : Nat) (acc : Acc) : Option Tlb :=
  let hit : Nat → Tlb → Bool := fun own e => e.own = own && e.pid = pid && e.page = ga / 4096 && permOk acc e.r e.w e.x
  match s.tlb1.find? (hit core) with
  | some e => some e
  | none => s.tlb2.find? (hit (coreSlice core))

/-- The fabric address of a generic address outside the stash window, through the TLBs or by a walk (log 7). -/
def xlate (s : State) (core pid ga : Nat) (acc : Acc) : Except (Cause × Bool) Nat :=
  match tlbHit s core pid ga acc with
  | some e => .ok (e.fa + ga % 4096)
  | none =>
    match walk s pid acc ga with
    | .error e => .error e
    | .ok p => .ok p.out

/-- The entry that a walk installs (19, R376); the oldest entries leave a full TLB. -/
def installTlb (s : State) (core pid ga : Nat) (acc : Acc) : State :=
  match s.tlb1.find? (fun e => e.own = core && e.pid = pid && e.page = ga / 4096 && permOk acc e.r e.w e.x) with
  | some _ => s
  | none =>
    match walk s pid acc ga with
    | .error _ => s
    | .ok p =>
      let e : Tlb := ⟨core, pid, ga / 4096, p.out - ga % 4096, p.r, p.w, p.x⟩
      let keep : Nat → Tlb → Bool := fun own q => !(q.own = own && q.pid = pid && q.page = e.page)
      let l1 := s.tlb1.filter (keep core)
      let l2 := s.tlb2.filter (keep (coreSlice core))
      let n1 := (l1.filter (fun q => q.own = core)).length
      let n2 := (l2.filter (fun q => q.own = coreSlice core)).length
      let d1 := if 1024 ≤ n1 then l1.reverse.eraseP (fun q => q.own = core) |>.reverse else l1
      let d2 := if 2048 ≤ n2 then l2.reverse.eraseP (fun q => q.own = coreSlice core) |>.reverse else l2
      { s with tlb1 := e :: d1, tlb2 := { e with own := coreSlice core } :: d2 }

/-- A door range covers the address: live or retired (16, R322-R323). -/
def isDoor (s : State) (a n : Nat) : Bool :=
  s.doors.any (fun d => d.base < a + n && a < d.base + 16 * d.count)

/-- Where a fabric address lies (04, R81-R83). -/
def classify (s : State) (pid fa : Nat) : Except (Cause × Bool) (PKind × Nat) :=
  let pkg := fa / 2 ^ 52
  let loc := fa % 2 ^ 52
  if pkg = pkgNo s then
    if loc < 0xC000000000 then .ok (.dev (homeSlice loc), loc)
    else if 2 ^ 51 ≤ loc then .ok (.host (hostSlice loc), loc)
    else .error (.busErr, false)
  else if !featOn s pid 1 then .error (.busErr, false)
  else if loc < 0xC000000000 then .ok (.peer pkg, loc)
  else .error (.busErr, false)

/-- Where an access of a group goes, or its fault: stash window, allotment, translation, region, doors (04, R80-R83;
06, R157; 16, R323). The flag is the frame's STG. -/
def locate (s : State) (g : Group) (ga n : Nat) (acc : Acc) : Except (Cause × Bool) (PKind × Nat) :=
  match addrFault ga with
  | some c => .error (c, false)
  | none =>
    if inStashWindow ga then
      let off := ga - stashWindow
      if inAllot s g off n then .ok (.stash, off) else .error (.stashRange, false)
    else match xlate s g.core g.pid ga acc with
      | .error e => .error e
      | .ok fa =>
        match classify s g.pid fa with
        | .error e => .error e
        | .ok (.dev sl, a) => if isDoor s a n then .error (.prot, false) else .ok (.dev sl, a)
        | .ok (.host sl, a) => if acc = .atomic then .error (.busErr, false) else .ok (.host sl, a)
        | .ok r => .ok r

/-- The path an access of a kind counts on (05, R107). -/
def pathOfKind (k : PKind) : BitVec 4 :=
  match k with
  | .dev _ => 1#4
  | .host _ => 1#4
  | .stash => 2#4
  | .peer _ => 4#4
  | .ticket _ _ => 8#4
  | .nowhere => 0#4

end Sys2Proof.Machine
end

