-- ==== Sys2Proof/Machine/Image.lean ====
section
/-!
DEFINITION. Cause codes (19, R354-R355) and the canonical save image (19, R360-R361, R370). The places inside the
Header, Paths, Exported, Matrix and Park sections are the model's (log 14).
-/

namespace Sys2Proof.Machine

/-- The code of a cause (19, R355). -/
def causeCode : Cause → Nat
  | .illEnc => 0x001 | .illLane => 0x002 | .illOpnd => 0x003 | .illHdr => 0x004 | .illRnd => 0x005
  | .illFmt => 0x006 | .priv => 0x007 | .clauseHaz => 0x008 | .divStack => 0x009 | .align => 0x00A
  | .tileNoalloc => 0x00B | .tileShape => 0x00C | .qregBad => 0x00D | .streamRights => 0x00E | .brkpt => 0x010
  | .pfRead => 0x100 | .pfWrite => 0x101 | .prot => 0x102 | .busErr => 0x103 | .stashRange => 0x104
  | .pfFetch => 0x105 | .specOvf => 0x106 | .tkStale => 0x200 | .tkForeign => 0x202 | .barOvf => 0x210
  | .qBaddesc => 0x220 | .nbCycle => 0x280 | .nbEdge => 0x281 | .stepDiv => 0x282 | .stepClosed => 0x283
  | .launchBad => 0x284 | .marginFull => 0x285 | .launchNoroom => 0x286 | .workCancelled => 0x287
  | .fabTimeout => 0x300 | .fabPeerReset => 0x301 | .fabUnreach => 0x302 | .fredClosed => 0x303
  | .fredNoslot => 0x304 | .matFmt => 0x340 | .user n => 0x380 + n.toNat | .dbgStop => 0x3C0 | .watch => 0x3C1
  | .sliceForced => 0x3C2 | .errCorrected => 0x3C3 | .sealStale => 0x3C4 | .sealPeer => 0x3C5
  | .sealShape => 0x3C6 | .trapNested => 0x3C7 | .unitErr => 0x3C8

/-- The causes but USER_n (19, R355). -/
def allCauses : List Cause :=
  [.illEnc, .illLane, .illOpnd, .illHdr, .illRnd, .illFmt, .priv, .clauseHaz, .divStack, .align, .tileNoalloc,
   .tileShape, .qregBad, .streamRights, .brkpt, .pfRead, .pfWrite, .prot, .busErr, .stashRange, .pfFetch, .specOvf,
   .tkStale, .tkForeign, .barOvf, .qBaddesc, .nbCycle, .nbEdge, .stepDiv, .stepClosed, .launchBad, .marginFull,
   .launchNoroom, .workCancelled, .fabTimeout, .fabPeerReset, .fabUnreach, .fredClosed, .fredNoslot, .matFmt, .dbgStop,
   .watch, .sliceForced, .errCorrected, .sealStale, .sealPeer, .sealShape, .trapNested, .unitErr]

/-- The cause of a code, if one has it (19, R355). -/
def codeCause (n : Nat) : Option Cause :=
  if 0x380 ≤ n && n < 0x3C0 then some (.user (BitVec.ofNat 6 (n - 0x380))) else allCauses.find? (fun c => causeCode c = n)

/-- The kind of a cause (19, R354-R355). -/
def causeKind : Cause → CauseKind
  | .pfRead => .serviceable
  | .pfWrite => .serviceable
  | .pfFetch => .serviceable
  | .nbCycle => .refusal
  | .launchBad => .refusal
  | .marginFull => .refusal
  | .launchNoroom => .refusal
  | .workCancelled => .refusal
  | .sealStale => .refusal
  | .sealPeer => .refusal
  | .sealShape => .refusal
  | .sliceForced => .notice
  | .errCorrected => .notice
  | .unitErr => .notice
  | _ => .trap

def accCode : Acc → Nat
  | .read => 0
  | .write => 1
  | .fetch => 2
  | .atomic => 3

def b2n (b : Bool) : Nat := if b then 1 else 0

/-- CAUSEW (19, R360). -/
def causeWord (f : Frame) : Nat :=
  causeCode f.cause + 1024 * b2n f.tk + 2048 * b2n f.stg + 4096 * accCode f.acc + 16384 * b2n f.slot
    + 32768 * b2n f.lane.isSome + 65536 * (f.lane.getD 0 % 32) + 2 ^ 21 * b2n f.dfr.isSome
    + 2 ^ 22 * (match f.dfr with
      | some c => causeCode c
      | none => 0)

/-- A place in a byte list. -/
def imgRead (img : List Byte) (off n : Nat) : Nat := leNat ((img.drop off).take n)

def zeros (n : Nat) : List Byte := List.replicate n 0#8

/-- Fills a list up with zeros. -/
def padTo (n : Nat) (l : List Byte) : List Byte := l ++ zeros (n - l.length)

/-- The trap frame (19, R360). -/
def frameBytes (g : Group) (f : Frame) : List Byte :=
  leBytes 4 (causeWord f) ++ leBytes 4 g.key.gid ++ leBytes 4 g.key.launch
    ++ leBytes 4 g.p0.mask.toNat ++ leBytes 4 g.p1.mask.toNat ++ leBytes 1 g.p0.depth ++ leBytes 1 g.p1.depth
    ++ leBytes 1 (b2n g.p0.occ + 2 * b2n g.p1.occ) ++ leBytes 1 g.replay.length
    ++ leBytes 8 g.p0.pc.toNat ++ leBytes 8 g.p1.pc.toNat ++ leBytes 8 f.addr ++ leBytes 8 f.time ++ leBytes 8 f.info

/-- The group as it stood when it stopped with a frame: a continuation has parked its paths (19, R366). -/
def frameView (g : Group) (f : Frame) : Group :=
  match g.park with
  | some p => if p.frame = f then { g with p0 := p.p0, p1 := p.p1, replay := p.replay } else g
  | none => g

/-- A clause-queue entry: address, next-instruction index, enqueued mask (19, R370). -/
def centBytes (c : CEnt) : List Byte := leBytes 7 c.addr ++ leBytes 1 c.idx ++ leBytes 4 c.mask.toNat

/-- A path record of 128 bytes (19, R370). -/
def pathBytes (p : Path) : List Byte :=
  padTo 128 (leBytes 8 p.pc.toNat ++ leBytes 8 p.gfmt.toNat ++ leBytes 4 p.gmode.toNat ++ leBytes 4 p.mask.toNat
    ++ leBytes 1 p.depth ++ leBytes 1 (b2n p.occ + 2 * b2n p.waiting) ++ leBytes 1 p.rot ++ leBytes 1 p.cq.length
    ++ (p.cq.map centBytes).flatten)

/-- A wait in twelve bytes: its kind, and what it waits for (log 14). -/
def waitWord (w : Wait) : Nat × Nat :=
  match w with
  | .sreg r peer => (1, r.toNat + 64 * b2n peer)
  | .flags m => (2, m.toNat)
  | .counter p n => (3, p + 256 * n)
  | .earlier => (4, 0)
  | .drain => (5, 0)
  | .fence => (6, 0)
  | .ticket c n => (7, c + 256 * n)
  | .fetching sl i => (8, sl + 65536 * i)
  | .queueEmpty n => (9, n)
  | .queueFull n => (10, n)
  | .elements n => (11, n)
  | .stashLine l => (12, l)
  | .mappedFill a peer => (13, a + 2 ^ 64 * b2n peer)
  | .barrier o ph => (14, o + 2 ^ 20 * b2n ph)
  | .stepClose t => (15, b2n t)
  | .stepEntry => (16, 0)
  | .tag c r st l => (17, r + 8 * (l % 32) + 256 * (c % 2 ^ 32) + 2 ^ 40 * st)
  | .page pid pg a => (18, pid + 2 ^ 16 * accCode a + 2 ^ 24 * pg)
  | .queueSlot => (19, 0)
  | .fenced => (20, 0)
  | .slice => (21, 0)
  | .written => (22, 0)
  | .told => (23, 0)
  | .join => (24, 0)
  | .otherPath => (25, 0)
  | .launchSlot => (26, 0)
  | .record lvl h => (27, lvl + 256 * h)
  | .message => (28, 0)
  | .reduction => (29, 0)
  | .capture => (30, 0)
  | .room => (31, 0)
  | .cont => (32, 0)
  | .retry => (33, 0)
  | .yield => (34, 0)
  | .cutHold => (35, 0)

/-- A wake condition as the Header holds it (19, R370; log 14): 0 where the stream does not wait. -/
def waitBytes (w : Option Wait) : List Byte :=
  match w with
  | none => zeros 12
  | some x => leBytes 1 (waitWord x).1 ++ leBytes 11 (waitWord x).2

/-- The wake conditions of a slot: of its scalar stream and of its head clause. -/
def wakeBytes (p : Path) : List Byte := waitBytes p.wait ++ waitBytes (p.cq.head?.bind CEnt.wait)

def bindBytes (b : Option QBind) : List Byte :=
  match b with
  | none => zeros 16
  | some q => leBytes 8 q.desc ++ leBytes 1 (1 + 2 * q.esz) ++ leBytes 1 q.popb.length ++ leBytes 1 q.pushb.length
      ++ zeros 5

/-- The Header section (log 14). -/
def headerBytes (g : Group) (counts : List Nat) : List Byte :=
  padTo 192 (leBytes 8 g.step ++ leBytes 1 (b2n g.isOpen) ++ leBytes 1 (b2n g.p0.wait.isSome)
    ++ leBytes 1 (b2n g.p1.wait.isSome) ++ leBytes 1 (b2n g.super)
    ++ (g.flags.map (fun n => BitVec.ofNat 8 n)) ++ (counts.map (fun n => BitVec.ofNat 8 n))
    ++ leBytes 4 g.spillCnt
    ++ (match g.spw with
      | some (w, sl) => leBytes 1 1 ++ leBytes 1 w ++ leBytes 1 sl
      | none => zeros 3) ++ zeros 5
    ++ leBytes 8 g.cont.toNat ++ leBytes 8 (b2n g.park.isSome)
    ++ leBytes 8 g.argp.toNat ++ leBytes 4 g.stashbase.toNat ++ leBytes 4 g.spill.toNat ++ leBytes 4 (g.d.spill / 64)
    ++ leBytes 4 g.q2.length ++ (g.qb.map bindBytes).flatten ++ wakeBytes g.p0 ++ wakeBytes g.p1)

/-- A step tag; a copy without one holds 2^63 (log 14). -/
def tagNat (t : Option Int) : Nat :=
  match t with
  | some i => bitsOfInt 64 i
  | none => 2 ^ 63

def natTag (n : Nat) : Option Int := if n = 2 ^ 63 then none else some (intOf true 64 n)

def exportBytes (g : Group) : List Byte :=
  ((List.range g.width).map (fun l => ((List.range 8).map (fun r =>
    let i := r * g.width + l
    leBytes 4 (g.xw.getD i 0#32).toNat ++ leBytes 4 (g.x0.getD i 0#32).toNat ++ leBytes 4 (g.x1.getD i 0#32).toNat
      ++ zeros 4 ++ leBytes 8 (tagNat (g.t0.getD i none)) ++ leBytes 8 (tagNat (g.t1.getD i none)))).flatten)).flatten

def laneBytes (g : Group) : List Byte := (g.v.map (fun x => leBytes 4 x.toNat)).flatten

def streamBytes (g : Group) : List Byte :=
  ((List.range g.width).map (fun l => leBytes 8 (g.seed.getD l 0#64).toNat ++ leBytes 8 (g.draw.getD l 0#64).toNat
    ++ leBytes 8 (g.rnd.getD l 0#64).toNat ++ zeros 8)).flatten

def elemBytes (n : Nat) (l : List Nat) : List Byte := padTo (8 * n) (l.map (leBytes 8)).flatten

def queueBytes (g : Group) : List Byte :=
  (g.qb.map (fun b => match b with
    | some q => elemBytes 64 q.popb ++ elemBytes 64 q.pushb
    | none => zeros 1024)).flatten

def accElem (g : Group) (a i j : Nat) : BitVec 48 := assocD 0#48 g.acc (a * 1024 + i * 32 + j)

def matrixBytes (g : Group) : List Byte :=
  (g.tc.map (fun x => leBytes 8 x.toNat)).flatten ++ elemBytes 256 (g.q2.map BitVec.toNat)
    ++ (List.range (1024 * g.d.tile)).map (fun a => cellGet g.tile a)
    ++ ((List.range (1024 * g.d.accs)).map (fun a => leBytes 6 (assocD 0#48 g.acc a).toNat)).flatten

/-- A replay entry (19, R361). -/
def replayBytes (w : Nat) (o : Op) : List Byte :=
  let word := (encode o.instr).getD []
  padTo 12 word ++ zeros 4 ++ leBytes 1 (b2n (word.length != 4) + 2 * b2n o.valid) ++ leBytes 1 (b2n o.slot)
    ++ leBytes 1 o.vals.length ++ zeros 1 ++ leBytes 4 o.mask.toNat ++ zeros 8
    ++ (o.vals.map (fun vs => ((List.range w).map (fun l => leBytes 8 (vs.getD l 0))).flatten)).flatten

def parkBytes (g : Group) : List Byte :=
  match g.park with
  | none => zeros 832
  | some p =>
    padTo 832 (frameBytes { g with p0 := p.p0, p1 := p.p1, replay := p.replay } p.frame ++ pathBytes p.p0
      ++ pathBytes p.p1 ++ ((p.s.drop 1).map (fun x => leBytes 8 x.toNat)).flatten)
      ++ (p.replay.map (replayBytes g.width)).flatten

/-- Rounds a section up to a multiple of 64 (19, R370). -/
def sec (l : List Byte) : List Byte := padTo ((l.length + 63) / 64 * 64) l

/-- The save image (19, R370). -/
def imageOf (g : Group) (f : Frame) (counts : List Nat) : List Byte :=
  sec (frameBytes g f) ++ sec (headerBytes g counts) ++ sec (pathBytes g.p0 ++ pathBytes g.p1)
    ++ sec ((g.s.map (fun x => leBytes 8 x.toNat)).flatten) ++ sec ((g.k.map (fun x => leBytes 4 x.toNat)).flatten)
    ++ sec (laneBytes g) ++ sec (exportBytes g) ++ sec (streamBytes g) ++ sec (queueBytes g) ++ sec (matrixBytes g)
    ++ sec (parkBytes g) ++ sec ((g.replay.map (replayBytes g.width)).flatten)

/-! Where the sections start. -/

def up64 (n : Nat) : Nat := (n + 63) / 64 * 64

def offPaths : Nat := 256
def offScalar : Nat := 512
def offPred : Nat := 1024
def offLane : Nat := 1088
def offExport (g : Group) : Nat := offLane + up64 (4 * g.d.regs * g.width)
def offStreams (g : Group) : Nat := offExport g + up64 (256 * g.width)
def offQueues (g : Group) : Nat := offStreams g + up64 (32 * g.width)
def offMatrix (g : Group) : Nat := offQueues g + 4096
def offPark (g : Group) : Nat := offMatrix g + up64 (2176 + 1024 * g.d.tile + 6144 * g.d.accs)

/-- The fields of GMODE (02, R46). -/
def gmodeMask : W32 := 0x00001F1F#32

/-- The fields of GFMT (02, R48). -/
def gfmtMask : W64 := 0x00000003FFFFFFFF#64

/-- The fields of a tile control register (10, R240). -/
def tcMask : W64 := 0x0000FFFFFFF0FFFF#64

/-- GMODE as it comes back from memory: reserved fields are ignored (19, R368). RM never holds 0 or 7 (02, R46); the spec does
not say what a 0 or 7 in an image or a spill entry becomes, and the model takes RM's reset value 1 (DESIGN CHOICE, log 58). -/
def gmodeIn (v : W32) : W32 :=
  let x := v &&& gmodeMask
  if x.extractLsb' 0 3 = 0#3 || x.extractLsb' 0 3 = 7#3 then (x &&& ~~~7#32) ||| 1#32 else x

/-- An entry of a clause queue as the image gives it, mask bits above the width ignored (19, R368). A clause that has issued before keeps the words of its decode while its
address stands: it is decoded once, before any instruction of it issues (01, R25). -/
def loadEnt (img : List Byte) (off lanes : Nat) (old : CEnt) : CEnt :=
  let a := imgRead img off 7
  let kept := old.id != 0 && old.addr = a
  { addr := a, idx := imgRead img (off + 7) 1, mask := BitVec.ofNat 32 (imgRead img (off + 8) 4 % 2 ^ lanes)
    hdr := if kept then old.hdr else none, code := if kept then old.code else [], id := old.id }

/-- A path slot as its record gives it; mask bits above the width and reserved fields are ignored (19, R368). -/
def loadPath (img : List Byte) (off : Nat) (p : Path) (lanes : Nat) : Path :=
  let n := imgRead img (off + 27) 1
  { p with
    pc := BitVec.ofNat 64 (imgRead img off 8)
    gfmt := BitVec.ofNat 64 (imgRead img (off + 8) 8) &&& gfmtMask
    gmode := gmodeIn (BitVec.ofNat 32 (imgRead img (off + 16) 4))
    mask := BitVec.ofNat 32 (imgRead img (off + 20) 4 % 2 ^ lanes)
    depth := imgRead img (off + 24) 1
    occ := imgRead img (off + 25) 1 % 2 = 1
    waiting := imgRead img (off + 25) 1 / 2 % 2 = 1
    rot := imgRead img (off + 26) 1
    wait := none
    exempt := false
    cq := (List.range (min n 8)).map (fun i =>
      loadEnt img (off + 28 + 12 * i) lanes (p.cq.getD i { addr := 0, mask := 0#32 })) }

def readList {α : Type} (n : Nat) (f : Nat → α) : List α := (List.range n).map f

/-- The replay queue, its V bits as the image has them (19, R361, R368). -/
def loadReplay (img : List Byte) (w : Nat) : Nat → List Op → List Op
  | _, [] => []
  | off, o :: os =>
    { o with valid := imgRead img (off + 16) 1 / 2 % 2 = 1 }
      :: loadReplay img w (off + (replayBytes w o).length) os

/-- The deferred cause of the frame as the image now has it: DV and the cause take effect when written; a code that no cause
has is never raised (19, R355, R360, R368). -/
def deferredOf (img : List Byte) : Option Cause :=
  if imgRead img 0 4 / 2 ^ 21 % 2 = 1 then codeCause (imgRead img 0 4 / 2 ^ 22) else none

/-- What is parked, as the park area at `off` now has it (19, R366-R369). -/
def loadPark (g : Group) (img : List Byte) (off : Nat) (p : Park) : Park :=
  { p with
    frame := { p.frame with dfr := deferredOf (img.drop off) }
    p0 := loadPath img (off + 64) p.p0 g.lanes
    p1 := loadPath img (off + 192) p.p1 g.lanes
    s := readList 64 (fun i => if i = 0 then 0#64 else BitVec.ofNat 64 (imgRead img (off + 320 + 8 * (i - 1)) 8))
    replay := loadReplay img g.width (off + 832) p.replay }

/-- The binding of q`i+4` and its buffers, as the image has them (19, R370). -/
def loadBind (g : Group) (img : List Byte) (i : Nat) : Option QBind :=
  let at_ := 64 + 80 + 16 * i
  if imgRead img (at_ + 8) 1 % 2 = 0 then none
  else some { desc := imgRead img at_ 8, esz := imgRead img (at_ + 8) 1 / 2, ga := (g.qb.getD i none).elim 0 QBind.ga
              popb := readList (min 64 (imgRead img (at_ + 9) 1)) (fun j => imgRead img (offQueues g + 1024 * i + 8 * j) 8)
              pushb := readList (min 64 (imgRead img (at_ + 10) 1)) (fun j => imgRead img (offQueues g + 1024 * i + 512 + 8 * j) 8) }

/-- The group's state from its image, as it now stands (19, R368-R369). -/
def loadImage (g : Group) (img : List Byte) : Group :=
  let nP := (g.park.elim 0 (fun p => (p.replay.map (fun o => (replayBytes g.width o).length)).sum))
  let offReplay := offPark g + up64 (832 + nP)
  let ex : Nat → Nat → Nat := fun l r => offExport g + 256 * l + 32 * r
  let byLane {α : Type} (f : Nat → Nat → α) : List α :=
    readList (8 * g.width) (fun i => f (i % g.width) (i / g.width))
  let q2n := min 256 (imgRead img (64 + 76) 4)
  { g with
    step := imgRead img 64 8
    isOpen := imgRead img 72 1 % 2 = 1
    flags := readList 12 (fun i => imgRead img (76 + i) 1)
    spillCnt := imgRead img (64 + 28) 4
    spw := if imgRead img (64 + 32) 1 % 2 = 1 then some (imgRead img (64 + 33) 1 % 16, imgRead img (64 + 34) 1 % 8)
      else none
    cont := BitVec.ofNat 64 (imgRead img (64 + 40) 8)
    argp := BitVec.ofNat 64 (imgRead img (64 + 56) 8)
    stashbase := BitVec.ofNat 20 (imgRead img (64 + 64) 4)
    spill := BitVec.ofNat 20 (imgRead img (64 + 68) 4)
    p0 := loadPath img offPaths g.p0 g.lanes
    p1 := loadPath img (offPaths + 128) g.p1 g.lanes
    s := readList 64 (fun i => if i = 0 then 0#64 else BitVec.ofNat 64 (imgRead img (offScalar + 8 * i) 8))
    k := readList 8 (fun i => if i = 0 then 0xFFFFFFFF#32 else BitVec.ofNat 32 (imgRead img (offPred + 4 * i) 4))
    v := readList (g.d.regs * g.width) (fun i => BitVec.ofNat 32 (imgRead img (offLane + 4 * i) 4))
    xw := byLane (fun l r => BitVec.ofNat 32 (imgRead img (ex l r) 4))
    x0 := byLane (fun l r => BitVec.ofNat 32 (imgRead img (ex l r + 4) 4))
    x1 := byLane (fun l r => BitVec.ofNat 32 (imgRead img (ex l r + 8) 4))
    t0 := byLane (fun l r => natTag (imgRead img (ex l r + 16) 8))
    t1 := byLane (fun l r => natTag (imgRead img (ex l r + 24) 8))
    seed := readList g.width (fun l => BitVec.ofNat 64 (imgRead img (offStreams g + 32 * l) 8))
    draw := readList g.width (fun l => BitVec.ofNat 64 (imgRead img (offStreams g + 32 * l + 8) 8))
    rnd := readList g.width (fun l => BitVec.ofNat 64 (imgRead img (offStreams g + 32 * l + 16) 8))
    qb := readList 4 (loadBind g img)
    park := g.park.map (loadPark g img (offPark g))
    tc := readList 16 (fun i => BitVec.ofNat 64 (imgRead img (offMatrix g + 8 * i) 8) &&& tcMask)
    q2 := readList q2n (fun i => BitVec.ofNat 64 (imgRead img (offMatrix g + 128 + 8 * i) 8))
    tile := (List.range (1024 * g.d.tile)).filterMap (fun i =>
      let b : Byte := BitVec.ofNat 8 (imgRead img (offMatrix g + 2176 + i) 1)
      if b = 0#8 then none else some (i, b))
    acc := readList (1024 * g.d.accs) (fun i =>
      (i, BitVec.ofNat 48 (imgRead img (offMatrix g + 2176 + 1024 * g.d.tile + 6 * i) 6)))
    replay := loadReplay img g.width offReplay g.replay }

/-! ## The backing store (07, R200; 17, R330) -/

/-- The largest number of groups in a parcel of the group's launch (17, R330). -/
def groupsMax (s : State) (g : Group) : Nat := (parcelOf s (parcelKey g)).elim 0 Parcel.gmax

/-- The descriptor that lays out the allotment: the launch's, for a handler group too (17, R330). -/
def layoutDesc (s : State) (g : Group) : Desc := (launchOf s g.key.launch).elim g.d Launch.d

/-- An image in the stash, or one in memory. -/
def imageIn (inStash : Bool) (i : Option (Bool × Nat × Nat)) : List (Nat × Nat) :=
  match i with
  | some (st, a, n) => if st = inStash then [(a, n)] else []
  | none => []

/-- Images now held for groups of the same parcel, in the stash or in memory: each group's last one, but for the group's own, and
those that supervisor state is to reload. -/
def imagesOf (s : State) (g : Group) (inStash : Bool) : List (Nat × Nat) :=
  ((groups s).map (fun h =>
    if h.key.launch = g.key.launch && (!inStash || h.parcel = g.parcel) then
      (if h.key = g.key then [] else imageIn inStash h.image) ++ imageIn inStash h.supImage
    else [])).flatten

/-- The lowest free place for `n` bytes in `lo .. hi`, after the ends of what is there. -/
def firstFit (used : List (Nat × Nat)) (lo hi n : Nat) : Option Nat :=
  (lo :: used.map (fun u => up64 (u.1 + u.2))).find? (fun a =>
    lo ≤ a && a + n ≤ hi && used.all (fun u => a + n ≤ u.1 || u.1 + u.2 ≤ a))

/-- Where an image of `n` bytes goes: the stash allotment first, then the memory backing area (17, R330). -/
def imageRoom (s : State) (g : Group) (n : Nat) : Option (Bool × Nat) :=
  let (b, z) := allotOf s g
  let d := layoutDesc s g
  let gm := groupsMax s g
  let lo := up64 (b + d.hq * 512 + gm * d.frame + gm * d.spill)
  match firstFit (imagesOf s g true) lo (b + z) n with
  | some a => some (true, a)
  | none =>
    match firstFit (imagesOf s g false) g.d.back (g.d.back + g.d.bsize) n with
    | some a => if g.d.bsize = 0 then none else some (false, a)
    | none => none

/-- Writes to the memory backing area, 64 bytes at a time, through the partition's translation; published. -/
def backWrite (s : State) (g : Group) (ga : Nat) : Nat → List Byte → State
  | 0, _ => s
  | n + 1, bs =>
    let s' := match xlate s g.core g.pid ga .write with
      | .ok fa => writeNow s (fa % 2 ^ 52) (bs.take 64)
      | .error _ => s
    backWrite s' g (ga + 64) n (bs.drop 64)

def backRead (s : State) (g : Group) (ga : Nat) : Nat → List Byte
  | 0 => []
  | n + 1 =>
    (match xlate s g.core g.pid ga .read with
      | .ok fa => (List.range 64).map (fun i => wideByte s (fa % 2 ^ 52 + i))
      | .error _ => zeros 64) ++ backRead s g (ga + 64) n

/-- The bytes of a group's image as they now stand. -/
def imageBytes (s : State) (g : Group) : Option (List Byte) :=
  match g.image with
  | none => none
  | some (true, a, n) => some (stashBytes s g.core a n)
  | some (false, a, n) => some (backRead s g a ((n + 63) / 64))

/-- The path counters as the image records them. -/
def counters (s : State) (k : GKey) : List Nat := (List.range 4).map (pathCount s k)

/-- Writes the group's image to its backing store; without room the group keeps its state in the model's record
only (log 14). -/
def saveImage (s : State) (g : Group) (f : Frame) : State :=
  let img := imageOf g f (counters s g.key)
  match imageRoom s g img.length with
  | none => setG s { g with image := none }
  | some (true, a) => setG (stashWrite s g.core a img) { g with image := some (true, a, img.length) }
  | some (false, a) =>
    setG (backWrite s g a ((img.length + 63) / 64) img) { g with image := some (false, a, img.length) }

/-- The group as it was when it entered supervisor state, in the model's record: with the image that it entered with (19, R364, R368). -/
def leaveSuper (g : Group) : Group :=
  match g.sup with
  | some k => { g with p0 := k.p0, p1 := k.p1, s := k.s, replay := k.replay, spwGen := k.gen, super := false, sup := none
                       image := g.supImage, supImage := none }
  | none => g

/-- Reloads the group from its image, which is then given up (19, R368), but for one whose park area a continuation still holds. -/
def reload (s : State) (g : Group) : Group :=
  match imageBytes s g with
  | some img => { loadImage g img with image := if g.park.isSome then g.image else none }
  | none => { g with p0 := { g.p0 with wait := none, exempt := false }, p1 := { g.p1 with wait := none, exempt := false } }

end Sys2Proof.Machine
end

