-- ==== Sys2Proof/Machine/PeerNote.lean ====
section
/-!
DEFINITION. What a package tells the peers' slices of its stores there, and the stores of a group that is removed from its core (12,
R263; 14, R287; 19, R371; log 48).
-/

namespace Sys2Proof.Machine

/-- Adds an operation under a fresh identifier. -/
def addOp (s : State) (o : Op) : State :=
  { s with ops := s.ops ++ [{ o with id := s.nextId }], nextId := s.nextId + 1 }

/-- What a package tells a peer's slice of its stores there: in a packet of KIND 1 and size 0. -/
inductive Note where
  | publish (scope : Nat)                -- the group's stores
  | mark (win n name : Nat)              -- slots below n of a window take a name of their own, the others are discarded
  | commit (scope name : Nat)            -- the words of a marked window are published
  | discard                              -- the launch's tagged words go
  deriving DecidableEq, Repr

def noteNat (x : Note) : Nat :=
  match x with
  | .publish sc => 8 * sc
  | .mark w n name => 1 + 8 * n + 2 ^ 16 * w + 2 ^ 96 * name
  | .commit sc name => 2 + 8 * sc + 2 ^ 96 * name
  | .discard => 3

def noteOf (x : Nat) : Note :=
  match x % 8 with
  | 0 => .publish (x / 8 % 2 ^ 13)
  | 1 => .mark (x / 2 ^ 16 % 2 ^ 80) (x / 8 % 2 ^ 13) (x / 2 ^ 96)
  | 2 => .commit (x / 8 % 2 ^ 13) (x / 2 ^ 96)
  | _ => .discard

/-- An address of a slice. -/
def sliceBase (sl : Nat) : Nat := 256 * (12 * (sl % 64) + 3 * (sl / 64))

/-- The peers' slices that hold what `p` picks. -/
def awayAt (s : State) (p : Away → Bool) : List (Nat × Nat) :=
  (s.away.filter p).foldl (fun l a => if l.contains (a.pkg, a.slice) then l else l ++ [(a.pkg, a.slice)]) []

def notes (x : Note) (ts : List (Nat × Nat)) : List Part :=
  ts.map (fun t => { fa := sliceBase t.2, kind := .peer t.1, wr := true, data := noteNat x })

/-- A store operation of a group that no instruction of it makes. -/
def ownStore (g : Group) (ps : List Part) : Op :=
  { id := 0, g := g.key, slot := false, tag := 0, core := g.core, pid := g.pid, cls := .store, instr := .nop, parts := ps }

/-- The peers' slices that hold what the group stored, and those named, are told to publish it. -/
def tellAway (s : State) (g : Group) (more : List (Nat × Nat)) : State :=
  match notes (.publish 5) (more.foldl (fun l x => if l.contains x then l else l ++ [x])
      (awayAt s (fun a => a.g = g.key && a.win = none))) with
  | [] => s
  | ps => addOp { s with away := s.away.filter (fun a => !(a.g = g.key && a.win = none)) } (ownStore g ps)

/-- Forced publication of the stores that `own` picks; the host's go on to it (12, R262; 19, R371). -/
def forceOut (s : State) (own : Unpub → Bool) : State := tickP (passHost (publishWhere s 5 own) own)

/-- A group is removed from its core: its unpublished ordinary stores, which its image does not hold, are published (19, R371; log 81). -/
def leaveUnpub (s : State) (g : Group) : State :=
  tellAway (forceOut s (fun u => u.core = g.core && u.writers.contains g.key)) g []

end Sys2Proof.Machine
end

