-- ==== Sys2Proof/Machine/Ops.lean ====
section
/-!
DEFINITION. The shared operations: counters and records of observation, the spill stack, flags of numbers, page
requests, taking a trap and coming back from one (03, 18, 19, 21).
-/

namespace Sys2Proof.Machine

/-! ## Event counters and sketches (21, R393-R394, R401) -/

def evselByte (p : Prt) (j : Nat) : Nat := (p.evsel.toNat / 2 ^ (8 * j)) % 256

def satAdd (w lim : Nat) (x y : Nat) : BitVec w := BitVec.ofNat w (min lim (x + y))

/-- Adds weight `w` of event `evt` to the partition's event counters that select it. -/
def countEvc (s : State) (pid evt w : Nat) : State :=
  let p := prtOf s pid
  if (List.range 8).any (fun j => evselByte p j = evt) then
    setPrt s { p with evc := (List.range 8).map (fun j =>
      let c := p.evc.getD j 0#64
      if evselByte p j = evt then satAdd 64 (2 ^ 63 - 1) c.toNat w else c) }
  else s

def sketchSeed (i : Nat) : W32 :=
  if i = 0 then 0x00000000#32 else if i = 1 then 0x5BD1E995#32 else if i = 2 then 0x27D4EB2F#32 else 0x165667B1#32

/-- The column of a key in a row (21, R393). -/
def sketchCol (i : Nat) (y : W32) : Nat := (((y ^^^ sketchSeed i) * 0x9E3779B1#32) >>> 22).toNat

def sketchEmpty : List W32 := List.replicate 4096 0#32

/-- Adds weight `w` to a core's sketch under key `y`. -/
def sketchAdd (r : CoreRec) (y : W32) (w : Nat) : CoreRec :=
  let c := if r.sketch = [] then sketchEmpty else r.sketch
  let at_ : Nat → Nat := fun i => i * 1024 + sketchCol i y
  let ovr := (List.range 4).any (fun i => 2 ^ 32 ≤ (c.getD (at_ i) 0#32).toNat + w)
  { r with
    sketch := (List.range 4).foldl (fun l i => l.set (at_ i) (satAdd 32 (2 ^ 32 - 1) (l.getD (at_ i) 0#32).toNat w)) c
    sketchN := r.sketchN + w
    sketchSat := r.sketchSat || ovr }

/-- An event of a group, with its key under KEYM 0; under KEYM 1 the key is ENTRY of the launch, a handler group's too (21, R394). -/
def noteEvent (s : State) (g : Group) (evt : Nat) (key : W64) (w : Nat) : State :=
  let s' := countEvc s g.pid evt w
  let r := coreOf s' g.core
  if r.skctl.getLsbD 0 && (r.skctl.extractLsb' 14 10).toNat = g.pid && (r.skctl.extractLsb' 6 8).toNat = evt then
    let y := if r.skctl.getLsbD 5 then (layoutDesc s g).entry.extractLsb' 2 32 else key.extractLsb' 2 32
    setCore s' (sketchAdd r y w)
  else s'

/-- A part that is a request of the core (21, R396). -/
def leavesCore (p : Part) : Bool :=
  match p.kind with
  | .dev _ => true
  | .host _ => true
  | .peer _ => true
  | _ => false

/-- An access that a core makes for a group, or for none: one that its L1 TLB cannot translate is counted, and the walk installs the
translation it finds (19, R375-R376; 21, R394). One whose walk faults is counted where its fault is delivered (log 97). -/
def noteMiss (s : State) (g : Option Group) (core pid ga : Nat) (acc : Acc) (pc : W64) : State :=
  if s.tlb1.any (fun e => e.own = core && e.pid = pid && e.page = ga / 4096 && permOk acc e.r e.w e.x) then s
  else match walk s pid acc ga with
    | .error _ => s
    | .ok _ => installTlb (match g with
      | some h => noteEvent s h 4 pc 1
      | none => countEvc s pid 4 1) core pid ga acc

/-- The misses of an operation's requests, keyed by its instruction; the streamer's have no group. -/
def opMisses (s : State) (o : Op) : State :=
  let g := if o.cls = .engine then none else getG s o.g
  o.parts.foldl (fun t p => if leavesCore p then
    noteMiss t g o.core o.pid p.ga (if o.cls = .atomic then .atomic else if p.wr then .write else .read) (BitVec.ofNat 64 o.pc) else t) s

/-! ## The trace ring (21, R391-R392) -/

def trcOn (p : Prt) : Bool := p.trcctl.getLsbD 0

/-- The blocks of checkpoints that hold some bytes are copied now: a write of the device itself, which nothing can hold, is performed
behind the copy (20, R384; log 102). A block with a poisoned word is left to the copier. -/
def copiedFirst (s : State) (a n : Nat) : State :=
  let hit : Nat × List Nat → Bool := fun b => b.2.any (fun pg => pg < a + n && a < pg + 4096 && (poisoned s pg 4096).isNone)
  if s.svc.ckpts.all (fun c => c.stage != 1 || !c.pending.any hit) then s
  else { s with svc := { s.svc with ckpts := s.svc.ckpts.map (fun c => if c.stage != 1 then c else
      let left := c.pending.filter (fun b => !hit b)
      { c with pending := left, held := c.held.filter (fun x => left.any (fun b => b.1 = x)), stage := if left = [] then 2 else 1 }) } }

/-- The bytes of a record at their translated places, as an ordinary store: none where it faults, at a door too (16, R323; 21,
R392; log 102). -/
def traceWrite (s : State) (core pid ga : Nat) (bs : List Byte) : Option State :=
  match xlate s core pid ga .write with
  | .error _ => none
  | .ok fa =>
    let a := fa % 2 ^ 52
    if fa / 2 ^ 52 = pkgNo s && a < 0xC000000000 && !isDoor s a bs.length then some (writeNow (copiedFirst s a bs.length) a bs) else none

/-- Writes a trace record, or drops it and counts it in LOST (21, R392). -/
def traceRecord (s : State) (core pid : Nat) (bs : List Byte) : State :=
  let p := prtOf s pid
  if !trcOn p then s
  else
    let cap := 4096 * 2 ^ (p.trcctl.extractLsb' 8 4).toNat / 128
    let tail := p.trcptr.toNat % 2 ^ 32
    let lost := p.trcptr.toNat / 2 ^ 32
    let dropped := setPrt s { p with trcptr := BitVec.ofNat 64 (min (2 ^ 32 - 1) (lost + 1) * 2 ^ 32 + tail) }
    if (tail + 2 ^ 32 - p.trchead.toNat % 2 ^ 32) % 2 ^ 32 = cap then dropped
    else match traceWrite s core pid ((p.trcctl.extractLsb' 12 44).toNat * 4096 + 128 * (tail % cap)) bs with
      | none => dropped
      | some s' =>
        setPrt s' { p with trcptr := BitVec.ofNat 64 (lost * 2 ^ 32 + (tail + 1) % 2 ^ 32) }

/-- The header of a trace record (21, R391). -/
def traceHeader (s : State) (kind sl : Nat) (core gid launch : Nat) (mask : W32) (pc : Nat) : List Byte :=
  leBytes 1 kind ++ leBytes 1 sl ++ leBytes 2 core ++ leBytes 4 gid ++ leBytes 4 launch ++ leBytes 4 mask.toNat
    ++ leBytes 8 pc ++ leBytes 8 s.time

/-- The stop record (21, R398). -/
def stopRecord (s : State) (g : Group) (f : Frame) : State :=
  traceRecord s g.core g.pid (padTo 128 (traceHeader s 2 (b2n f.slot) g.core g.key.gid g.key.launch
    (pathOf g f.slot).mask (pathOf g f.slot).pc.toNat ++ leBytes 4 (causeWord f) ++ leBytes 4 0 ++ leBytes 8 f.addr))

/-! ## The spill stack (03, R69) -/

def spillAt (g : Group) (i : Nat) : Nat := g.spill.toNat + 64 * i

def spillEntryBytes (p : Path) : List Byte :=
  padTo 64 (leBytes 8 p.pc.toNat ++ leBytes 4 p.mask.toNat ++ leBytes 4 p.gmode.toNat ++ leBytes 8 p.gfmt.toNat
    ++ leBytes 1 p.depth ++ leBytes 1 (b2n p.waiting))

/-- The path that entry `i` holds, as it now stands; its rotation count starts at 0 (03, R69, R71). -/
def spillPath (s : State) (g : Group) (i : Nat) : Path :=
  let a := spillAt g i
  { occ := true
    pc := BitVec.ofNat 64 (stashRead s g.core a 8)
    mask := BitVec.ofNat 32 (stashRead s g.core (a + 8) 4 % 2 ^ g.lanes)
    gmode := gmodeIn (BitVec.ofNat 32 (stashRead s g.core (a + 12) 4))
    gfmt := BitVec.ofNat 64 (stashRead s g.core (a + 16) 8) &&& gfmtMask
    depth := stashRead s g.core (a + 24) 1
    waiting := stashRead s g.core (a + 25) 1 % 2 = 1
    tag := g.spillTags.getD i 0 }

/-- The entries, oldest first. -/
def spillPaths (s : State) (g : Group) : List Path := (List.range g.spillCnt).map (spillPath s g)

/-- Pushes a path onto the focused group's stack. -/
def spillPush (s : State) (p : Path) : State :=
  let s' := stashWrite s s.g.core (spillAt s.g s.g.spillCnt) (spillEntryBytes p)
  { s' with g := { s'.g with spillCnt := s.g.spillCnt + 1, spillTags := s.g.spillTags ++ [p.tag] } }

/-- Moves the entries above `i` down by one place. -/
def spillShift (core sp : Nat) (m : State) : Nat → Nat → State
  | _, 0 => m
  | i, n + 1 =>
    spillShift core sp (stashWrite m core (sp + 64 * i) (stashBytes m core (sp + 64 * (i + 1)) 64)) (i + 1) n

/-- Takes entry `i` out of the focused group's stack. -/
def spillRemove (s : State) (i : Nat) : State :=
  let s' := spillShift s.g.core s.g.spill.toNat s i (s.g.spillCnt - 1 - i)
  { s' with g := { s'.g with spillCnt := s.g.spillCnt - 1, spillTags := s.g.spillTags.eraseIdx i } }

def indexWhere {α : Type} (p : α → Bool) : List α → Option Nat
  | [] => none
  | x :: xs => if p x then some 0 else (indexWhere p xs).map (· + 1)

/-! ## Number flags reach the issuing path wherever it stands (02, R47) -/

def sinkFlags (s : State) (k : GKey) (tag : Nat) (bits : W32) : State :=
  if bits = 0#32 then s
  else match getG s k with
    | none => s
    | some g =>
      if g.p0.occ && g.p0.tag = tag then setG s { g with p0 := { g.p0 with gmode := g.p0.gmode ||| bits } }
      else if g.p1.occ && g.p1.tag = tag then setG s { g with p1 := { g.p1 with gmode := g.p1.gmode ||| bits } }
      else match indexWhere (fun t => t = tag) g.spillTags with
        | none => s
        | some i =>
          let a := spillAt g i + 12
          stashWrite s g.core a (leBytes 4 (BitVec.ofNat 32 (stashRead s g.core a 4) ||| bits).toNat)

/-! ## Completion flags (01, R27) -/

/-- An operation of the clause that a flag of the class still covers: in flight, or captured. -/
def clauseBusy (s : State) (c : Clause) (setB any : Bool) : Bool :=
  let covers : Op → Bool := fun o => o.clause = c.id && o.cls != .halo && (any || o.setB = setB)
  s.ops.any (fun o => !o.returned && covers o) || (match getG s c.g with
    | some g => g.replay.any covers || (match g.park with
        | some p => p.replay.any covers
        | none => false)
        || (match g.sup with
        | some p => p.replay.any covers
        | none => false)
    | none => false)

def flagDown (s : State) (k : GKey) (f : Nat) : State :=
  updG s k (fun g => { g with flags := g.flags.set f (g.flags.getD f 0 - 1) })

/-- A memory-class word, and a special-function, tile or matrix one. -/
def memWord (w : W96) : Bool := 0x080 ≤ (laneOp w).toNat && (laneOp w).toNat ≤ 0x085

def workWord (w : W96) : Bool :=
  (0x070 ≤ (laneOp w).toNat && (laneOp w).toNat ≤ 0x078) || (0x0A0 ≤ (laneOp w).toNat && (laneOp w).toNat ≤ 0x0AB)

/-- The queue entries of the paths of a group, those of parked and interrupted paths among them. -/
def entriesOf (g : Group) : List CEnt :=
  g.p0.cq ++ g.p1.cq ++ (g.park.elim [] (fun p => p.p0.cq ++ p.p1.cq)) ++ (g.sup.elim [] (fun p => p.p0.cq ++ p.p1.cq))

/-- Every operation of a class of the clause has issued: its last instruction has, or the clause holds instructions of the
class and none of them is still to issue (01, R27). -/
def classIssued (s : State) (c : Clause) (covers : W96 → Bool) : Bool :=
  c.ended || (match (getG s c.g).bind (fun g => (entriesOf g).find? (fun e => e.id = c.id)) with
    | some e => e.code.any covers && !(e.code.drop e.idx).any covers
    | none => false)

/-- Lowers the flags of one clause whose operations of the class have all issued and completed; a class without an operation
counts until the clause's last instruction has issued (01, R27). -/
def settleOne (s : State) (c : Clause) : State :=
  let same := c.fa = c.fb
  let downA := c.fa.isSome && classIssued s c (fun w => memWord w || (same && workWord w)) && !clauseBusy s c false same
  let downB := c.fb.isSome && !same && classIssued s c workWord && !clauseBusy s c true false
  let s1 := match c.fa with
    | some f => if downA then flagDown s c.g f else s
    | none => s
  let s2 := match c.fb with
    | some f => if downB then flagDown s1 c.g f else s1
    | none => s1
  let c' : Clause := { c with fa := if downA then none else c.fa
                              fb := if downB || (same && downA) then none else c.fb }
  { s2 with clauses := s2.clauses.filterMap (fun x =>
      if x.id = c.id then (if c'.fa = none && c'.fb = none then none else some c') else some x) }

def settleFlags (s : State) : State := s.clauses.foldl settleOne s

/-! ## Watches (21, R399-R400) -/

/-- The kinds bit: 2 read, 1 write, 0 atomic. -/
def watchBit (acc : Acc) : Nat :=
  match acc with
  | .read => 2
  | .write => 1
  | .atomic => 0
  | .fetch => 3

def watchLen (w : Watch) : Nat := 2 ^ w.len

def watchBase (w : Watch) : Nat := w.addr / watchLen w * watchLen w

/-- The lowest watched byte of an access. -/
def watchHit (w : Watch) (acc : Acc) (ga n : Nat) : Option Nat :=
  if w.kinds / 2 ^ watchBit acc % 2 = 1 && acc != .fetch && ga < watchBase w + watchLen w && watchBase w < ga + n then
    some (max ga (watchBase w))
  else none

/-- The first match of an instruction's accesses (lane, access, address, bytes): watch id, lane, address. Lowest id,
then lowest lane, then lowest address (21, R400). -/
def watchFind (s : State) (pid : Nat) (l : List (Nat × Acc × Nat × Nat)) : Option (Nat × Nat × Nat) :=
  let p := prtOf s pid
  (List.range 8).findSome? (fun i =>
    let w := p.watch.getD i ⟨0, 2, 0⟩
    if w.kinds = 0 then none
    else
      let hits := l.filterMap (fun x => (watchHit w x.2.1 x.2.2.1 x.2.2.2).map (fun a => (x.1, a)))
      match hits with
      | [] => none
      | h :: hs =>
        let b := hs.foldl (fun m x => if x.1 < m.1 || (x.1 = m.1 && x.2 < m.2) then x else m) h
        some (i, b.1, b.2))

/-! ## Page requests and event records (18, R352; 19, R362-R363) -/

/-- The highest PRQCAP entry rules: a new entry is admitted, and whether it takes a reserved entry. -/
def admitPReq (s : State) (pid : Nat) : Option Bool :=
  let sh := sheetOf pid
  let mine := s.prts.filter (fun p => sheetOf p.pid = sh)
  let n : Nat := (mine.map (fun p => p.preqs.length)).sum
  let rsv : Nat := (mine.map (fun p => (p.preqs.filter PReq.rsv).length)).sum
  let shared : Nat := (s.prts.map (fun p => (p.preqs.filter (fun (e : PReq) => !e.rsv)).length)).sum
  let p := prtOf s pid
  if (prtOf s (8 * sh)).prqcap ≤ n || p.prqcap ≤ p.preqs.length then none
  else if rsv < 8 then some true
  else if shared < 3072 then some false
  else none

/-- Adds an event record, to be written to the ring when it has room (19, R363). -/
def addRecord (s : State) (pid kind : Nat) (g : Option GKey) (page : Option (Nat × Acc)) (f : Frame) : State :=
  let p := prtOf s pid
  setPrt s { p with
    evseq := p.evseq + 1
    recs := p.recs ++ [⟨p.evseq, kind, g, page, f, false, frameBytes (frameView ((g.bind (getG s)).getD Group.nobody) f) f⟩] }

/-- What a fault's events are keyed by: the lane-code address of the instruction, or of the clause that was fetched, else the path's PC;
of a group that has entered its continuation, as its paths stood (21, R394). -/
def faultPc (g : Group) (f : Frame) : W64 :=
  let p := pathOf (frameView g f) f.slot
  if f.lane.isSome then BitVec.ofNat 64 ((p.cq.head?.map lanePc).getD p.pc.toNat)
  else if f.acc = .fetch then BitVec.ofNat 64 f.addr else p.pc

/-- A fault on a page joins the partition's entry for the page and access kind, takes a new one, or waits (18, R352).
A streamer sector has no group. -/
def pageRequest (s : State) (pid : Nat) (g : Option GKey) (f : Frame) : State :=
  let p := prtOf s pid
  let page := f.addr / 4096
  match p.preqs.find? (fun e => e.page = page && e.acc = f.acc) with
  | some e =>
    setPrt s { p with preqs := p.preqs.map (fun x =>
      if x.seq = e.seq then { x with groups := x.groups ++ (g.toList.filter (fun k => !x.groups.contains k)) } else x) }
  | none =>
    match admitPReq s pid with
    | none => setPrt { s with nextId := s.nextId + 1 } { p with refused := p.refused ++ [(s.nextId, g, f)] }
    | some rsv =>
      let e : PReq := { page := page, stg := f.stg, acc := f.acc, seq := p.evseq, groups := g.toList, rsv := rsv }
      let s1 := addRecord (setPrt s { p with preqs := p.preqs ++ [e] }) pid 1 g (some (page, f.acc)) f
      match g.bind (getG s1) with
      | some h => noteEvent s1 h 7 (faultPc h f) 1
      | none => countEvc s1 pid 7 1

/-! ## Taking a trap (19, R356-R364) -/

/-- What a stop waits for (19, R357); a `tst` whose turn has not come is captured, as any matrix instruction not begun (10, R246). -/
def holdsStop (o : Op) : Bool :=
  match o.cls with
  | .store => !tstWaits o
  | .atomic => true
  | .rsta => true
  | .tkld => true
  | .amsg => true
  | .tkred => o.begun
  | .matrix => o.begun
  | _ => false

/-- The group is inside a step close, which completes before any stop lands (07, R191). -/
def insideClose (g : Group) : Bool :=
  g.isOpen && !g.super && g.park.isNone && [g.p0, g.p1].any (fun p => p.occ && (p.wait = some (.stepClose false) || p.wait = some (.stepClose true)))

def canLand (s : State) : Bool :=
  !s.ops.any (fun o => o.g = s.g.key && !o.returned && holdsStop o) && !insideClose s.g

/-- A part to be performed anew; of those that lie nowhere only the drain tables of a matrix instruction are (10, R255). -/
def freshPart (cls : OpCls) (p : Part) : Part :=
  if p.kind = .nowhere && cls != .matrix then p else { p with st := .todo, res := if p.wr then p.res else 0, err := none, ord := 0 }

/-- An operation as the replay queue has it: its accesses are to be performed anew (19, R357). -/
def captured (o : Op) : Op :=
  { o with parts := if o.cls = .sfu then o.parts else o.parts.map (freshPart o.cls), begun := false, returned := false }

/-- The group has ended or is being removed. -/
def isOver (g : Group) : Bool := g.stop = .ended || g.stop = .leaving

/-- Puts an operation in its place by order of issue. -/
def insertOp (o : Op) : List Op → List Op
  | [] => [o]
  | q :: qs => if o.id < q.id then o :: q :: qs else q :: insertOp o qs

/-- The unfinished instructions of a group that a stop captures (19, R357). -/
def toCapture (s : State) (g : Group) : List Op :=
  s.ops.filter (fun o => o.g = g.key && (!o.returned || o.cls = .halo) && o.cls != .fetch && o.cls != .engine)

/-- Moves the unfinished instructions of the focused group into its replay queue, in order of issue; the clause that
runs gives up its pipe (01, R26; 19, R357). -/
def captureOps (s : State) : State :=
  let mine := toCapture s s.g
  let off : Path → Path := fun p => { p with cq := p.cq.map (fun c => { c with running := false }) }
  { s with
    parcels := s.parcels.map (fun p => if p.mbad = [] then p else { p with mbad := p.mbad.filter (fun x => x.2.2 != s.g.key) })
    ops := s.ops.filter (fun o => o.g != s.g.key || o.cls = .fetch || o.cls = .engine)
    g := { s.g with replay := (mine.map captured).foldl (fun l o => insertOp o l) s.g.replay, p0 := off s.g.p0, p1 := off s.g.p1 } }

/-- The group is stopped without a cause to deliver: at a slice end or by an eviction. -/
def isHeld (g : Group) : Bool :=
  match g.stop with
  | .held _ => true
  | _ => false

/-- One path of every lane of the group, at an address. It keeps slot 0's tag, so that the flags of a long-latency instruction which a
handler or a continuation leaves unfinished reach the path restored into slot 0; no rule says where they go (DESIGN CHOICE, log 82). -/
def onePath (g : Group) (pc : W64) : Group :=
  { g with
    p0 := { g.p0 with occ := true, pc := pc, mask := BitVec.ofNat 32 (2 ^ g.lanes - 1), depth := 0, waiting := false
                      rot := 0, scnt := 0, cq := [], wait := none, exempt := false }
    p1 := { g.p1 with occ := false, mask := 0#32, depth := 0, waiting := false, rot := 0, scnt := 0, cq := []
                      wait := none, exempt := false } }

def putS (g : Group) (r : Nat) (v : W64) : Group := { g with s := g.s.set r v }

/-- MODE of TRAPCFG as it reads (19, R363). -/
def vectorMode (p : Prt) : Bool := p.trapcfg.getLsbD 0 && p.trapcfg.getLsbD 1

/-- The group's image address for the handler (19, R364). -/
def imageAddr (g : Group) : W64 :=
  match g.image with
  | some (true, a, _) => BitVec.ofNat 64 (stashWindow + a)
  | some (false, a, _) => BitVec.ofNat 64 a
  | none => 0#64

def parkOf (g : Group) (f : Frame) : Park := ⟨f, g.p0, g.p1, g.s, g.replay, g.spwGen⟩

/-- Delivery to the host: the group stays stopped (19, R363). -/
def deliverHost (s : State) (f : Frame) : State :=
  let s' := { s with g := { s.g with stop := .hostWait f } }
  addRecord s' s'.g.pid 2 (some s'.g.key) none f

/-- Supervisor state (19, R364): `rett` will reload the image that is already written. -/
def deliverVector (s : State) (f : Frame) : State :=
  let vec := (prtOf s s.g.pid).trapcfg &&& 0x00FFFFFFFFFFFFFC#64
  let g1 := onePath { s.g with sup := some (parkOf s.g f), supImage := s.g.image, image := none, super := true, replay := []
                               stop := .running } vec
  let g2 := putS (putS (putS g1 1 (imageAddr s.g)) 2 (BitVec.ofNat 64 (causeWord f))) 3 (BitVec.ofNat 64 f.addr)
  { s with g := g2, slot := false }

/-- Kind T (19, R362 step 4). A trap taken in supervisor state is TRAP_NESTED and goes to the host. -/
def deliverTrap (s : State) (f : Frame) : State :=
  if s.g.super then deliverHost s { f with cause := .trapNested }
  else if vectorMode (prtOf s s.g.pid) then deliverVector s f
  else deliverHost s f

/-- The continuation (19, R366): the frame, the paths, the scalar registers and the replay queue are parked in the image's park area. -/
def deliverCont (s : State) (f : Frame) : State :=
  let s1 := saveImage s { s.g with park := some (parkOf s.g f), contDone := none } f
  let g1 := onePath { s1.g with replay := [], stop := .running } s1.g.cont
  let g2 := putS (putS g1 1 (BitVec.ofNat 64 (causeWord f))) 2 (BitVec.ofNat 64 f.addr)
  pageRequest { s1 with g := g2, slot := false } s1.g.pid (some s1.g.key) f

/-- Delivery by the first case of 19, R362 that applies, after step 1: `goOn` logs a cause of kind N, which stops no group. A page fault
was a miss (21, R394). -/
def deliver (s0 : State) (f : Frame) : State :=
  match causeKind f.cause with
  | .serviceable =>
    let s := noteEvent s0 s0.g 4 (faultPc s0.g f) 1
    if s.g.cont != 0#64 && s.g.park.isNone && !s.g.super then deliverCont s f
    else pageRequest { s with g := { s.g with stop := .pageWait f } } s.g.pid (some s.g.key) f
  | _ => deliverTrap s0 f

/-- The stop of the focused group lands: everything is captured, the image is written, and the cause is delivered. In supervisor state
the image of the interrupted state stays beside the new one (log 16). An evicted group is removed from its core; at a slice end
the state stays in the core's files until their room is needed (18, R351; log 64). -/
def landStop (s : State) : State :=
  match s.g.stop with
  | .stopping f0 =>
    let f := if s.g.why = .failed then f0 else { f0 with time := s.time }
    let s1 := captureOps s
    let s2 := stopRecord s1 s1.g f
    match s2.g.why with
    | .trap => deliver (saveImage s2 s2.g f) f
    | .debug => deliver (saveImage s2 s2.g f) f
    | .failed => deliverTrap (saveImage s2 s2.g f) f
    | .slice => { s2 with g := { s2.g with stop := .held f, image := none, resident := false, inPlace := true, ranAt := s.time } }
    | .evict =>
      let s3 := leaveUnpub (saveImage s2 s2.g f) s2.g
      { s3 with g := { s3.g with stop := .held f, resident := false, ranAt := s.time } }
  | _ => s

/-- Lands the stop at once where nothing has to be waited for; otherwise PRECISE_STOP lands it. -/
def tryLand (s : State) : State := if canLand s then landStop s else s

/-- The focused group stops with a cause (19, R356). A fault that finds it stopping is the deferred cause (19, R359,
R432). -/
def takeTrap (s : State) (f : Frame) : State :=
  match s.g.stop with
  | .running => tryLand { s with g := { s.g with stop := .stopping f, why := .trap } }
  | .stopping f0 =>
    { s with g := { s.g with stop := .stopping { f0 with dfr := some (f0.dfr.getD f.cause) } } }
  | _ => s

/-- A scalar instruction traps: it has had no effect. -/
def trapS (s : State) (c : Cause) (addr : Nat := 0) : Res :=
  .next (takeTrap s { cause := c, slot := s.slot, addr := addr })

/-- An instruction of a feature that the sheet has not accepted is no instruction (22, R414). -/
def gated (s : State) (bit : Nat) (k : Res) : Res := if featOn s s.g.pid bit then k else trapS s .illEnc

/-- A scalar access faults. -/
def trapAcc (s : State) (c : Cause × Bool) (acc : Acc) (addr : Nat) : Res :=
  .next (takeTrap s { cause := c.1, stg := c.2, acc := acc, slot := s.slot, addr := addr })

/-! ## The requests of a core (21, R396) -/

/-- The sampling exponent (21, R392): 4 at the basic level. -/
def trcK (p : Prt) : Nat := if p.trcctl.getLsbD 1 then (p.trcctl.extractLsb' 3 5).toNat else 4

/-- Requests leave the core with numbers; sampled ones carry a timing header, which passes a page walker where neither TLB has the
translation (19, R376; 21, R396). -/
def numberParts (p : Prt) (misses : Part → Bool) : Nat → List Part → List Part
  | _, [] => []
  | j, q :: qs =>
    if leavesCore q then
      (let timed := trcOn p && (j + 1) % 2 ^ trcK p = 0
       { q with sampled := timed, walked := timed && misses q }) :: numberParts p misses (j + 1) qs
    else q :: numberParts p misses j qs

/-- Neither TLB has the translation of a part that a core accesses for a partition (19, R376). -/
def tlbMissOf (s : State) (core pid : Nat) (cls : OpCls) (p : Part) : Bool :=
  (tlbHit s core pid p.ga (if cls = .atomic then .atomic else if p.wr then .write else .read)).isNone

/-- The same for the group in focus. -/
def tlbMiss (s : State) (cls : OpCls) (p : Part) : Bool := tlbMissOf s s.g.core s.g.pid cls p

/-- The requests of an operation that no path issues, or that is issued again: the core counts them, and they carry their numbers (21,
R396). -/
def numbered (s : State) (o : Op) : State × Op :=
  let r := coreOf s o.core
  let n := (o.parts.filter leavesCore).length
  (opMisses (if n = 0 then s else setCore s { r with request := r.request + n }) o,
    { o with parts := numberParts (prtOf s o.pid) (tlbMissOf s o.core o.pid o.cls) r.request o.parts })

/-- Such an operation joins those in flight. -/
def addNumbered (s : State) (o : Op) : State :=
  let r := numbered s o
  addOp r.1 r.2

/-! ## Coming back (19, R367-R369) -/

/-- Where a part lies when its access is performed anew, or its fault. -/
def relocate (s : State) (g : Group) (o : Op) (p : Part) : Except (Cause × Bool × Acc × Nat) Part :=
  match p.kind with
  | .nowhere => .ok p
  | .ticket _ _ => .ok p
  | _ =>
    let acc : Acc := if o.cls = .atomic then .atomic else if p.wr then .write else .read
    match locate s g p.ga p.size acc with
    | .ok (k, fa) => .ok { p with kind := k, fa := fa, st := .todo, ord := 0 }
    | .error (c, stg) => .error (c, stg, acc, p.ga)

def relocateAll (s : State) (g : Group) (o : Op) : List Part → Except (Nat × Cause × Bool × Acc × Nat) (List Part)
  | [] => .ok []
  | p :: ps =>
    match relocate s g o p with
    | .error e => .error (p.lane, e)
    | .ok q =>
      match relocateAll s g o ps with
      | .error e => .error e
      | .ok qs => .ok (q :: qs)

/-- The slot in which a path stands. -/
def slotOf (g : Group) (tag : Nat) : Option Bool :=
  if g.p0.occ && g.p0.tag = tag then some false else if g.p1.occ && g.p1.tag = tag then some true else none

/-- The instruction at which a path waits with its operands captured is not run: the path goes on behind it (19, R361; log 71). -/
def skipHeld (s : State) (o : Op) : State :=
  let at_ := slotOf s.g o.tag
  let p := pathOf s.g (at_.getD o.slot)
  if o.cls != .halo then s
  else if o.clause = 0 then
    match at_, indexWhere (fun t => t = o.tag) s.g.spillTags with
    | some sl, _ => if p.pc.toNat = o.pc then { s with g := setPath s.g sl { p with pc := p.pc + 4 } } else s
    | none, some i =>
      let q := spillPath s s.g i
      if q.pc.toNat = o.pc then stashWrite s s.g.core (spillAt s.g i) (leBytes 8 (q.pc + 4).toNat) else s
    | none, none => s
  else match p.cq with
    | [] => s
    | e :: r =>
      if e.id != o.clause || e.addr + 12 * (e.idx + 1) != o.pc then s
      else if e.idx + 1 < e.code.length then
        { s with g := setPath s.g (at_.getD o.slot) { p with cq := { e with idx := e.idx + 1, wait := none } :: r } }
      else
        { s with
          g := setPath s.g (at_.getD o.slot) { p with cq := r }
          clauses := s.clauses.map (fun c => if c.id = e.id then { c with ended := true } else c) }

/-- Re-issues captured entries in order, as new requests of the core (21, R396); one whose V is 0 is skipped; one that faults again stops the group with the
rest still captured (19, R361, R368). -/
def reissue (s : State) : List Op → State
  | [] => s
  | o :: os =>
    if !o.valid then reissue (skipHeld s o) os
    else match relocateAll s s.g o o.parts with
      | .ok ps =>
        let r := numbered s { o with parts := ps }
        reissue { r.1 with ops := s.ops ++ [r.2] } os
      | .error (l, c, stg, acc, a) =>
        takeTrap { s with g := { s.g with replay := o :: os } }
          { cause := c, stg := stg, acc := acc, slot := o.slot, addr := a
            lane := if o.clause = 0 then none else some l }

/-- A deferred cause of kind N is logged only (19, R362 step 1); any other is raised. -/
def raises (dfr : Option Cause) : Bool := dfr.any (fun c => causeKind c != .notice)

/-- The notice of a deferred cause of kind N. -/
def logDeferred (s : State) (dfr : Option Cause) (f : Frame) : State :=
  match dfr with
  | some c => if causeKind c = .notice then addRecord s s.g.pid 3 (some s.g.key) none { cause := c, slot := f.slot, addr := f.addr, time := s.time }
              else s
  | none => s

/-- The focused group goes on as `rett` has it (19, R368), its deferred cause `dfr` first (log 80). A PC of 0 in a
diverged group traps with STEP_DIV once the image is reloaded and the entries are re-issued (09, R237; DESIGN CHOICE, log 84). -/
def goOn (s : State) (dfr : Option Cause) (f : Frame) : State :=
  let s0 := { s with g := { s.g with stop := .running, contDone := if s.g.park.isNone then none else s.g.contDone } }
  if raises dfr then takeTrap s0 { cause := dfr.getD f.cause, slot := f.slot, addr := f.addr }
  else
    let s1 := settleFlags (reissue { logDeferred s0 dfr f with g := { s0.g with replay := [] } } s0.g.replay)
    match s1.g.stop with
    | .running =>
      if s1.g.p0.occ && s1.g.p0.pc.extractLsb' 0 2 != 0#2 then
        takeTrap s1 { cause := .align, slot := false, addr := s1.g.p0.pc.toNat }
      else if s1.g.p1.occ && s1.g.p1.pc.extractLsb' 0 2 != 0#2 then
        takeTrap s1 { cause := .align, slot := true, addr := s1.g.p1.pc.toNat }
      else if (s1.g.p0.occ && s1.g.p0.pc = 0#64 && (s1.g.p1.occ || s1.g.spillCnt != 0))
          || (s1.g.p1.occ && s1.g.p1.pc = 0#64 && (s1.g.p0.occ || s1.g.spillCnt != 0)) then
        takeTrap s1 { cause := .stepDiv, slot := s1.g.p1.occ && s1.g.p1.pc = 0#64 }
      else s1
    | _ => s1

/-- The frame that the group's image holds, in the model's record: of a group that runs in supervisor state, the one it entered
with. -/
def frameOf (g : Group) : Frame :=
  match g.stop with
  | .stopping f => f
  | .pageWait f => f
  | .hostWait f => f
  | .held f => f
  | _ => g.sup.elim { cause := .dbgStop } Park.frame

/-- The first instruction that the stopped slot executes again is checked against no watch (21, R400). -/
def exemptSlot (g : Group) (slot : Bool) : Group := setPath g slot { pathOf g slot with exempt := true }

/-- Reloads the focused group's image and goes on (19, R368): `rett` of a group in supervisor state, the image that it entered with;
any other resume, that of the last stop. -/
def resumeFocus (s : State) : State :=
  let f := frameOf s.g
  let g := if s.g.stop = .running then leaveSuper s.g else s.g
  let dfr := match imageBytes s g with
    | some img => deferredOf img
    | none => f.dfr
  goOn { s with g := exemptSlot (reload s g) f.slot } dfr f

/-- A stopped group goes on as `rett` has it, wherever it is. -/
def resumeGroup (s : State) (k : GKey) : State :=
  match getG s k with
  | some g => if g.resident then withFocus s k s.slot resumeFocus else s
  | none => s

/-! ## What is left of a group that is removed -/

/-- The group waits for no page and in no queue's order any more. -/
def forgetWaits (s : State) (k : GKey) : State :=
  { s with
    qctxs := s.qctxs.map (fun q => { q with waiters := q.waiters.filter (fun w => w.g != k) })
    prts := s.prts.map (fun p => { p with
      preqs := p.preqs.map (fun e => { e with groups := e.groups.filter (fun h => h != k) })
      refused := p.refused.filter (fun r => r.2.1 != some k) }) }

/-- Removes every trace of a group but its memory effects (17, R337; 19, R378). -/
def dropGroup (s : State) (k : GKey) : State :=
  let s0 := forgetWaits s k
  let s1 := { s0 with
    ops := s.ops.filter (fun o => o.g != k || o.cls = .fetch || o.cls = .store || o.cls = .atomic || o.cls = .rsta)
    msgs := s.msgs.filter (fun m => match m.reply with
      | some r => r.2.1 != k
      | none => true)
    clauses := s.clauses.filter (fun c => c.g != k)
    others := s.others.filter (fun g => g.key != k)
    qctxs := s0.qctxs.map (fun q => { q with binds := q.binds.filter (fun b => b.1 != k) })
    anns := s.anns.filter (fun a => a.dst != k) }
  if s1.g.live && s1.g.key = k then { s1 with g := { s1.g with live := false, resident := false } } else s1

/-! ## After a scalar instruction: rotation and events (03, R72; 21, R394) -/

/-- A spilled path of the group could run. -/
def spillReady (s : State) (g : Group) : Bool := (spillPaths s g).any (fun p => !p.waiting)

/-- The slot's rotation count rises. -/
def rotate (s : State) (k : GKey) (slot : Bool) : State :=
  match getG s k with
  | some g =>
    if spillReady s g then setG s (setPath g slot { pathOf g slot with rot := (pathOf g slot).rot + 1 }) else s
  | none => s

/-- One scalar instruction of the slot has executed: a word fetched at `pc` that did not wait. The spec does not say whether the
64 instructions of 03, R72 are counted only while the stack holds an entry that is not waiting: the model counts all of the path's,
and looks at the stack at each 64th (DESIGN CHOICE, log 59). -/
def afterScalar (s : State) (k : GKey) (slot : Bool) (pc : W64) : State :=
  match getG s k with
  | none => s
  | some g =>
    let p := pathOf g slot
    if p.wait.isSome && p.wait != some .yield then s
    else
      let n := p.scnt + 1
      let s1 := setG s (setPath g slot { p with scnt := n % 64 })
      noteEvent (if n = 64 then rotate s1 k slot else s1) g 1 pc 1

/-! ## Fetching (03, R67; 12) -/

/-- The `n` bytes of code at a generic address: scalar words or lane words. Code outside the package is the
environment's (log 1). -/
def fetchBytes (s : State) (g : Group) (ga n : Nat) : Except (Cause × Bool) (List Byte) :=
  match locate s g ga n .fetch with
  | .error e => .error e
  | .ok (.stash, off) => .ok (stashBytes s g.core off n)
  | .ok (.dev _, a) =>
    match poisoned s a n with
    | some _ => .error (.busErr, false)
    | none => .ok (viewBytes s g.core a n)
  | .ok (_, a) => .ok ((List.range n).map (fun i => Config.outsideByte s.free (a + i)))

/-- The scalar word at the focused path's PC. -/
def fetchScalar (s : State) : Except (Cause × Bool) W32 :=
  match fetchBytes s s.g (cur s).pc.toNat 4 with
  | .error e => .error e
  | .ok bs => .ok (BitVec.ofNat 32 (leNat bs))

/-- The line-sized pieces of a range: (offset, bytes). -/
def piecesFrom (ga : Nat) : Nat → Nat → Nat → List (Nat × Nat)
  | 0, _, _ => []
  | fuel + 1, o, n =>
    if n ≤ o then []
    else
      let k := min (n - o) (128 - (ga + o) % 128)
      (o, k) :: piecesFrom ga fuel (o + k) n

def pieces (ga n : Nat) : List (Nat × Nat) := piecesFrom ga (n / 128 + 2) 0 n

/-- One lane word, by the pieces of the lines it lies in; a fault with the word's address. -/
def fetchLane (s : State) (g : Group) (ga : Nat) : Except (Cause × Bool) W96 :=
  match (pieces ga 12).foldl (fun (r : Except (Cause × Bool) (List Byte)) (p : Nat × Nat) => match r with
    | .error e => .error e
    | .ok bs => match fetchBytes s g (ga + p.1) p.2 with
      | .error e => .error e
      | .ok b => .ok (bs ++ b)) (.ok []) with
  | .error e => .error e
  | .ok bs => .ok (BitVec.ofNat 96 (leNat bs))

end Sys2Proof.Machine
end

