-- ==== Sys2Proof/Machine/Operands.lean ====
section
/-!
DEFINITION. Operand forms: which registers a lane instruction reads and writes, what a source reads, where a result
goes (01, R18-R21; 05, R117; 07, R181-R188; 08, R204-R206).
-/

namespace Sys2Proof.Machine

/-! ## Registers named by a lane instruction, for hazards (01, R28) -/

/-- What decode knows of a group and a path's narrow descriptor (01, R20). -/
def cxOf (g : Group) (gfmt : W64) : LaneCx :=
  { regs := g.d.regs, bmask := g.d.bmask, cmask := g.d.cmask, n0 := gfmt.extractLsb' 0 16, handler := g.handler.isSome
    mx := ((List.range 16).filter (fun n => (g.tc.getD n 0#64).extractLsb' 38 2 = 1#2)).foldl (fun m n => m ||| (1#16 <<< n)) 0#16 }

/-- The zero source C of a `tld` or `tst` of a tile without MX32 names no register (10, R247). -/
def unscaled (cx : LaneCx) (op : Nat) (f : LaneF) : Bool :=
  0x0A0 ≤ op && op ≤ 0x0A1 && f.srcC = 0#14 && !cx.mx.getLsbD (immBits f 0 4)

/-- Codes `c .. c + n - 1` of a v, x or k register. -/
def regRange (c n : Nat) : List Nat := if c < 0x90 then (List.range n).map (fun i => c + i) else []

/-- Registers that a source names; one that is read through a bearing counts too, as the example under 01, R30 has it. -/
def srcRegs (sp : Option SrcSpec) (x : BitVec 14) : List Nat :=
  match sp with
  | none => []
  | some t => regRange (srcCode x) (if is64Ty t.ty && srcCode x < 0x88 then 2 else 1)

/-- Registers that a lane instruction writes. -/
def laneWrites (cx : LaneCx) (i : Instr) : List Nat :=
  match laneParts i with
  | none => []
  | some (op, f) =>
    let sp := laneSpec cx op.toNat f
    let d := f.dest.toNat
    (if d < 0x88 then regRange d sp.nreg else regRange d 1)
      ++ (if op.toNat = 0x084 && modBit f 16 then [0x88 + modBits f 17 3] else [])
      ++ (if op.toNat = 0x0D2 && modBits f 16 3 != 0 then [0x88 + modBits f 16 3] else [])

/-- Registers that a lane instruction reads: its sources, its predicate, dest as the compare value of a `cas` (05, R126)
or as the register that `cvtn` merges into (08, R221), the registers that `xpub` names (07, R196). -/
def laneReads (cx : LaneCx) (i : Instr) : List Nat :=
  match laneParts i with
  | none => []
  | some (op, f) =>
    let sp := laneSpec cx op.toNat f
    srcRegs sp.a f.srcA ++ srcRegs sp.b f.srcB ++ srcRegs (if unscaled cx op.toNat f then none else sp.c) f.srcC
      ++ (if f.pk = 0#3 then [] else [0x88 + f.pk.toNat])
      ++ (if op.toNat = 0x082 && immBits f 0 4 = 2 then regRange f.dest.toNat sp.nreg else [])
      ++ (if op.toNat = 0x063 then regRange f.dest.toNat 1 else [])
      ++ (if op.toNat = 0x0C0 then
          ((List.range 8).filter (fun r => f.imm.getLsbD r)).map (fun r => 0x80 + r) else [])

/-- Registers that an unfinished operation will write. -/
def opWrites (g : Group) (o : Op) : List Nat :=
  if o.clause = 0 || o.cls = .halo then [] else laneWrites (cxOf g o.gfmt) o.instr

/-- A register of the focused group has a pending write (01, R28). -/
def pendingReg (s : State) (code : Nat) : Bool :=
  s.ops.any (fun o => o.g = s.g.key && !o.returned && (opWrites s.g o).contains code)

end Sys2Proof.Machine
end

