-- ==== Sys2Proof/Machine/Issue.lean ====
section
/-!
DEFINITION. How an access issues, is performed where it goes, and returns (04, R89-R94; 05, R107-R115, R124-R127;
06, R157-R160; 19, R432; 21, R396).
-/

namespace Sys2Proof.Machine

/-! ## Mapped stash (06, R159) -/

def mapAt (p : Parcel) (off : Nat) : Option MapEnt :=
  p.maps.findSome? (fun m => match m with
    | some e => if e.off ≤ off && off < e.off + e.len then some e else none
    | none => none)

/-- The global address that a mapped stash offset caches. -/
def mapGa (e : MapEnt) (off : Nat) : Nat := e.ga + (off - e.off)

/-- The 4-byte words of a range, by stash offset. -/
def wordsOf (off n : Nat) : List Nat :=
  if n = 0 then [] else (List.range ((off + n - 1) / 4 - off / 4 + 1)).map (fun i => 4 * (off / 4 + i))

/-- The first mapped word of a range that the access waits for: one whose line's fill is outstanding, any invalid word for a read, an
invalid word written in part for a write (06, R159, R178; 04, R90). -/
def mapNeed (s : State) (g : Group) (off n : Nat) (wr : Bool) : Option (Nat × MapEnt) :=
  match parcelOf s (parcelKey g) with
  | none => none
  | some p => (wordsOf off n).findSome? (fun w =>
      match mapAt p w with
      | none => none
      | some e =>
        if !p.mfill.contains (w / 128) && (p.mvalid.contains w || (wr && off ≤ w && w + 4 ≤ off + n)) then none else some (w, e))

/-- Words that a stash write leaves valid and dirty. -/
def mapDirty (s : State) (g : Group) (off n : Nat) : State :=
  match parcelOf s (parcelKey g) with
  | none => s
  | some p =>
    let ws := (wordsOf off n).filter (fun w => (mapAt p w).isSome)
    if ws = [] then s
    else setParcel s { p with mvalid := p.mvalid ++ ws.filter (fun w => !p.mvalid.contains w)
                              mdirty := p.mdirty ++ ws.filter (fun w => !p.mdirty.contains w)
                              mbad := p.mbad.filter (fun x => !ws.contains x.1) }

/-- The fault that the last fill of a word ended with, in the group whose touch started it (06, R159). -/
def mapBad (s : State) (g : Group) (w : Nat) : Option Cause :=
  (parcelOf s (parcelKey g)).bind (fun p => if p.mfill.contains (w / 128) then none
    else (p.mbad.find? (fun x => x.1 = w && x.2.2 = g.key)).map (fun x => x.2.1))

/-- A fault of a line's fill has been raised: a later touch starts the fill again. -/
def dropBad (s : State) (g : Group) (w : Nat) : State :=
  match parcelOf s (parcelKey g) with
  | none => s
  | some p => setParcel s { p with mbad := p.mbad.filter (fun x => x.1 / 128 != w / 128) }

/-- The reads of a merging fill: of local memory word by word, of a peer's or the host's the whole line. `cmp` is the stash offset. -/
def fillParts (p : Parcel) (line ga fa : Nat) (kind : PKind) : List Part :=
  match kind with
  | .dev _ => ((List.range 32).filter (fun i => !p.mvalid.contains (128 * line + 4 * i))).map (fun i =>
      { ga := ga + 4 * i, fa := fa + 4 * i, size := 4, kind := kind, cmp := 128 * line + 4 * i })
  | _ => [{ ga := ga, fa := fa, size := 128, kind := kind, cmp := 128 * line }]

/-- A merging fill of a mapped line starts, as a load of the group that touches it (06, R159). Its `vals` name the parcel and the
line, the command number 8,192 being no command's. -/
def startFill (s : State) (g : Group) (line : Nat) : State :=
  match parcelOf s (parcelKey g) with
  | none => s
  | some p =>
    match mapAt p (128 * line) with
    | none => s
    | some e =>
      let ga := mapGa e (128 * line)
      if p.mfill.contains line then s
      else match locate s g ga 128 .read with
        | .error (c, _) => setParcel s { p with
          mbad := p.mbad ++ (List.range 32).map (fun i => (128 * line + 4 * i, c, g.key)) }
        | .ok (kind, fa) =>
          addNumbered (setParcel s { p with mfill := p.mfill ++ [line], mbad := p.mbad.filter (fun x => x.1 / 128 != line) })
            { id := 0, g := g.key, slot := false, tag := 0, core := g.core, pid := g.pid, cls := .engine, instr := .nop
              vals := [[p.key.idx, 8192, line, 0]], parts := fillParts p line ga fa kind }

/-- The part is to be made in the stash: one of its window, or an entry of a drain table that a stop captured, which lies on no path
(10, R255). -/
def stashTodo (p : Part) : Bool := (p.kind = .stash || p.kind = .nowhere) && p.st = .todo

/-- An earlier access of the focused group to bytes of the stash range is still to be made: a tile row to be stored, or an
access that a stop captured (05, R109; 10, R247, R255; 19, R361). -/
def stashPending (s : State) (off n : Nat) (wr : Bool) : Bool :=
  s.ops.any (fun o => o.g = s.g.key && o.parts.any (fun p =>
    stashTodo p && (wr || p.wr) && p.fa < off + n && off < p.fa + p.size))

/-- Goes on once the stash range holds its bytes: no line empty (06, R158), no mapped word to fill; a fill's translation
faults in the group. -/
def stashReady (s : State) (off n : Nat) (wr : Bool) (lane : Option Nat) (k : Res) : Res :=
  if stashPending s off n wr then waitFor s .drain
  else match emptyLine s s.g.core off n with
  | some l =>
    let s' := if (cur s).wait != some (.stashLine l) then noteEvent s s.g 6 (cur s).pc 1 else s
    waitFor s' (.stashLine l)
  | none =>
    match mapNeed s s.g off n wr with
    | none => k
    | some (w, e) =>
      match mapBad s s.g w, locate s s.g (mapGa e (w / 128 * 128)) 128 .read with
      | some c, _ => .next (takeTrap (dropBad s s.g w) { cause := c, slot := s.slot, lane := lane, addr := mapGa e w })
      | none, .error (c, stg) =>
        .next (takeTrap s { cause := c, stg := stg, slot := s.slot, lane := lane, addr := mapGa e w })
      | none, .ok (kind, _) =>
        waitFor (startFill s s.g (w / 128)) (.mappedFill (mapGa e w) (match kind with
          | .peer _ => true
          | _ => false))

/-- A store into the stash by the focused group. -/
def stashStore (s : State) (g : Group) (off : Nat) (bs : List Byte) : State :=
  mapDirty (stashWrite s g.core off bs) g off bs.length

/-! ## Atomic operations (05, R125-R127) -/

/-- The new value of a word of `w` bits under an operation. `f32` addition rounds to nearest even and honours
subnormals (05, R126). -/
def atomNew (op : AtomOp) (w : Nat) (old v c : Nat) : Nat :=
  let si := fun x => intOf true w x
  match op with
  | .add => (old + v) % 2 ^ w
  | .swap => v
  | .cas => if old = c then v else old
  | .min => if si old ≤ si v then old else v
  | .max => if si old < si v then v else old
  | .minu => if old ≤ v then old else v
  | .maxu => if old < v then v else old
  | .and => old &&& v
  | .or => old ||| v
  | .xor => old ^^^ v
  | .fadd => (roundTo fmtF32 .ne false false 0 (xadd false (fmtRead fmtF32 false old) (fmtRead fmtF32 false v))).1

/-- The flags of an f32 atomic addition. -/
def atomFlags (op : AtomOp) (old v : Nat) : FFlags :=
  match op with
  | .fadd => (roundTo fmtF32 .ne false false 0 (xadd false (fmtRead fmtF32 false old) (fmtRead fmtF32 false v))).2
  | _ => fflagsNone

/-! ## Issuing -/

/-- Issues an operation of the focused path: its parts are numbered, and it is counted on the paths it uses (05, R107). -/
def issue (s : State) (o : Op) : State :=
  let r := coreOf s s.g.core
  let n := (o.parts.filter leavesCore).length
  let s1 := if n = 0 then s else setCore s { r with request := r.request + n }
  addOp s1 { o with
    g := s.g.key, slot := s.slot, tag := (cur s).tag, core := s.g.core, pid := s.g.pid, gmode := (cur s).gmode
    gfmt := (cur s).gfmt
    pc := if o.clause = 0 then (cur s).pc.toNat else o.pc
    cmask := if o.clause = 0 then (cur s).mask else o.cmask
    parts := numberParts (prtOf s s.g.pid) (tlbMiss s o.cls) r.request o.parts
    paths := o.parts.foldl (fun m p => m ||| pathOfKind p.kind) o.paths }

/-- The focused path's scalar instruction that has issued and waits: its loads, or its operands (19, R357; log 71). -/
def descOp (s : State) (i : Instr) : Option Op :=
  s.ops.find? (fun o => o.g = s.g.key && o.tag = (cur s).tag && o.cls = .halo && o.clause = 0 && o.instr = i)

/-- Drops it: the instruction goes on. -/
def dropDesc (s : State) (i : Instr) : State :=
  match descOp s i with
  | some o => { s with ops := s.ops.filter (fun q => q.id != o.id) }
  | none => s

/-- The paths a list of parts counts on. -/
def pathsOf (ps : List Part) : BitVec 4 := ps.foldl (fun m p => m ||| pathOfKind p.kind) 0#4

/-- The group's other path waits as `fence` does: no access of the group issues until that wait ends (05, R121).
The rule does not say when that hold starts: the model starts it with the wait for the counters, after the wait for the path's clauses,
and a path that leaves its slot at its `fence` holds no more and runs the `fence` anew (DESIGN CHOICE, log 91). -/
def fenceHolds (s : State) : Bool := (pathOf s.g (!s.slot)).occ && (pathOf s.g (!s.slot)).wait = some .fence

/-- Waits that come before an access issues: a fence of the group (05, R121), a counter at its limit (05, R108), 64 capturable
instructions (19, R358). -/
def roomToIssue (s : State) (cls : OpCls) (paths : BitVec 4) (k : Res) : Res :=
  if fenceHolds s then waitFor s .fenced
  else match countersFull s paths with
  | some _ => waitFor s .room
  | none => if capturable cls && captureFull s then waitFor s .capture else k

/-- The watch check of an instruction (21, R400). -/
def watched (s : State) (l : List (Nat × Acc × Nat × Nat)) (lane : Bool) (k : Res) : Res :=
  if (cur s).exempt then k
  else match watchFind s s.g.pid l with
    | none => k
    | some (i, ln, a) =>
      .next (takeTrap s { cause := .watch, slot := s.slot, addr := a, info := i
                          lane := if lane then some ln else none })

/-- The checks of one scalar access, in order: watches, alignment, address and translation (05, R114; 21, R400). -/
def scalarAccess (s : State) (acc : Acc) (ga n : Nat) (k : PKind → Nat → Res) : Res :=
  watched s [(0, acc, ga, n)] false
    (if ga % n != 0 then trapAcc s (.align, false) acc ga
     else match locate s s.g ga n acc with
      | .error e => trapAcc s e acc ga
      | .ok (kind, fa) => k kind fa)

/-! ## Landing results (05, R108, R118) -/

/-- A loaded value in a 64-bit register (05, R113). -/
def extend64 (size : Nat) (sgn : Bool) (v : Nat) : W64 :=
  if sgn then BitVec.ofInt 64 (intOf true (8 * size) (v % 2 ^ (8 * size))) else BitVec.ofNat 64 (v % 2 ^ (8 * size))

def setV (g : Group) (r l : Nat) (v : W32) : Group := { g with v := g.v.set (r * g.width + l) v }

def setX (g : Group) (r l : Nat) (v : W32) : Group := { g with xw := g.xw.set (r * g.width + l) v }

def setK (g : Group) (r l : Nat) (b : Bool) : Group := { g with k := g.k.set r (setBit (g.k.getD r 0#32) l b) }

/-- Writes a lane's register by code: v, the working copy of x, or k1-k7; 0xFF and the rest discard (01, R20). -/
def setCode (g : Group) (code l : Nat) (v : W32) : Group :=
  if code < 0x80 then (if code < g.d.regs then setV g code l v else g)
  else if code ≤ 0x87 then setX g (code - 0x80) l v
  else if 0x89 ≤ code && code ≤ 0x8F then setK g (code - 0x88) l (v.getLsbD 0)
  else g

/-- Writes a value of one or two registers, the low word first (08, R205). -/
def setPair (g : Group) (code l : Nat) (wide : Bool) (v : Nat) : Group :=
  let g1 := setCode g code l (BitVec.ofNat 32 v)
  if wide && code < 0x88 then setCode g1 (code + 1) l (BitVec.ofNat 32 (v / 2 ^ 32)) else g1

/-- A loaded element as its register holds it (05, R118). -/
def extendTy (t v : Nat) : Nat :=
  if tyWidth t = 16 || tyWidth t = 8 then
    if isSignedTy t then bitsOfInt 32 (intOf true (tyWidth t) (v % 2 ^ tyWidth t)) else v % 2 ^ tyWidth t
  else v

/-! ## At the slice -/

/-- The set of a line (04, R88). -/
def setIndex (a : Nat) : Nat :=
  let j := a / 256 / 12
  (j / 64 % 512) * 2 + a / 128 % 2

/-- The word bits of an access inside its line. -/
def wordBits (a n : Nat) : BitVec 32 :=
  ((List.range 32).filter (fun w => 4 * w < a % 128 + n && a % 128 < 4 * w + 4)).foldl
    (fun m w => m ||| (1#32 <<< w)) 0#32

/-- Every word touched is written whole. -/
def wholeWords (a n : Nat) : Bool := a % 4 = 0 && n % 4 = 0

/-- A slice is granted to a partition (18, R344). -/
def granted (s : State) (slice pid : Nat) : Bool := (slicesOf s pid).getLsbD slice

/-- What a partition is guaranteed of a slice, what its insets are guaranteed apart (18, R345). -/
def ownShare (s : State) (slice : Nat) (f : Prt → Nat) (pid : Nat) : Nat :=
  if !granted s slice pid then 0
  else f (prtOf s pid) - (if pid % 8 = 0 then ((s.prts.filter (fun q => sheetOf q.pid = sheetOf pid && q.pid % 8 != 0
    && granted s slice q.pid)).map f).sum else 0)

/-- What no partition's guarantee claims of a slice's `cap` (18, R345). -/
def poolShare (s : State) (slice cap : Nat) (f : Prt → Nat) : Nat :=
  cap - ((s.prts.filter (fun q => q.pid % 8 = 0 && granted s slice q.pid)).map f).sum

/-- The lines of a set (04, R88). -/
def setLines (s : State) (slice a : Nat) : List Line := s.lines.filter (fun x => x.slice = slice && setIndex x.addr = setIndex a)

/-- The line holds unpublished words (12, R263). -/
def hasUnpub (s : State) (a : Nat) : Bool := s.unpub.any (fun u => lineAddr u.addr = a)

/-- The line holds tagged words (04, R98). -/
def hasSpec (s : State) (a : Nat) : Bool := s.spec.any (fun t => lineAddr t.addr = a)

/-- The ways that a line takes: two while it holds unpublished words (12, R263). -/
def lineWays (s : State) (l : Line) : List Bool := if hasUnpub s l.addr then l.ways else l.ways.take 1

/-- Ways of a set that a partition's guarantee has given it, and ways that it has out of no guarantee, whoever has them. -/
def ownUsed (s : State) (slice a pid : Nat) : Nat :=
  (((setLines s slice a).filter (fun l => l.pid = pid)).map (fun l => ((lineWays s l).filter id).length)).sum

def poolUsed (s : State) (slice a : Nat) : Nat := ((setLines s slice a).map (fun l => ((lineWays s l).filter (!·)).length)).sum

/-- The ways of a set in use: sixteen at most (04, R88). -/
def waysUsed (s : State) (slice a : Nat) : Nat := ((setLines s slice a).map (fun l => (lineWays s l).length)).sum

/-- What a partition, or the pool, is entitled to of a set and does not use. -/
def ownFree (s : State) (slice a pid : Nat) : Bool := ownUsed s slice a pid < ownShare s slice Prt.ways pid

def poolFree (s : State) (slice a : Nat) : Bool := poolUsed s slice a < poolShare s slice 16 Prt.ways

/-- A way of a set that the partition may take: of its guarantee first (true), then of those that no guarantee claims. -/
def freeWay (s : State) (slice a pid : Nat) : Option Bool :=
  if 16 ≤ waysUsed s slice a then none
  else if ownFree s slice a pid then some true
  else if poolFree s slice a then some false
  else none

/-- The line stands in a way that the partition may use: one of its own guarantee, while it has one, or of the pool. -/
def inGranted (s : State) (slice pid : Nat) (x : Line) : Bool :=
  (x.pid = pid && 1 ≤ ownShare s slice Prt.ways pid && (lineWays s x).contains true)
    || (1 ≤ poolShare s slice 16 Prt.ways && (lineWays s x).contains false)

/-- The line stands in a way that a lowered guarantee, or a raised one, has taken from its holder (18, R345). -/
def inLost (s : State) (slice a : Nat) (x : Line) : Bool :=
  ((lineWays s x).contains true && ownShare s slice Prt.ways x.pid < ownUsed s slice a x.pid)
    || ((lineWays s x).contains false && poolShare s slice 16 Prt.ways < poolUsed s slice a)

/-- A line leaves the cache: its dirty words go to the controller, with their poison, the others are dropped, and its unpublished
words leave it through a forced publication (04, R91, R93; 12, R263). -/
def evictLine (s : State) (l : Line) : State :=
  let dirty := lineWords l.addr l.dirty
  let valid := lineWords l.addr l.valid
  forceBytes { s with
    lines := s.lines.filter (fun x => !(x.slice = l.slice && x.addr = l.addr))
    memPoison := s.memPoison.filter (fun w => !dirty.contains w) ++ s.poison.filter (fun w => dirty.contains w)
    poison := s.poison.filter (fun w => !valid.contains w) } l.addr 128

/-- The victim of a set: the least recently used line in the partition's ways with no fill outstanding and no tagged word (04, R88,
R98). Ways that a changed guarantee has taken from their holder are kept until they free; one goes where a partition that is entitled
to a way finds no other (18, R345; DEDUCED, log 86). The line at `keep` is no victim, nor is a dirty one whose pseudo-channel takes
no traffic (22, R415). -/
def victimOf (s : State) (slice a pid : Nat) (keep : Option Nat) : Option Line :=
  let ls := (setLines s slice a).filter (fun x => !x.fill && !hasSpec s x.addr && keep != some x.addr
    && (x.dirty = 0#32 || !chanTesting s x.addr))
  match ls.find? (inGranted s slice pid) with
  | some v => some v
  | none => if ownFree s slice a pid || poolFree s slice a then ls.find? (inLost s slice a) else none

/-- A way for a line of a partition: a free one, or that of a victim; one that a partition above its share replaces stays of its kind. -/
def findWay (s : State) (slice a pid : Nat) (keep : Option Nat) : Option (State × Bool) :=
  match freeWay s slice a pid with
  | some k => some (s, k)
  | none => (victimOf s slice a pid keep).map (fun v =>
      let t := evictLine s v
      (t, (freeWay t slice a pid).getD (v.pid = pid && 1 ≤ ownShare s slice Prt.ways pid && (lineWays s v).contains true)))

/-- Allocates a line with every bit 0, or answers that the request waits (04, R88, R90). -/
def allocLine (s : State) (slice a pid : Nat) : Option (State × Line) :=
  (findWay s slice a pid none).map (fun r =>
    let l : Line := { slice := slice, addr := lineAddr a, valid := 0#32, dirty := 0#32, fill := false, held := [], ways := [r.2]
                      pid := pid }
    (setLine r.1 l, l))

/-- A second way for a line that is to hold unpublished words: the state with it, and whether there was one (12, R262-R263). -/
def secondWay (s : State) (slice a pid : Nat) : State × Bool :=
  match lineOf s slice a with
  | none => (s, true)
  | some l =>
    if hasUnpub s l.addr then (s, true)
    else match findWay (setLine s { l with ways := l.ways.take 1 }) slice a pid (some l.addr) with
      | some (t, k) => (setLine t { l with ways := l.ways.take 1 ++ [k] }, true)
      | none => (s, false)

/-- An ordinary store is accepted at its home slice. Without a way in which its words can be kept apart they are force-published at
once (12, R262-R263). -/
def keepStore (s : State) (slice c a pid : Nat) (g : GKey) (bs : List Byte) : State :=
  let (t, room) := secondWay s slice a pid
  let t1 := acceptStore t c a g bs
  if room then t1 else forceBytes t1 (a / 4 * 4) ((a + bs.length + 3) / 4 * 4 - a / 4 * 4)

/-! An access that is no part of an operation uses its line as 04, R90 has it: it goes on, or it arrives again later (log 85). -/

/-- The access may be performed in its line: the state with the line's bits, or the state in which it has to wait. -/
def lineReady (s : State) (a n pid : Nat) (wr whole : Bool) : Except State State :=
  let slice := homeSlice a
  let go : State → Line → Except State State := fun t l =>
    let w := wordBits a n
    if l.fill then .error t
    else if whole then .ok (touchLine t { l with valid := l.valid ||| w, dirty := l.dirty ||| w })
    else if l.valid &&& w = w then .ok (touchLine t { l with dirty := if wr then l.dirty ||| w else l.dirty })
    else .error (touchLine t { l with fill := true })
  match lineOf s slice a with
  | some l => go s l
  | none => match allocLine s slice a pid with
    | none => .error s
    | some (t, l) => go t l

/-- The same for every line of a range. -/
def rangeReady (s : State) (pid : Nat) (wr whole : Bool) : List (Nat × Nat) → Except State State
  | [] => .ok s
  | (a, n) :: r => match lineReady s a n pid wr (whole && wholeWords a n) with
    | .error t => .error t
    | .ok t => rangeReady t pid wr whole r

/-- The pieces of a local range, line by line. -/
def localPieces (a n : Nat) : List (Nat × Nat) := (pieces a n).map (fun p => (a + p.1, p.2))

/-- An access of `n` bytes at `a` by partition `pid` finds its lines ready: a read, a store, or (`whole` false) an atomic. -/
def ready (s : State) (pid a n : Nat) (wr whole : Bool) : Except State State := rangeReady s pid wr whole (localPieces a n)

/-- The sheet whose memory holds an address: a peer's and a host's accesses are charged to it (log 6). -/
def ownerOf (s : State) (a : Nat) : Nat :=
  ((s.prts.find? (fun p => p.pid % 8 = 0 && p.mbase ≤ a && a < p.mbase + p.msize)).map Prt.pid).getD 0

/-- Replaces part `j` of an operation. A part that is done takes its place among the answers (04, R102). -/
def putPart (s : State) (o : Op) (j : Nat) (p : Part) : State :=
  match opOf s o.id with
  | some q =>
    if p.st = .done && p.ord = 0 then
      setOp { s with replied := s.replied + 1 } { q with parts := q.parts.set j { p with ord := s.replied + 1 } }
    else setOp s { q with parts := q.parts.set j p }
  | none => s

/-- A tagged byte of another window or slot stands in one of the words (05, R153). A word that a commit has marked, and the group's
publication has not yet reached, bears the name of its closed window, so that a store of the reopened window to it is a store of another
window (DESIGN CHOICE, log 88). -/
def specClash (s : State) (launch a n win slot : Nat) : Bool :=
  s.spec.any (fun t => a / 4 ≤ t.addr / 4 && t.addr / 4 ≤ (a + n - 1) / 4
    && !(t.launch = launch && t.win = win && t.slot = slot))

/-- The lines of a slice that hold tagged words. -/
def specLines (s : State) (slice : Nat) : List Nat :=
  (s.spec.filter (fun t => homeSlice t.addr = slice)).foldl
    (fun l t => if l.contains (lineAddr t.addr) then l else l ++ [lineAddr t.addr]) []

/-- The name of a window that has been discarded: a store of it that was on its way writes nothing (05, R152, R155). -/
def discardWin : Nat := 16

/-- A speculative store (05, R153), or its fault. -/
def specStore (s : State) (launch slice a win slot : Nat) (bs : List Byte) : Option State :=
  let ls := specLines s slice
  if win = discardWin then some s
  else if specClash s launch a bs.length win slot then none
  else if !ls.contains (lineAddr a) && 4096 ≤ ls.length then none
  else
    let keep := s.spec.filter (fun t => !(a ≤ t.addr && t.addr < a + bs.length))
    some { s with spec := keep ++ (List.range bs.length).map (fun i => ⟨launch, win, slot, a + i, bs.getD i 0#8⟩) }

/-- The job whose log records the group's choices (21, R403). -/
def logOf (s : State) (job : Nat) : Option JobLog := s.svc.logs.find? (fun l => l.job = job)

def setLog (s : State) (l : JobLog) : State :=
  { s with svc := { s.svc with logs := s.svc.logs.map (fun x => if x.job = l.job then l else x) } }

def logMode (l : JobLog) : Nat := l.ctl.toNat % 4

/-- Record slots of a log: 32 bytes each (21, R403). -/
def logCap (l : JobLog) : Nat := 65536 * 2 ^ (l.ctl.toNat / 256 % 16) / 32

/-- Record slot `i` of the log (21, R403), written where LOGCTL says. -/
def logWrite (s : State) (l : JobLog) (i : Nat) (r : LogRec) : State :=
  let a := l.ctl.toNat / 4096 % 2 ^ 44 * 4096 + 32 * i
  writeNow (copiedFirst s a 32) a
    (leBytes 4 r.kind ++ leBytes 4 r.lane ++ leBytes 4 r.group ++ leBytes 4 r.launch ++ leBytes 8 r.ord ++ leBytes 8 r.wher)

/-- Appends a record in record mode; the last slot takes the horizon marker, and recording ends (21, R403-R404). -/
def logAppend (s : State) (job pid core : Nat) (r : LogRec) : State :=
  match logOf s job with
  | none => s
  | some l =>
    if logMode l != 1 then s
    else if l.recs.length + 1 < logCap l then setLog (logWrite s l l.recs.length r) { l with recs := l.recs ++ [r] }
    else
      let mark : LogRec := ⟨4, s.time, l.recs.length, 0, 0, 0⟩
      let s' := setLog (logWrite s l l.recs.length mark) { l with recs := l.recs ++ [mark], ctl := l.ctl &&& ~~~3#64 }
      traceRecord s' core pid (padTo 128 (traceHeader s' 3 0 core 0 0 0#32 0))

/-- The next recorded operation on a target in replay mode (21, R405). -/
def replayNext (l : JobLog) (kind wher : Nat) : Option LogRec :=
  l.recs.find? (fun r => r.kind = kind && r.wher = wher && !l.replayed.contains r)

/-- An operation on a target is held until every one recorded before it has been performed: it is the next one where its launch, its
group and its lane are those of the record (21, R405). -/
def replayHolds (s : State) (job kind wher launch gid lane : Nat) : Bool :=
  match logOf s job with
  | none => false
  | some l =>
    logMode l = 2 && (match replayNext l kind wher with
      | some r => !(r.launch = launch && r.group = gid % 2 ^ 32 && r.lane = lane)
      | none => false)

/-- The lane of a record that stands for a scalar access or a combined `latom` (21, R403). -/
def noLane : Nat := 2 ^ 32 - 1

/-- The lane that a record of an atomic part names (21, R403). -/
def atomLane (o : Op) (p : Part) : Nat :=
  if o.clause = 0 || (o.aop != some .cas && 1 < p.cmp) then noLane else p.lane

/-- Marks a recorded operation as performed. -/
def replayDone (s : State) (job kind wher : Nat) : State :=
  match logOf s job with
  | none => s
  | some l =>
    if logMode l != 2 then s
    else match replayNext l kind wher with
      | some r => setLog s { l with replayed := l.replayed ++ [r] }
      | none => s

/-- The job of a launch. -/
def jobOf (s : State) (launch : Nat) : Nat :=
  match launchOf s launch with
  | some l => l.d.job
  | none => 0

/-- The global word that an atomic log record names (21, R403). -/
def fabricAddr (s : State) (a : Nat) : Nat := pkgNo s * 2 ^ 52 + a

/-- Every log that records counts an atomic on the word, whoever performs it (21, R403). -/
def countAtomic (s : State) (a : Nat) : State :=
  { s with svc := { s.svc with logs := s.svc.logs.map (fun l =>
      if logMode l = 1 then { l with atomics := assocSet l.atomics a (assocD 0 l.atomics a + 1) } else l) } }

/-- Counts an atomic on a local word, and records it for its job: of a group here, or of a peer's (21, R403). -/
def logAtomic (s : State) (job pid core : Nat) (k : GKey) (lane a : Nat) : State :=
  let s1 := countAtomic s a
  match logOf s1 job with
  | none => s1
  | some l =>
    if logMode l = 1 then logAppend s1 job pid core ⟨2, fabricAddr s a, assocD 0 l.atomics a, k.launch, k.gid % 2 ^ 32, lane⟩
    else replayDone s1 job 2 (fabricAddr s a)

/-- Where a poisoned word lies, by the access that touches it (04, R93). -/
def wordGa (p : Part) (w : Nat) : Nat := p.ga + w - p.fa

/-- Performs a part at local device memory, in slice `sl` (04, R90, R93; 12, R263, R265). A combined `latom` part carries in `cmp`
how many lanes it stands for. -/
def performDev (s : State) (o : Op) (j : Nat) (p : Part) (sl : Nat) : State :=
  match poisoned s p.fa p.size, o.aop, p.wr with
  | some w, some _, _ => putPart s o j { p with st := .done, err := some (.busErr, wordGa p w) }
  | some w, none, false => putPart s o j { p with st := .done, err := some (.busErr, wordGa p w) }
  | _, some op, _ =>
    let s1 := forceAtomic s o.core p.fa p.size
    let old := cellRead s1.mem p.fa p.size
    let s2 := { s1 with mem := cellWrite s1.mem p.fa (leBytes p.size (atomNew op (8 * p.size) old p.data p.cmp)) }
    let s3 := logAtomic s2 (jobOf s o.g.launch) o.pid o.core o.g (atomLane o p) p.fa
    sinkFlags (putPart s3 o j { p with st := .done, res := old }) o.g o.tag (fflagsBits (atomFlags op old p.data))
  | _, none, true =>
    match p.spec with
    | some (win, slot) =>
      match specStore s o.g.launch sl p.fa win slot (leBytes p.size p.data) with
      | some s1 => putPart s1 o j { p with st := .done }
      | none => putPart s o j { p with st := .done, err := some (.specOvf, p.ga) }
    | none => putPart (keepStore s sl o.core p.fa o.pid o.g (leBytes p.size p.data)) o j { p with st := .done }
  | _, none, false => putPart s o j { p with st := .done, res := leNat (viewBytes s o.core p.fa p.size) }

/-! ## The host window (04, R94) -/

/-- A host-window address with the sheet whose CXL port carries it (04, R82). -/
def hostKey (pid a : Nat) : Nat := sheetOf pid * 2 ^ 52 + a % 2 ^ 52

/-- A host-window store is held at its target slice (04, R94; 12, R263). -/
def holdHost (s : State) (o : Op) (j : Nat) (p : Part) : State :=
  putPart { s with hostHeld := acceptBytes s.hostHeld o.core (hostKey o.pid p.fa) o.g (leBytes p.size p.data) } o j { p with st := .done }

end Sys2Proof.Machine
end

