-- ==== Sys2Proof/Machine/Publish.lean ====
section
/-!
DEFINITION. Releases and acquires of a group: what a publication point makes visible, what an acquire refreshes (05,
R122-R123, R155; 06, R160-R161; 12, R261-R264).
-/

namespace Sys2Proof.Machine

/-! ## Mapped stash is written back (06, R160) -/

/-- The dirty words of a parcel with the local device address or the other place each caches. -/
def dirtyAt (s : State) (g : Group) (p : Parcel) (w : Nat) : Option (PKind × Nat × Nat) :=
  match mapAt p w with
  | none => none
  | some e =>
    match locate s g (mapGa e w) 4 .write with
    | .ok (k, fa) => some (k, fa, mapGa e w)
    | .error _ => none

/-- The parts that write dirty words of a parcel back, of those that `sel` picks. Words whose page has gone stay dirty (log 18). -/
def dirtyParts (s : State) (g : Group) (sel : Nat → Bool) : List Part :=
  match parcelOf s (parcelKey g) with
  | none => []
  | some p => p.mdirty.filterMap (fun w => if !sel w then none else match dirtyAt s g p w with
      | some (k, fa, ga) => some { ga := ga, fa := fa, size := 4, kind := k, wr := true, data := stashRead s g.core w 4 }
      | none => none)

/-- Those words are clean. -/
def cleanWords (s : State) (g : Group) (sel : Nat → Bool) : State :=
  match parcelOf s (parcelKey g) with
  | none => s
  | some p => setParcel s { p with mdirty := p.mdirty.filter (fun w => !(sel w && (dirtyAt s g p w).isSome)) }

/-- Issues accesses of the focused group that no instruction of it counts (05, R107). -/
def issueQuiet (s : State) (o : Op) : State :=
  let s1 := issue s o
  { s1 with ops := s1.ops.map (fun q => if q.id = s.nextId then { q with paths := 0#4 } else q) }

/-- Stores that no instruction of the focused group makes. -/
def quietStore (s : State) (i : Instr) (ps : List Part) : State :=
  issueQuiet s { id := 0, g := s.g.key, slot := s.slot, tag := 0, cls := .store, instr := i, parts := ps }

/-- The dirty words that a publication of the group now writes back, each with the bytes that it writes. -/
def noteBack (s : State) (g : Group) : State :=
  match parcelOf s (parcelKey g) with
  | none => s
  | some p => setParcel s { p with mback := p.mback.filter (fun x => x.1 != g.key)
      ++ (p.mdirty.filter (fun w => (dirtyAt s g p w).isSome)).map (fun w => (g.key, w, stashRead s g.core w 4)) }

/-- The group's publication is made: the words that it wrote back are clean, but for those stored to since. Until then they stay dirty,
so that another group's publication point meanwhile writes them back itself (06, R160). -/
def settleBack (s : State) (g : Group) : State :=
  match parcelOf s (parcelKey g) with
  | none => s
  | some p => if p.mback = [] then s else setParcel s { p with
      mdirty := p.mdirty.filter (fun w => !p.mback.contains (g.key, w, stashRead s g.core w 4))
      mback := p.mback.filter (fun x => x.1 != g.key) }

/-- Issues the write-back of the parcel's dirty words as one store operation of the focused group; they are accepted before the
publication (05, R122; 06, R160). -/
def writeBack (s : State) (i : Instr) : Option State :=
  match dirtyParts s s.g (fun _ => true) with
  | [] => none
  | ps => some (quietStore (noteBack s s.g) i ps)

/-! ## What the peers are told (12, R263; 14, R287; log 48) -/

/-- The windows that the group has marked for its next publication (05, R155). -/
def markedWins (s : State) (g : Group) : List Nat :=
  match launchOf s g.key.launch with
  | some l => (l.marks.filter (fun m => m.1 = g.key)).map (fun m => m.2.1)
  | none => []

/-- What a publication of the group tells the peers. -/
def pubNotes (s : State) (g : Group) (scope : Nat) : List Part :=
  notes (.publish scope) (awayAt s (fun a => a.g = g.key && a.win = none))
    ++ ((markedWins s g).map (fun w => notes (.commit scope w) (awayAt s (fun a => a.g.launch = g.key.launch && a.win = some w)))).flatten

/-- Those stores are no longer the peers' to hold. -/
def dropAway (s : State) (g : Group) : State :=
  let ws := markedWins s g
  { s with away := s.away.filter (fun a => !(a.g = g.key && a.win = none)
      && !(a.g.launch = g.key.launch && a.win.elim false (fun w => ws.contains w))) }

/-- Tells the peers of the focused group's publication, in one store operation. -/
def tellPeers (s : State) (i : Instr) (scope : Nat) : Option State :=
  match pubNotes s s.g scope with
  | [] => none
  | ps => some (quietStore (dropAway s s.g) i ps)

/-! ## Blocks that a checkpoint has still to copy (20, R384) -/

/-- A checkpoint copies the page of a byte later: a write to it is held until then. -/
def copyPending (s : State) (a n : Nat) : Bool :=
  s.svc.ckpts.any (fun c => c.stage = 1 && c.pending.any (fun b => b.2.any (fun pg => pg < a + n && a < pg + 4096)))

/-- A write is held at its block, which the copier takes next. -/
def holdCopy (s : State) (a n : Nat) : State :=
  { s with svc := { s.svc with ckpts := s.svc.ckpts.map (fun c => if c.stage != 1 then c else { c with
      held := c.held ++ ((c.pending.filter (fun b => b.2.any (fun pg => pg < a + n && a < pg + 4096)
        && !c.held.contains b.1)).map (fun b => b.1)) }) } }

/-- The words that the group's next publication point writes itself: dirty mapped words and marked speculative ones. -/
def publishAddrs (s : State) (g : Group) : List Nat :=
  (match parcelOf s (parcelKey g) with
    | some p => p.mdirty.filterMap (fun w => match dirtyAt s g p w with
      | some (.dev _, fa, _) => some fa
      | _ => none)
    | none => [])
  ++ (match launchOf s g.key.launch with
    | some l => ((l.marks.filter (fun m => m.1 = g.key)).map (fun m =>
        (s.spec.filter (fun t => t.launch = l.handle && t.win = m.2.1)).map Spec.addr)).flatten
    | none => [])

/-! ## Speculative commits (05, R152-R155) -/

/-- A word is written in its line: dirty, and valid where it is written whole (04, R90). -/
def wroteWord (s : State) (whole : Bool) (w : Nat) : State :=
  match lineOf s (homeSlice w) w with
  | none => s
  | some l => setLine s { l with dirty := l.dirty ||| wordBits w 4, valid := if whole then l.valid ||| wordBits w 4 else l.valid }

/-- Publishes and untags the words of a marked window, which become words of their lines (04, R90, R93; 05, R154-R155). -/
def publishTag (s : State) (core scope launch win : Nat) (ws : List GKey) : State :=
  let mine := s.spec.filter (fun t => t.launch = launch && t.win = win)
  let whole : Nat → Bool := fun w => (List.range 4).all (fun i => mine.any (fun t => t.addr = w + i))
  let words := mine.foldl (fun l t => if l.contains (t.addr / 4 * 4) then l else l ++ [t.addr / 4 * 4]) []
  let s1 := mine.foldl (fun t x =>
    publishByte { t with unpub := t.unpub.filter (fun u => !(u.core = core && u.addr = x.addr)) } core scope x.addr x.val ws) s
  words.foldl (fun t w => wroteWord t (whole w) w)
    { s1 with spec := s1.spec.filter (fun t => !(t.launch = launch && t.win = win)), poison := s1.poison.filter (fun w => !whole w) }

/-- The commits that wait for the group's publication point (05, R155). -/
def commitMarks (s : State) (g : Group) (scope : Nat) : State :=
  match launchOf s g.key.launch with
  | none => s
  | some l =>
    let mine := l.marks.filter (fun m => m.1 = g.key)
    let s1 := mine.foldl (fun t m => publishTag t g.core scope l.handle m.2.1 [g.key]) s
    if mine = [] then s1 else setLaunch s1 { l with marks := l.marks.filter (fun m => m.1 != g.key) }

/-! ## Publication points and snapshot points -/

/-- Every ordinary store of the group has been accepted by its target (05, R122), every speculative store to a window that it has
marked too (05, R155), and what its publication point writes itself is not held at a block that a checkpoint has still to copy (20,
R384). -/
def storesAccepted (s : State) (k : GKey) : Bool :=
  !s.ops.any (fun o => o.g = k && o.cls = .store && o.parts.any (fun p => p.st != .done))
    && (match getG s k with
      | some g =>
        let ws := markedWins s g
        (ws = [] || !s.ops.any (fun o => o.g.launch = k.launch && o.parts.any (fun p => p.st != .done
          && p.spec.elim false (fun x => ws.contains x.1))))
          && (s.svc.ckpts = [] || !(publishAddrs s g).any (fun a => copyPending s a 1))
      | none => true)

/-- A publication point of the group at a scope (12, R261): its ordinary stores, then marked commits. The write-back of mapped stash
has gone before (`writeBack`). -/
def publicationPoint (s : State) (g : Group) (scope : Nat) : State :=
  commitMarks (publishGroup (settleBack s g) g.core g.key scope) g scope

/-- Mapped words that are valid and clean become invalid, and what a fill that is outstanding has read is not used: the line is filled
anew at the next touch (06, R161; 12, R264). -/
def dropClean (s : State) (g : Group) : State :=
  match parcelOf s (parcelKey g) with
  | none => s
  | some p => if p.mvalid = [] && p.mfill = [] && p.mbad = [] then s
    else setParcel { s with ops := s.ops.filter (fun o => !(o.cls = .engine && o.g.launch = p.key.launch && (match o.vals with
        | [[i, q, _, _]] => i = p.key.idx && q = 8192
        | _ => false))) }
      { p with mvalid := p.mvalid.filter (fun w => p.mdirty.contains w), mfill := [], mbad := [] }

/-- The group's snapshot takes its place in P, as an acquire at a scope (12, R264). -/
def takeSnapshot (s : State) (g : Group) (scope : Nat) : State :=
  let s' := acquire s g.core scope
  updG s' g.key (fun h => { h with snap := s'.pOrder, acqAt := if scope = 5 then s'.time else h.acqAt })

/-- The snapshot point of a step close or of an `acq`: clean mapped words are refreshed with it (06, R161; 12, R264). -/
def snapshotPoint (s : State) (g : Group) (scope : Nat) : State := takeSnapshot (dropClean s g) g scope

/-- An earlier load of the focused group, a halo load among them, has not returned (05, R123; 07, R186). -/
def loadsOut (s : State) : Bool :=
  s.ops.any (fun o => o.g = s.g.key && (o.cls = .load || (o.cls = .halo && o.parts != [])) && !o.returned)

/-- The paths that a scope drains (05, R121). -/
def scopePaths (scope : Nat) : List Nat :=
  if scope ≤ 2 then [1] else if scope ≤ 4 then [0, 1, 3] else [0, 1, 2, 3]

/-- Waits as `fence` does (05, R121). -/
def fenced (s : State) (scope : Nat) (k : Res) : Res :=
  if !clausesIssued (cur s) then waitFor s .earlier
  else if (scopePaths scope).any (fun p => pathCount s s.g.key p != 0) then waitFor s .fence
  else k

end Sys2Proof.Machine
end

