-- ==== Sys2Proof/Machine/Router.lean ====
section
/-!
DEFINITION. The router as packets enter it: the peer table, sequence numbers, counters (14, R287-R306).
-/

namespace Sys2Proof.Machine

/-! ## Peers (14, R299) -/

/-- PINC and STATE of a package; the own entry is UP with PINC = INC. -/
def peerEnt (s : State) (n : Nat) : Nat × Nat :=
  if n = pkgNo s then (s.net.inc, 1)
  else match s.net.peers.find? (fun p => p.1 = n) with
    | some p => p.2
    | none => (0, 0)

def peerUp (s : State) (n : Nat) : Bool := (peerEnt s n).2 = 1

/-- The package lies in the domain: its entry has been written with a state other than ABSENT (14, R285, R299; log 61). -/
def inDomain (s : State) (n : Nat) : Bool := n = pkgNo s || s.net.domain.contains n

/-! ## Packets -/

/-- The next SEQ of a pair, and the state that has given it (14, R296). -/
def nextSeqTo (s : State) (peer slice : Nat) : State × Nat :=
  let k := (s.net.txseq.find? (fun x => x.1 = peer && x.2.1 = slice))
  let n := (k.map (fun x => x.2.2)).getD 0
  let rest := s.net.txseq.filter (fun x => !(x.1 = peer && x.2.1 = slice))
  ({ s with net := { s.net with txseq := rest ++ [(peer, slice, (n + 1) % 65536)] } }, n)

def sequenced (kind : Nat) : Bool := kind ≤ 2 || (6 ≤ kind && kind ≤ 9)

/-- The normal virtual lane of a kind (14, R288). -/
def laneOfKind (kind : Nat) : Nat :=
  if kind ≤ 2 || kind = 6 || kind = 10 then 0 else if kind = 8 || kind = 9 then 2 else if kind = 12 then 3 else 1

/-- A packet enters the router from this package; a sequenced one takes the next SEQ of its pair. -/
def enterRouter (s : State) (p : Packet) : State :=
  if sequenced p.kind then
    let (s1, q) := nextSeqTo s p.dpkg p.tsl
    { s1 with net := { s1.net with own := s1.net.own ++ [{ p with seq := q }], given := s1.net.given ++ [(p.dpkg, p.tsl, q)] } }
  else { s with net := { s.net with own := s.net.own ++ [p] } }

/-! ## Sequence numbers outstanding (14, R296) -/

def ofPair (peer slice : Nat) (x : Nat × Nat × Nat) : Bool := x.1 = peer && x.2.1 = slice

/-- Numbers of a pair that its target has not applied, as far as this package knows. -/
def pairOut (s : State) (peer slice : Nat) : Nat := (s.net.given.filter (ofPair peer slice)).length

/-- An acknowledged number, and with it those before it, have been applied. -/
def pairApplied (s : State) (peer slice seq : Nat) : State :=
  let mine := s.net.given.filter (ofPair peer slice)
  if mine.contains (peer, slice, seq) then
    { s with net := { s.net with given := s.net.given.filter (fun x => !ofPair peer slice x)
        ++ (mine.dropWhile (fun x => x.2.2 != seq)).drop 1 } }
  else s

/-- The oldest numbers of a pair whose packets have left this package. -/
def numbersGone (s : State) (peer slice : Nat) : Nat :=
  ((s.net.given.filter (ofPair peer slice)).takeWhile (fun x =>
    !s.net.own.any (fun k => sequenced k.kind && k.dpkg = peer && k.tsl = slice && k.seq = x.2.2))).length

/-- At the limit of 512: how many more of its oldest numbers the target has applied, no reply tells; a free value (log 9), of those whose
packets have left. -/
def settlePair (s : State) (peer slice : Nat) : State :=
  if pairOut s peer slice < 512 then s
  else
    let n := min (numbersGone s peer slice) (Config.outsideByte s.free (pairKey peer slice)).toNat
    { s with
      free := s.free + 1
      net := { s.net with given := s.net.given.filter (fun x => !ofPair peer slice x)
        ++ (s.net.given.filter (ofPair peer slice)).drop n } }

/-- A sequenced packet that no tag of this package waits for, a step packet or an acknowledgement of KIND 7, enters the router, or is held
at the limit of its pair, in order. -/
def enterStepPacket (s : State) (k : Packet) : State :=
  let t := settlePair s k.dpkg k.tsl
  if pairOut t k.dpkg k.tsl < 512 && !t.net.waiting.any (fun x => x.dpkg = k.dpkg && x.tsl = k.tsl) then enterRouter t k
  else { t with net := { t.net with waiting := t.net.waiting ++ [k] } }

/-- Held step packets enter as their pairs have room. -/
def releaseSteps (s : State) : State :=
  s.net.waiting.foldl enterStepPacket { s with net := { s.net with waiting := [] } }

def mkPacket (s : State) (kind dst tsl loc args : Nat) (data : List Byte) : Packet :=
  { kind := kind, vl := laneOfKind kind, spkg := pkgNo s, dpkg := dst, sinc := s.net.inc, dinc := (peerEnt s dst).1
    tsl := tsl, loc := loc, args := args, data := data }

/-! ## Counters (14, R306) -/

/-- Counts an event: 0 STALE_DROP, 1 LATE_REPLY, 2 SUSPECT, 3 RELIEF_MOVED, 4 TOKEN_NEW, 5 LINK_RETRY,
6 REQ_TIMEOUT. -/
def countNet (s : State) (i n : Nat) : State :=
  { s with net := { s.net with counts := s.net.counts.set i ((s.net.counts.getD i 0 + n) % 2 ^ 64) } }

end Sys2Proof.Machine
end

