-- ==== Sys2Proof/Machine/Graticule.lean ====
section
/-!
DEFINITION. The graticule: cells, bearings, boundaries, parcels (07, R181-R186, R190; 17, R329, R333).
-/

namespace Sys2Proof.Machine

/-! ## Cells -/

def gridExt (d : Desc) (i : Nat) : Nat := if i = 0 then d.gx else if i = 1 then d.gy else d.gz

def gridCells (d : Desc) : Nat := d.gx * d.gy * d.gz

/-- The coordinate of a cell in a dimension (07, R181). -/
def cellCoord (d : Desc) (c i : Nat) : Nat :=
  if i = 0 then c % d.gx else if i = 1 then c / d.gx % d.gy else c / d.gx / d.gy

def cellOf (d : Desc) (x y z : Nat) : Nat := x + d.gx * (y + d.gy * z)

def groupCount (d : Desc) : Nat := (gridCells d + d.gw - 1) / d.gw

/-- The cells of a group, in lane order. -/
def cellsOfGroup (d : Desc) (gid : Nat) : List Nat :=
  (List.range d.gw).filterMap (fun l => if gid * d.gw + l < gridCells d then some (gid * d.gw + l) else none)

def groupOfCell (d : Desc) (c : Nat) : Nat := c / d.gw

/-! ## Bearings (07, R182-R185) -/

/-- The offset of a bearing in a dimension. -/
def bearingOff (d : Desc) (b i : Nat) : Int :=
  if 11 ≤ b then d.btab.getD (3 * (b - 11) + i) 0
  else
    let t : List (List Int) := [[0, 0, 0], [1, 0, 0], [-1, 0, 0], [0, 1, 0], [0, -1, 0], [0, 0, 1], [0, 0, -1], [1, 1, 0],
      [1, -1, 0], [-1, 1, 0], [-1, -1, 0]]
    (t.getD b []).getD i 0

/-- The boundary mode of a dimension: 0 WRAP, 1 CLAMP, 2 ZERO, 3 HALO, 4 TRAP (07, R184). -/
def bndMode (d : Desc) (i : Nat) : Nat := d.bnd.toNat / 8 ^ i % 8

/-- Where a read through a bearing goes (07, R185). -/
inductive Resolved where
  | cell (n : Nat)
  | zero
  | halo (face k tb ta : Nat) (gb ga : Nat)
  | edge
  deriving DecidableEq, Repr

def clampI (x : Int) (n : Nat) : Int := if x < 0 then 0 else if (n : Int) ≤ x then n - 1 else x

def resolve (d : Desc) (c b : Nat) : Resolved :=
  let t : Nat → Int := fun i => cellCoord d c i + bearingOff d b i
  let out : Nat → Bool := fun i => t i < 0 || (gridExt d i : Int) ≤ t i
  let outs := [0, 1, 2].filter out
  let u : Nat → Int := fun i =>
    if !out i then t i
    else if bndMode d i = 0 then t i % (gridExt d i : Int)
    else if bndMode d i = 1 then clampI (t i) (gridExt d i)
    else t i
  if outs.any (fun i => bndMode d i = 4) then .edge
  else if outs.any (fun i => bndMode d i = 2) then .zero
  else match outs.find? (fun i => bndMode d i = 3) with
    | none => .cell (cellOf d (u 0).toNat (u 1).toNat (u 2).toNat)
    | some h =>
      let neg := t h < 0
      let k := if neg then (-(t h) - 1).toNat else (t h - gridExt d h).toNat
      let w : Nat → Nat := fun i => (if out i && bndMode d i = 3 then clampI (t i) (gridExt d i) else u i).toNat
      let a := if h = 0 then 1 else 0
      let e := if h = 2 then 1 else 2
      .halo (2 * h + if neg then 0 else 1) k (w e) (w a) (gridExt d e) (gridExt d a)

/-- The address of register `r` of a virtual cell (07, R186). -/
def haloAddr (d : Desc) (face k tb ta gb ga r : Nat) : Nat :=
  d.halo.getD face 0 + 32 * ((k * gb + tb) * ga + ta) + 4 * r

/-- A bearing reaches a real neighbour (07, R197): no ZERO, HALO or TRAP, and no CLAMP that changed a coordinate. -/
def isReal (d : Desc) (c b : Nat) : Bool :=
  [0, 1, 2].all (fun i =>
    let t : Int := cellCoord d c i + bearingOff d b i
    (0 ≤ t && t < (gridExt d i : Int)) || bndMode d i = 0)

def admits (d : Desc) (b : Nat) : Bool := d.bmask.getLsbD b

/-- The cells that a cell reads (07, R190). -/
def cellReads (d : Desc) (c : Nat) : List Nat :=
  (List.range 15).filterMap (fun b =>
    if admits d b then (match resolve d c b with
      | .cell n => some n
      | _ => none)
    else none)

/-- The groups that hold a cell reading one of the cells (07, R190). -/
def readerGroups (d : Desc) (cs : List Nat) : List Nat :=
  (List.range (groupCount d)).filter (fun h =>
    (cellsOfGroup d h).any (fun r => (cellReads d r).any (fun n => cs.contains n)))

/-- The groups whose cells a group reads (07, R191). -/
def groupsRead (d : Desc) (gid : Nat) : List Nat :=
  ((cellsOfGroup d gid).map (cellReads d)).flatten.foldl
    (fun l n => if l.contains (groupOfCell d n) then l else l ++ [groupOfCell d n]) []

/-! ## Parcels (17, R329) -/

def ceilDiv (a b : Nat) : Nat := (a + b - 1) / b

def parcelGrid (d : Desc) (i : Nat) : Nat :=
  ceilDiv (gridExt d i) (if i = 0 then d.pex else if i = 1 then d.pey else d.pez)

def parcelCoord (d : Desc) (c i : Nat) : Nat :=
  cellCoord d c i / (if i = 0 then d.pex else if i = 1 then d.pey else d.pez)

def parcelOfCell (d : Desc) (c : Nat) : Nat :=
  parcelCoord d c 0 + parcelGrid d 0 * (parcelCoord d c 1 + parcelGrid d 1 * parcelCoord d c 2)

def parcelCount (d : Desc) : Nat := parcelGrid d 0 * parcelGrid d 1 * parcelGrid d 2

def parcelOfGroup (d : Desc) (gid : Nat) : Nat := parcelOfCell d (gid * d.gw)

/-- The groups of a parcel, in ascending order. -/
def parcelGroups (d : Desc) (p : Nat) : List Nat := (List.range (groupCount d)).filter (fun g => parcelOfGroup d g = p)

/-! ## The packages of a spanning launch (17, R333) -/

def spanCols (d : Desc) : Nat := (d.span.extractLsb' 8 4).toNat + 1
def spanRows (d : Desc) : Nat := (d.span.extractLsb' 12 4).toNat + 1

def spanPkg (d : Desc) (q : Nat) : Nat :=
  16 * ((d.span.extractLsb' 4 4).toNat + q / spanCols d) + (d.span.extractLsb' 0 4).toNat + q % spanCols d

/-- The package that a parcel is placed on. -/
def parcelPkg (s : State) (d : Desc) (p : Nat) : Nat :=
  if d.span = 0#32 then pkgNo s else spanPkg d (p * (spanCols d * spanRows d) / parcelCount d)

/-- The package that holds a cell can answer: it is UP (07, R194). -/
def cellReachable (s : State) (d : Desc) (c : Nat) : Bool := peerUp s (parcelPkg s d (parcelOfCell d c))

/-- The cell's package has been reset since the group's launch was accepted (07, R194). -/
def cellGone (s : State) (g : Group) (c : Nat) : Bool :=
  (launchOf s g.key.launch).any (fun l => l.gone.contains (parcelPkg s g.d (parcelOfCell g.d c)))

/-- The granted slices, among which a parcel has its home slice (04, R103): of a launch of an inset, the slices of the inset's own grant
inside its sheet's (DESIGN CHOICE, log 90). With none granted, where the rule's `mod S` has no value,
they are all 256 (DESIGN CHOICE, log 73). -/
def grantedSlices (s : State) (pid : Nat) : List Nat :=
  let m := slicesOf s pid
  let l := (List.range 256).filter (fun i => m.getLsbD i)
  if l = [] then List.range 256 else l

def parcelHome (s : State) (pid : Nat) (d : Desc) (p : Nat) : Nat :=
  let px := p % parcelGrid d 0
  let py := p / parcelGrid d 0 % parcelGrid d 1
  let pz := p / parcelGrid d 0 / parcelGrid d 1
  let l := grantedSlices s pid
  l.getD (((px * 40503) ^^^ (py * 34283) ^^^ (pz * 49842)) % l.length) 0

end Sys2Proof.Machine
end

