-- ==== Sys2Proof/Machine/StepFam.lean ====
section
/-!
DEFINITION. Publishing exported registers, closing and entering steps (07, R187-R196).
-/

namespace Sys2Proof.Machine

/-! ## Published copies (07, R187) -/

def tagOf (g : Group) (odd : Bool) (r l : Nat) : Option Int :=
  (if odd then g.t1 else g.t0).getD (r * g.width + l) none

def copyVal (g : Group) (odd : Bool) (r l : Nat) : W32 :=
  (if odd then g.x1 else g.x0).getD (r * g.width + l) 0#32

def oddStep (n : Nat) : Bool := n % 2 = 1

/-- x_r of a lane has been published in the group's current step. -/
def published (g : Group) (r l : Nat) : Bool := tagOf g (oddStep g.step) r l = some (g.step : Int)

/-- P(s mod 2)_r := W_r, tagged s. -/
def publishCopy (g : Group) (r l : Nat) : Group :=
  let i := r * g.width + l
  let w := g.xw.getD i 0#32
  if oddStep g.step then { g with x1 := g.x1.set i w, t1 := g.t1.set i (some (g.step : Int)) }
  else { g with x0 := g.x0.set i w, t0 := g.t0.set i (some (g.step : Int)) }

/-- The cell of a lane (07, R181). -/
def laneCell (g : Group) (l : Nat) : Nat := if g.handler.isSome then 0 else g.key.gid * g.width + l

/-- A margin value or a close announcement enters the router; to a package that is not UP nothing goes (14, R296, R300).
The data bytes are the model's (log 19). -/
def sendStep (s : State) (kind dst slice : Nat) (d : Desc) (a b c e : Nat) : State :=
  if peerUp s dst then enterStepPacket s (mkPacket s kind dst slice 0 0
    (leBytes 4 d.job ++ leBytes 4 d.lkey.toNat ++ leBytes 4 a ++ leBytes 4 b ++ leBytes 4 c ++ leBytes 4 e ++ leBytes 4 d.span.toNat))
  else s

/-- A step number's low bits are those of a step no earlier than another's. -/
def noEarlier (a b : Nat) : Bool := (a + 2 ^ 32 - b) % 2 ^ 32 < 2 ^ 31

/-- A value lands in the reader parcel's slot of its source, register and parity; a slot never goes back to an earlier tag
(07, R192-R193). -/
def landMargin (s : State) (m : MVal) : State :=
  let same : MVal → Bool := fun x => x.launch = m.launch && x.parcel = m.parcel && x.cell = m.cell && x.reg = m.reg
    && x.tag % 2 = m.tag % 2
  if s.mbuf.any (fun x => same x && !noEarlier m.tag x.tag) then s
  else { s with mbuf := s.mbuf.filter (fun x => !same x) ++ [m] }

/-- A published value is sent towards every other core that reads it. A reader parcel on the source's own core reads it there, and its
slot is filled at once, so that it holds wherever the two parcels move (07, R193, R203). The home slice of a reader parcel on another
package is taken among the sender's own granted slices, and a value that arrives at another slice than its parcel's is dropped
(DESIGN CHOICE, log 89). -/
def sendValue (s : State) (g : Group) (r l : Nat) : State :=
  let d := g.d
  let c := laneCell g l
  let v := copyVal g (oddStep g.step) r l
  let ps := ((readerGroups d [c]).map (parcelOfGroup d)).foldl (fun l p => if l.contains p then l else l ++ [p]) []
  ps.foldl (fun (t : State) p =>
    let pkg := parcelPkg s d p
    if pkg = pkgNo s then
      match parcelOf t ⟨g.key.launch, p⟩ with
      | some q =>
        let m : MVal := ⟨q.home, q.core, g.key.launch, p, c, r, g.step % 2 ^ 32, v⟩
        if p = g.parcel then t else if q.core = g.core then landMargin t m else { t with margin := t.margin ++ [m] }
      | none => t
    else sendStep t 8 pkg (parcelHome s g.pid d p) d c r (g.step % 2 ^ 32) v.toNat) s

/-- Publishes the named registers of the focused group's lanes that are not yet published in its step. -/
def publishRegs (s : State) (todo : List (Nat × Nat)) : State :=
  todo.foldl (fun (t : State) rl =>
    if published t.g rl.1 rl.2 then t
    else
      let g' := publishCopy t.g rl.1 rl.2
      sendValue { t with g := g' } g' rl.1 rl.2) s

/-- Every exported register of every cell of a group. -/
def allRegs (g : Group) : List (Nat × Nat) :=
  ((List.range 8).map (fun r => (List.range g.lanes).map (fun l => (r, l)))).flatten

/-! ## Closing a step (07, R191) -/

/-- The close is announced to every group whose cells the group reads. -/
def announce (s : State) (g : Group) : State :=
  (groupsRead g.d g.key.gid).foldl (fun (t : State) h =>
    let pkg := parcelPkg s g.d (parcelOfGroup g.d h)
    if pkg = pkgNo s then
      if h = g.key.gid then t else { t with anns := t.anns ++ [⟨g.key, g.step, ⟨g.key.launch, h⟩⟩] }
    else sendStep t 9 pkg (parcelHome s g.pid g.d (parcelOfGroup g.d h)) g.d g.key.gid h (g.step % 2 ^ 32) 0) s

/-- The checkpoint whose cut of a launch's job is pending, or whose holds stay (20, R381, R389). -/
def cutOf (s : State) (launch : Nat) : Option Ckpt :=
  match launchOf s launch with
  | some l => s.svc.ckpts.find? (fun c => c.sheet = sheetOf l.pid && c.job = l.d.job && (c.stage = 0 || c.migrate))
  | none => none

/-- The cut of the launch's job is pending: nothing of the job is released or spawned (20, R381). -/
def cutPending (s : State) (l : Launch) : Bool :=
  s.svc.ckpts.any (fun c => c.sheet = sheetOf l.pid && c.job = l.d.job && (c.stage = 0 || c.migrate))

/-- A step close that has begun while the cut is pending reaches it; one that had begun before does not (20, R381). -/
def reachCut (s : State) (k : GKey) : State :=
  match cutOf s k.launch with
  | none => s
  | some c => { s with svc := { s.svc with ckpts := s.svc.ckpts.map (fun x =>
      if x.sheet = c.sheet && x.job = c.job && x.stage = 0 && !x.reached.contains k then
        (if x.closing.contains k then { x with closing := x.closing.filter (fun y => y != k) } else { x with reached := x.reached ++ [k] })
      else x) } }

/-- The cut holds the group's entry into the next step (20, R381). -/
def cutHolds (s : State) (k : GKey) : Bool := (cutOf s k.launch).elim false (fun c => c.reached.contains k)

/-- Closes the focused group's step, as one act: memory, copies, announcement. -/
def closeStep (s : State) : State :=
  let s1 := snapshotPoint (publicationPoint s s.g 5) s.g 5
  let s2 := publishRegs s1 (allRegs s1.g)
  let s3 := announce s2 s2.g
  reachCut { s3 with g := { s3.g with isOpen := false } } s3.g.key

/-- Every cell of the group's reader set has closed its step, and no cut holds the group (07, R192; 20, R381). -/
def mayEnter (s : State) (g : Group) : Bool :=
  !cutHolds s g.key && (readerGroups g.d (cellsOfGroup g.d g.key.gid)).all (fun h =>
    h = g.key.gid || g.closedBy.any (fun c => c.1 = h && g.step ≤ c.2))

/-- Entry into the next step: an acquire at fabric scope (07, R189; 12, R264). -/
def enterStep (s : State) : State :=
  takeSnapshot { s with g := { s.g with step := s.g.step + 1, isOpen := true } } s.g 5

/-- `step` and `stepq` up to the close (07, R195). -/
def closing (s : State) (i : Instr) (k : State → Res) : Res :=
  if s.g.handler.isSome || s.g.park.isSome || s.g.super || !reconvergedG s.g then trapS s .stepDiv
  else if !clausesDone s then waitFor s .earlier
  else if !s.g.isOpen then k s
  else match (cur s).wait with
    | some (.stepClose told) => closeWritten s i told k
    | _ => match writeBack s i with
      | some s' => waitFor s' (.stepClose false)
      | none => closeWritten s i false k
where
  closeWritten (s : State) (i : Instr) (told : Bool) (k : State → Res) : Res :=
    if !storesAccepted s s.g.key then waitFor s (.stepClose told)
    else match (if told then none else tellPeers s i 5) with
      | some s' => waitFor s' (.stepClose true)
      | none => k (closeStep s)
  reconvergedG (g : Group) : Bool := !(pathOf g (!s.slot)).occ && g.spillCnt = 0

/-- step (07, R195). -/
def execStep (s : State) : Res :=
  closing s .step (fun s' => if mayEnter s' s'.g then .next (advance (enterStep s')) else waitFor s' .stepEntry)

/-- stepq (07, R195): it waits as `step` does while a cut is pending (20, R381). -/
def execStepq (d : BitVec 6) (s : State) : Res :=
  needS s [d] (closing s (.stepq d) (fun s' =>
    if mayEnter s' s'.g then .next (advance (ws (enterStep s') d 1#64))
    else if (cutOf s' s'.g.key.launch).isSome then waitFor s' .cutHold
    else .next (advance (ws s' d 0#64))))

/-! ## The events of the step rule -/

/-- A path of the group waits to close its step. -/
def atClose (s : State) (k : GKey) : Bool :=
  match getG s k with
  | some g => insideClose g && g.spillCnt = 0 && g.p0.occ != g.p1.occ && storesAccepted s k
      && (match g.stop with
        | .running => true
        | .stopping _ => true
        | _ => false)
  | none => false

/-- The close of the focused group's step goes on: the peers are told first. -/
def finishStep (s : State) : State :=
  match (if (cur s).wait = some (.stepClose true) then none else tellPeers s .step 5) with
  | some t => setCur t { cur t with wait := some (.stepClose true) }
  | none => closeStep s

/-- STEP_CLOSE: publication, copies and announcement as one act (07, R191). A group inside a close completes it
whatever stop is asked for. -/
def execStepClose (k : GKey) (s : State) : Res :=
  if atClose s k then .next (withFocus s k ((getG s k).elim false (fun g => g.p1.occ)) finishStep) else .next s

/-- STEP_ENTRY: a closed group whose reader set has closed enters the next step (07, R192). -/
def execStepEntry (k : GKey) (s : State) : Res :=
  match getG s k with
  | some g =>
    if !g.isOpen && mayEnter s g && g.stop = .running && (pathOf g g.p1.occ).wait = some .stepEntry then
      .next (withFocus s k g.p1.occ (fun t => advance (enterStep t)))
    else .next s
  | none => .next s

/-- CLOSE_ANNOUNCEMENT: the n-th announcement on its way reaches its group (07, R191, R193). -/
def execCloseAnnouncement (n : Nat) (s : State) : Res :=
  match s.anns[n]? with
  | none => .next s
  | some a =>
    .next (updG { s with anns := s.anns.eraseIdx n } a.dst (fun g =>
      { g with closedBy := assocSet g.closedBy a.src.gid (max a.step (assocD 0 g.closedBy a.src.gid)) }))

/-- The values that a slice holds in flight: 48 KiB of them, 8 bytes each, as 128 bytes hold the sixteen of a cell (04, R87; 07, R193).
Those behind are on their way to it, in order (log 77). -/
def inSlice (s : State) (slice : Nat) : List MVal := (s.margin.filter (fun m => m.slice = slice)).take 6144

/-- A reply that the slice sent to the core has not arrived: what it forwards now arrives after it (04, R102). -/
def replyAhead (s : State) (slice core : Nat) : Bool :=
  s.ops.any (fun q => q.core = core && !q.returned && !isTld q
    && (q.cls = .load || q.cls = .store || q.cls = .atomic || q.cls = .halo)
    && q.parts.all (fun p => p.st = .done) && q.parts.any (fun p => p.kind = .dev slice || p.kind = .host slice))

/-- MARGIN_VALUE_ARRIVAL: the oldest of a slice's values for a parcel reaches the core's margin buffer (04, R100, R102; 07, R193). -/
def execMarginValueArrival (slice n : Nat) (s : State) : Res :=
  match (inSlice s slice)[n]? with
  | none => .next s
  | some m =>
    -- values of one reader parcel keep their order
    if ((inSlice s slice).take n).any (fun x => x.launch = m.launch && x.parcel = m.parcel) || replyAhead s slice m.core then .next s
    else .next (landMargin { s with margin := s.margin.erase m } m)

end Sys2Proof.Machine
end

