-- ==== Sys2Proof/Machine/Flags.lean ====
section
/-!
DEFINITION. Rounding modes, rounding words and number flags of the lane instructions (02, R42-R47; 08, R208).
-/

namespace Sys2Proof.Machine

/-- The mode of a rounding result: the word's, or GMODE.RM (02, R42). -/
def modeOf (s : State) (f : LaneF) : RMode :=
  if f.rnd = 0#3 then rmodeOf ((cur s).gmode.extractLsb' 0 3) else rmodeOf f.rnd

def fziOf (s : State) : Bool := (cur s).gmode.getLsbD 3
def fzoOf (s : State) : Bool := (cur s).gmode.getLsbD 4

/-- The fixed wide format of a type code, `f64 f32 f16 bf16` (01, R23; 02, R40). -/
def wideFmt (t : Nat) : Fmt := if t = 0 then fmtF64 else if t = 1 then fmtF32 else if t = 2 then fmtF16 else fmtBF16

/-- The integer format of a type code: POL 3 of its own width (08, R220). -/
def intFmt (t : Nat) : Fmt := ⟨isSignedTy t, 0, tyWidth t - 1, 3, 0, false⟩

/-- Word `j` from now of a cell's rounding stream (02, R43-R44). -/
def roundWord (g : Group) (l j : Nat) : Nat :=
  (philoxWord (g.seed.getD l 0#64) (laneCell g l) 1 (g.rnd.getD l 0#64 + BitVec.ofNat 64 j)).toNat

/-- Each lane has drawn `n` words of its rounding stream. -/
def drawRound (g : Group) (act : List Nat) (n : Nat) : Group :=
  { g with rnd := act.foldl (fun r l => r.set l (r.getD l 0#64 + BitVec.ofNat 64 n)) g.rnd }

/-- An integer result of type `t`: clamped with OF, or reduced modulo 2^W (08, R208). -/
def intRes (t : Nat) (sat : Bool) (v : Int) : Nat × FFlags :=
  let w := tyWidth t
  if sat then
    let r := fmtIntRange (intFmt t)
    let c := clampInt r.1 r.2 v
    (bitsOfInt w c, if c = v then {} else fflagOF)
  else (bitsOfInt w v, {})

/-- The integer that a W-bit pattern of type `t` stands for. -/
def tyInt' (t v : Nat) : Int := intOf (isSignedTy t) (tyWidth t) v

/-- The sign of an exact zero from unlike zeros: minus under round down (08, R215). -/
def zeroSign (md : RMode) : Bool := md = .dn

/-- Negation of a W-bit pattern (08, R207). -/
def negArith (w : Nat) (n : Bool) (v : Nat) : Nat := if n then (2 ^ w - v % 2 ^ w) % 2 ^ w else v % 2 ^ w
def negBits (w : Nat) (n : Bool) (v : Nat) : Nat := if n then 2 ^ w - 1 - v % 2 ^ w else v % 2 ^ w
def negSign (w : Nat) (n : Bool) (v : Nat) : Nat := if n then (v % 2 ^ w) ^^^ 2 ^ (w - 1) else v % 2 ^ w

/-- Two flags as one bit each: NV and DZ. -/
def fflagDZ : FFlags := { dz := true }

end Sys2Proof.Machine
end

