-- ==== Sys2Proof/Machine/Barrier.lean ====
section
/-!
DEFINITION. Barrier objects and the bar family (06, R172-R177).
-/

namespace Sys2Proof.Machine

/-- The cause that a recorded code names (06, R173). -/
def causeOfCode (n : Nat) : Cause := (codeCause n).getD .barOvf

/-- The fields of a barrier object (06, R172). -/
structure Bar where
  pend : Nat
  arr : Nat
  phase : Bool
  err : Bool
  perr : Bool
  cause : Nat
  deriving DecidableEq, Repr

def barRead (s : State) (core off : Nat) : Bar :=
  let st := stashRead s core (off + 8) 1
  { pend := stashRead s core off 4, arr := stashRead s core (off + 4) 4, phase := st % 2 = 1, err := st / 2 % 2 = 1
    perr := st / 4 % 2 = 1, cause := stashRead s core (off + 10) 2 % 1024 }

def barBytes (b : Bar) : List Byte :=
  leBytes 4 b.pend ++ leBytes 4 b.arr ++ leBytes 1 (b2n b.phase + 2 * b2n b.err + 4 * b2n b.perr) ++ leBytes 1 0
    ++ leBytes 2 b.cause ++ leBytes 4 0

def barWrite (s : State) (core off : Nat) (b : Bar) : State := stashWrite s core off (barBytes b)

/-- `record` and PERR (06, R173): the first cause of the phase is kept. -/
def barError (b : Bar) (c : Cause) : Bar := { b with perr := true, cause := if b.perr then b.cause else causeCode c }

/-- `decrement` (06, R173). -/
def barDecr (b : Bar) (d : Nat) : Bar :=
  if d = 0 then b
  else
    let b1 := if b.pend < d then { barError b .barOvf with pend := 0 } else { b with pend := b.pend - d }
    if b1.pend = 0 then
      { b1 with phase := !b1.phase, err := b1.perr, perr := false, pend := b1.arr
                cause := if b1.perr then b1.cause else 0 }
    else b1

def barCount (s : State) (core off d : Nat) : State := barWrite s core off (barDecr (barRead s core off) d)

/-- An engine's access ends with a fault: the cause is recorded, then what is left is counted (06, R168; 14, R310). -/
def barFail (s : State) (core off d : Nat) (c : Cause) : State :=
  barWrite s core off (barDecr (barError (barRead s core off) c) d)

/-- The checks of a barrier instruction's offset (06, R174). -/
def barAt (s : State) (a : SReg) (k : Nat → Res) : Res :=
  let off := (rs s a).toNat
  if off % 16 != 0 then trapS s .align off
  else if !inAllot s s.g off 16 then trapS s .stashRange (stashWindow + off % 2 ^ 20)
  else k off

/-- binit (06, R174). -/
def execBinit (d a : BitVec 6) (s : State) : Res :=
  needS s [d, a] (barAt s a (fun off =>
    let n := (rs s d).toNat
    if n = 0 || 2 ^ 32 ≤ n then trapS s .barOvf
    else .next (advance (barWrite s s.g.core off
      { pend := n, arr := n, phase := false, err := false, perr := false, cause := 0 }))))

/-- bexpect (06, R174). -/
def execBexpect (d a : BitVec 6) (s : State) : Res :=
  needS s [d, a] (barAt s a (fun off =>
    let b := barRead s s.g.core off
    if 2 ^ 32 ≤ b.pend + (rs s d).toNat then trapS s .barOvf
    else .next (advance (barWrite s s.g.core off { b with pend := b.pend + (rs s d).toNat }))))

/-- barrive (06, R173-R174): it traps with BAR_OVF and changes nothing where the decrement would exceed PEND. -/
def execBarrive (a : BitVec 6) (s : State) : Res :=
  needS s [a] (barAt s a (fun off =>
    fenced s 2
      (if (barRead s s.g.core off).pend < 1 then trapS s .barOvf
       else .next (advance (barCount s s.g.core off 1)))))

/-- bwait (06, R175): it traps after itself on an error. -/
def execBwait (d a : BitVec 6) (s : State) : Res :=
  needS s [d, a] (barAt s a (fun off =>
    let b := barRead s s.g.core off
    if b.phase = (rs s d).getLsbD 0 then waitFor s (.barrier off b.phase)
    else if b.err then
      .next (takeTrap (advance s) { cause := causeOfCode b.cause, slot := s.slot, addr := stashWindow + off })
    else .next (advance s)))

/-- btest (06, R174). -/
def execBtest (d a : BitVec 6) (s : State) : Res :=
  needS s [d, a] (barAt s a (fun off =>
    let b := barRead s s.g.core off
    .next (advance (ws s d (BitVec.ofNat 64 (b2n b.phase + 2 * b2n b.err))))))

/-- mfree (06, R177). -/
def execMfree (i : BitVec 4) (s : State) : Res :=
  match parcelOf s (parcelKey s.g) with
  | some p => .next (advance (setParcel s { p with bfree := p.bfree ||| (1#16 <<< i.toNat) }))
  | none => .next (advance s)

end Sys2Proof.Machine
end

