-- ==== Sys2Proof/Machine/Stream.lean ====
section
/-!
DEFINITION. Streamer commands: their words, the checks of acceptance, the status register q1 (06, R162-R170).
-/

namespace Sys2Proof.Machine

/-! ## The words of a command (06, R163) -/

def cmdKind (c : Cmd) : Nat := c.w0.toNat / 2 ^ 56
def cmdBar (c : Cmd) : Nat := 16 * (c.w0.toNat / 2 ^ 40 % 2 ^ 16)
def cmdFlags (c : Cmd) : Nat := c.w0.toNat / 2 ^ 32 % 256
def cmdNB (c : Cmd) : Bool := cmdFlags c % 2 = 1
def cmdARV (c : Cmd) : Bool := cmdFlags c / 2 % 2 = 1
def cmdST (c : Cmd) : Bool := cmdFlags c / 4 % 2 = 1
def cmdMAP (c : Cmd) : Bool := cmdFlags c / 8 % 2 = 1
def cmdLen (c : Cmd) : Nat := c.w0.toNat % 2 ^ 32
def cmdSrc (c : Cmd) : Nat := c.w1.toNat
def cmdDst (c : Cmd) : Nat := c.w2.toNat
def cmdArg (c : Cmd) (lo n : Nat) : Nat := c.w3.toNat / 2 ^ lo % 2 ^ n

/-- The operation of a map command, its entry (06, R169). -/
def mapOp (c : Cmd) : Nat := cmdArg c 4 2
def mapEntry (c : Cmd) : Nat := cmdArg c 0 4

/-- A range against the stash window: inside, outside, or across its edge. -/
inductive Where where
  | inside | outside | across
  deriving DecidableEq, Repr

def whereIs (ga n : Nat) : Where :=
  if stashWindow ≤ ga && ga + n ≤ stashWindow + 2 ^ 20 then .inside
  else if ga + n ≤ stashWindow || stashWindow + 2 ^ 20 ≤ ga then .outside
  else .across

/-- The source range of a kind whose range the words fix (06, R167). -/
def cmdSrcLen (c : Cmd) : Nat :=
  match cmdKind c with
  | 3 => (cmdArg c 0 16 - 1) * cmdArg c 16 32 + cmdLen c / (cmdArg c 0 16)
  | 4 => (cmdArg c 0 16 - 1) * cmdArg c 48 16 + cmdArg c 16 16
  | _ => cmdLen c

/-- Fields and limits of each kind (06, R167, R169). -/
def cmdFieldsOk (c : Cmd) : Bool :=
  let len := cmdLen c
  if cmdMAP c then
    cmdArg c 6 58 = 0 &&
      (if mapOp c = 0 then len % 128 = 0 && 1 ≤ len && whereIs (cmdSrc c) len != .inside
       else mapOp c = 1 && cmdSrc c = 0 && cmdDst c = 0 && len = 0)
  else 1 ≤ len && (match cmdKind c with
    | 1 => c.w3 = 0#64
    | 2 => cmdArg c 20 12 = 0 && cmdArg c 48 16 = 0 && 1 ≤ cmdArg c 32 16 && len % cmdArg c 32 16 = 0
    | 3 =>
      let r := cmdArg c 0 16
      let e := 2 ^ cmdArg c 48 2
      cmdArg c 50 14 = 0 && 1 ≤ r && len % (r * e) = 0 && len / (r * e) * e ≤ cmdArg c 16 32
    | 4 => 1 ≤ cmdArg c 0 16 && 1 ≤ cmdArg c 16 16 && cmdArg c 16 16 ≤ cmdArg c 32 16
        && cmdArg c 16 16 ≤ cmdArg c 48 16 && len = cmdArg c 0 16 * cmdArg c 32 16
    | 5 => cmdSrc c = 0
    | 6 => cmdArg c 36 28 = 0 && 1 ≤ cmdArg c 16 16 && cmdArg c 16 16 ≤ 4096
    | _ => false)

/-- The stash ranges that a command requires (06, R167, R169), as (address, bytes). -/
def cmdStashRanges (c : Cmd) : List (Nat × Nat) :=
  let dst := (cmdDst c, cmdLen c)
  if cmdMAP c then (if mapOp c = 0 then [dst] else [])
  else match cmdKind c with
    | 2 => [dst]
    | 3 => [dst]
    | 4 => [dst]
    | 6 => [(cmdSrc c, cmdLen c), dst]
    | _ => []

/-- The ranges that a command names, wherever they lie. An index selects a GATHER's rows as they are read. -/
def cmdRanges (c : Cmd) : List (Nat × Nat) :=
  let dst := (cmdDst c, cmdLen c)
  let src := (cmdSrc c, cmdSrcLen c)
  if cmdMAP c then (if mapOp c = 0 then [src, dst] else [])
  else match cmdKind c with
    | 2 => [dst]
    | 5 => [dst]
    | _ => [src, dst]

/-- The stash ranges that must lie in the producer parcel's allotment: all that the command names (06, R164). -/
def cmdOwnRanges (c : Cmd) : List (Nat × Nat) :=
  (cmdRanges c).filter (fun r => whereIs r.1 r.2 = .inside)
    ++ (if cmdKind c = 2 && !cmdMAP c then
        [(stashWindow + cmdArg c 0 20, 4 * (cmdLen c / cmdArg c 32 16))] else [])

/-- The checks of 06, R164, in order. -/
def cmdCheck (s : State) (g : Group) (c : Cmd) : Option Cause :=
  let kindOk := 1 ≤ cmdKind c && cmdKind c ≤ 6
  let bad := !kindOk || cmdFlags c / 16 != 0 || (cmdMAP c && cmdKind c != 1) || (cmdNB c && cmdARV c)
    || (cmdNB c && cmdBar c != 0) || !cmdFieldsOk c || (cmdStashRanges c).any (fun r => whereIs r.1 r.2 = .outside)
  let out := (!cmdNB c && !inAllot s g (cmdBar c) 16)
    || (cmdRanges c).any (fun r => whereIs r.1 r.2 = .across)
    || (cmdOwnRanges c).any (fun r => !inAllot s g (r.1 - stashWindow) r.2)
  let mis := if cmdMAP c then mapOp c = 0 && (cmdSrc c % 128 != 0 || cmdDst c % 128 != 0)
    else cmdKind c = 2 && cmdArg c 0 20 % 4 != 0
  if bad then some .qBaddesc else if out then some .stashRange else if mis then some .align else none

/-- An accepted command (06, R164): the lines of its destination in the producer's stash are empty; those of an MCAST lie in the
receivers' (06, R177). -/
def acceptCmd (s : State) (g : Group) (p : Parcel) (c : Cmd) : State :=
  let s1 := setParcel s { p with partial_ := [], cmds := p.cmds ++ [{ c with seq := p.seq, at_ := s.nextId }]
                                 seq := (p.seq + 1) % 8192 }
  if cmdKind c != 6 && whereIs (cmdDst c) (cmdLen c) = .inside then
    markEmpty s1 g.core (cmdDst c - stashWindow) (cmdLen c)
  else s1

/-- One word pushed to q0 (06, R162, R164): none while sixteen commands wait to start. -/
def pushQ0 (s : State) (g : Group) (v : W64) : Option (Except Cause State) :=
  match parcelOf s (parcelKey g) with
  | none => some (.error .streamRights)
  | some p =>
    if g.key.gid != p.prodGid || g.handler.isSome then some (.error .streamRights)
    else if 16 ≤ p.cmds.length then none
    else match p.partial_ with
      | [a, b, c] =>
        let cmd : Cmd := { seq := 0, w0 := a, w1 := b, w2 := c, w3 := v }
        match cmdCheck s g cmd with
        | some x => some (.error x)
        | none => some (.ok (acceptCmd s g p cmd))
      | l => some (.ok (setParcel s { p with partial_ := l ++ [v] }))

/-- A trapped command is discarded whole (06, R164). -/
def dropPartial (s : State) (g : Group) : State :=
  match parcelOf s (parcelKey g) with
  | none => s
  | some p => if p.partial_.length = 3 && g.key.gid = p.prodGid then setParcel s { p with partial_ := [] } else s

/-- A status word reaches q1, or is dropped when q1 is full (06, R170). -/
def pushStatus (p : Parcel) (c : Cmd) (cause done : Nat) : Parcel :=
  if 16 ≤ p.q1.length then { p with lost := true }
  else
    let w := cmdKind c * 2 ^ 56 + cause * 2 ^ 46 + b2n p.lost * 2 ^ 45 + c.seq * 2 ^ 32 + done % 2 ^ 32
    { p with q1 := p.q1 ++ [BitVec.ofNat 64 w], lost := false }

end Sys2Proof.Machine
end

