-- ==== Sys2Proof/Machine/Trace.lean ====
section
/-!
DEFINITION. Traverse samples: the stages of a request and its trace record (04, R101-R105; 21, R396-R397).
-/

namespace Sys2Proof.Machine

/-- The link between two adjacent compute dies (04, R105; 21, R397). -/
def dieLink (a b : Nat) : Nat :=
  match min a b, max a b with
  | 0, 1 => 0
  | 1, 3 => 1
  | 2, 3 => 2
  | _, _ => 3

/-- The die between two diagonal ones that the requests of a core to a slice, or the replies of a slice to a core, pass: a free choice
that each pair keeps (04, R105). -/
def midDie (reply : Bool) (core slice : Nat) : Nat :=
  let a := min (dieOfCore core) (slice / 64)
  if Config.firstRoute reply core slice then (if a % 3 = 0 then 1 else 0) else (if a % 3 = 0 then 2 else 3)

/-- Butterflies of kind `k` and links from one die to another, through `m` where they lie diagonally; the first die's butterfly is
left out. -/
def dieHops (k a b m : Nat) : List (Nat × Nat) :=
  if a = b then []
  else if a + b = 3 then
    [(4, dieLink a m), (k, m), (4, dieLink m b), (k, b)]
  else [(4, dieLink a b), (k, b)]

/-- The request was never answered: it timed out, its peer was reset, or it could not be sent (14, R300-R305). -/
def unanswered (p : Part) : Bool :=
  p.err.any (fun e => e.1 = .fabTimeout || e.1 = .fabPeerReset || e.1 = .fabUnreach)

/-- The stages of a request, (kind, unit), in the order they are passed. Of the routers on the way to a peer the record
names this package's and the peer's; a walk comes first; of one that was never answered the record names those that this package knows
it to have passed (21, R406; log 21). -/
def stagesOf (s : State) (o : Op) (p : Part) : List (Nat × Nat) :=
  let c := dieOfCore o.core
  (if p.walked then [(7, c / 2)] else []) ++ match p.kind with
  | .dev sl =>
    let d := sl / 64
    [(1, c)] ++ dieHops 1 c d (midDie false o.core sl) ++ [(3, sl)] ++ (if p.missed then [(5, p.fa / 256 % 2 ^ 32 % 12)] else []) ++ [(2, d)]
      ++ dieHops 2 d c (midDie true o.core sl)
  | .host sl =>
    let d := sl / 64
    [(1, c)] ++ dieHops 1 c d (midDie false o.core sl) ++ [(3, sl)] ++ (if p.wr || p.onSlice then [] else [(4, 4 + d), (4, 4 + d)]) ++ [(2, d)] ++ dieHops 2 d c (midDie true o.core sl)
  | .peer n => if unanswered p then [(1, c), (4, 4 + c), (6, pkgNo s)] else [(1, c), (4, 4 + c), (6, pkgNo s), (6, n), (3, homeSlice p.fa), (6, n), (6, pkgNo s), (4, 4 + c), (2, c)]
  | _ => []

/-- The stage entries: kind, unit, queueing cycles, which are free (log 9). More than eight fold. -/
def stageWords (free : Nat) (l : List (Nat × Nat)) : List Nat :=
  let e : List (Nat × Nat × Nat) := (l.zip (List.range l.length)).map (fun x => (x.1.1, x.1.2, (Config.cycles (free + x.2)).toNat))
  let w : Nat × Nat × Nat → Nat := fun x => x.1 * 2 ^ 24 + x.2.1 % 256 * 2 ^ 16 + x.2.2 % 2 ^ 16
  if e.length ≤ 8 then e.map w
  else (e.take 7).map w ++ [w (15, 0, min 65535 ((e.drop 7).map (fun x => x.2.2)).sum)]

/-- The record of a sampled request (21, R391, R397). -/
def traverseRecord (s : State) (o : Op) (p : Part) : State :=
  let l := stagesOf s o p
  let ws := stageWords s.free l
  let flg := b2n (p.wr && o.aop = none) + 2 * b2n p.err.isSome + 4 * b2n (8 < l.length)
  let rec_ := padTo 128 (traceHeader s 1 (b2n o.slot + 2 * b2n (o.clause != 0)) o.core o.g.gid o.g.launch o.cmask o.pc
    ++ leBytes 8 p.ga ++ leBytes 1 ws.length ++ leBytes 1 flg ++ zeros 6 ++ (ws.map (leBytes 4)).flatten)
  traceRecord { s with free := s.free + l.length } o.core o.pid rec_

/-- Writes the record of part `j` once it has been answered. -/
def sampleDone (s : State) (id j : Nat) : State :=
  match opOf s id with
  | none => s
  | some o => match o.parts[j]? with
    | none => s
    | some p => if p.sampled && p.st = .done then traverseRecord s o p else s

end Sys2Proof.Machine
end

