-- ==== Sys2Proof/Machine/Queue.lean ====
section
/-!
DEFINITION. The queue family: bindings, pushes and pops of q0-q7 by the scalar stream (05, R138-R144; 13, R282).
-/

namespace Sys2Proof.Machine

def ctxOf (s : State) (desc : Nat) : Option QCtx := s.qctxs.find? (fun q => q.desc = desc)

def setCtx (s : State) (q : QCtx) : State :=
  { s with qctxs := s.qctxs.map (fun x => if x.desc = q.desc then q else x) }

def ctxCount (q : QCtx) : Nat := (q.tail + 2 ^ 32 - q.head) % 2 ^ 32

def elemSize (esz : Nat) : Nat := if esz = 0 then 4 else 8

/-- The generic address of element `i` (05, R139). -/
def elemGa (q : QCtx) (i : Nat) : Nat := q.base + i % q.cap * elemSize q.esz

/-- The local address of an element, translated for the partition whose group made the context (05, R143). -/
def elemAt (s : State) (q : QCtx) (i : Nat) (acc : Acc) : Except (Cause × Bool) Nat :=
  match xlate s q.core q.pid (elemGa q i) acc with
  | .error e => .error e
  | .ok fa =>
    match classify s q.pid fa with
    | .ok (.dev _, a) => if isDoor s a (elemSize q.esz) then .error (.prot, false) else .ok a
    | .ok _ => .error (.prot, false)
    | .error e => .error e

/-- Why a slice access of a queue is not performed: no room or no element; others began to wait before; it waits, its line or a
hold being the reason; its page is not there; another fault. -/
inductive QFail where
  | full
  | turn
  | held (s : State)
  | page (pid : Nat) (f : Frame)
  | prot
  deriving DecidableEq, Repr

def elemFail (q : QCtx) (i : Nat) (acc : Acc) (e : Cause × Bool) : QFail :=
  match causeKind e.1 with
  | .serviceable => .page q.pid { cause := e.1, stg := e.2, acc := acc, addr := elemGa q i }
  | _ => .prot

/-- A request of the core to a slice of the package could arrive now: nothing of its own holds it back. -/
def couldLand (s : State) (o : Op) (p : Part) : Bool :=
  match p.kind with
  | .dev sl => !sliceIsolated s sl && !pinnedAgainst s o.core p.fa p.size && !(p.wr && copyPending s p.fa p.size)
      && !(o.aop.isSome && replayHolds s (jobOf s o.g.launch) 2 (fabricAddr s p.fa) o.g.launch o.g.gid (atomLane o p))
      && (isDoor s p.fa p.size || (lineOf s sl p.fa).isSome || (findWay s sl p.fa o.pid none).isSome)
  | .host sl => !sliceIsolated s sl
  | _ => false

/-- An earlier request to a slice has not arrived there: the group's own, or one of another group of its core that could arrive now
(04, R102; 12, R270, R272). -/
def sliceTodo (s : State) (k : GKey) (core sl : Nat) : Bool :=
  s.ops.any (fun o => o.parts.any (fun p => p.st = .todo && (p.kind = .dev sl || p.kind = .host sl)
    && (o.g = k || (o.core = core && !isTst o && couldLand s o p))))

/-- A retry response, counted at the slice (12, R268). -/
def countRetry (s : State) (sl : Nat) : State := { s with retries := assocSet s.retries sl (assocD 0 s.retries sl + 1) }

/-- An access that a core makes at the slices by no request of its own is performed now, with its line's bits set, or waits: for the
group's earlier accesses there, a self-test, a pinned line, a checkpoint's copy, a fill (04, R89-R90; 12, R268, R272; 20, R384; 22,
R415). -/
def atSlice (s : State) (k : GKey) (core pid a n : Nat) (wr : Bool) : Except State State :=
  let sl := homeSlice a
  if sliceTodo s k core sl || sliceIsolated s sl then .error s
  else if pinnedAgainst s core a n then .error (countRetry s sl)
  else if wr && copyPending s a n then .error (holdCopy s a n)
  else ready s pid a n wr false

/-- The path in focus, or its push buffer, still waits to push to the queue of a descriptor. -/
def wantsPush (g : Group) (desc : Nat) : Bool :=
  g.qb.any (fun b => match b with
    | some q => q.desc = desc && q.pushb != []
    | none => false)
    || [g.p0, g.p1].any (fun p => p.occ && (match p.wait with
      | some (.queueFull n) => 4 ≤ n && ((g.qb.getD (n - 4) none).map QBind.desc) = some desc
      | _ => false))

/-- Pushes that another group began to wait for come first (05, R143). -/
def pushTurn (s : State) (q : QCtx) (k : GKey) : Bool :=
  match q.waiters.find? (fun w => w.n = 1 && (match getG s w.g with
    | some g => g.stop = .running && wantsPush g q.desc
    | none => false)) with
  | some w => w.g = k
  | none => true

/-- The pop of the queue that a replaying log of the group's job names next (21, R405). -/
def recordedPop (s : State) (q : QCtx) (g : Group) : Option LogRec :=
  (logOf s g.d.job).bind (fun l => if logMode l = 2 then replayNext l 1 (fabricAddr s q.desc) else none)

/-- The waiting group that pops next: the oldest, of those that no log holds (05, R143; 21, R405). -/
def popFirst (s : State) (q : QCtx) : Option QWait :=
  q.waiters.find? (fun w => w.n = 0 && (getG s w.g).elim true (fun g =>
    (recordedPop s q g).elim true (fun r => r.launch = g.key.launch && r.group = g.key.gid % 2 ^ 32)))

/-- The request of a core for an element at the slice, now that it is answered: it is numbered and, where it is sampled, recorded as an
atomic's (05, R143; 21, R396). -/
def queueRequest (s : State) (q : QCtx) (g : Group) (slot : Bool) (i a : Nat) (wr : Bool) : State :=
  let p := pathOf g slot
  let part : Part := { ga := elemGa q i, fa := a, size := elemSize q.esz, kind := .dev q.slice, wr := wr, st := .done }
  let r := numbered s { id := 0, g := g.key, slot := slot, tag := p.tag, pc := p.pc.toNat, core := g.core, pid := g.pid
                        cls := if wr then .store else .load, instr := .nop, mask := p.mask, cmask := p.mask, parts := [part]
                        aop := some .swap }
  r.2.parts.foldl (fun t x => if x.sampled then traverseRecord t r.2 x else t) r.1

/-- A pop at the slice by a group (05, R143): the oldest waiting group first; recorded under 21, R403. A replaying log gives it the
element that its record names (21, R405). A poisoned element is a fault of its access (04, R93). -/
def slicePop (s : State) (q : QCtx) (g : Group) (slot : Bool) (lane : Nat) : Except QFail (State × Nat) :=
  let named := recordedPop s q g
  let first : Bool := named.isSome || (popFirst s q).elim true (fun w => w.g = g.key)
  let i := (named.map LogRec.ord).getD q.head
  if ctxCount q = 0 || ctxCount q ≤ (i + 2 ^ 32 - q.head) % 2 ^ 32 then .error .full
  else if !first then .error .turn
  else if replayHolds s g.d.job 1 (fabricAddr s q.desc) g.key.launch g.key.gid lane || sliceTodo s g.key g.core q.slice then .error (.held s)
  else match elemAt s q i .read with
    | .error e => .error (elemFail q i .read e)
    | .ok a => match atSlice s g.key g.core q.pid a (elemSize q.esz) false with
      | .error t => .error (.held t)
      | .ok s0 =>
        if (poisoned s0 a (elemSize q.esz)).isSome then .error .prot
        else
          let s1 := forceAtomic s0 g.core a (elemSize q.esz)
          let v := cellRead s1.mem a (elemSize q.esz)
          let s2 := setCtx s1 { q with head := (q.head + 1) % 2 ^ 32
                                       waiters := q.waiters.filter (fun w => !(w.n = 0 && w.g = g.key)) }
          let s3 := logAppend s2 g.d.job g.pid g.core
            ⟨1, fabricAddr s q.desc, q.head, g.key.launch, g.key.gid % 2 ^ 32, lane⟩
          .ok (queueRequest (replayDone s3 g.d.job 1 (fabricAddr s q.desc)) q g slot i a false, v)

/-- A push at the slice by a group (05, R143). -/
def slicePush (s : State) (q : QCtx) (g : Group) (slot : Bool) (v : Nat) : Except QFail State :=
  if q.cap ≤ ctxCount q then .error .full
  else if !pushTurn s q g.key then .error .turn
  else if sliceTodo s g.key g.core q.slice then .error (.held s)
  else match elemAt s q q.tail .write with
    | .error e => .error (elemFail q q.tail .write e)
    | .ok a => match atSlice s g.key g.core q.pid a (elemSize q.esz) true with
      | .error t => .error (.held t)
      | .ok s0 => .ok (queueRequest (setCtx (writeNow (forceAtomic s0 g.core a (elemSize q.esz)) a (leBytes (elemSize q.esz) v)) { q with
          tail := (q.tail + 1) % 2 ^ 32, waiters := q.waiters.filter (fun w => !(w.n = 1 && w.g = g.key)) }) q g slot q.tail a true)

/-- The group begins to wait for an element (0), or for room (1). -/
def joinWaiters (s : State) (q : QCtx) (k : GKey) (slot : Bool) (n : Nat) : State :=
  if q.waiters.any (fun w => w.n = n && w.g = k) then s else setCtx s { q with waiters := q.waiters ++ [⟨k, slot, n⟩] }

/-- The scalar access that a slice does not perform waits or traps (05, R142-R143); `full` where the queue itself is the reason,
`turn` where others come first. -/
def queueFail (s : State) (e : QFail) (full turn : Res) : Res :=
  match e with
  | .full => full
  | .turn => turn
  | .held t => waitFor t .slice
  | .page pid f => waitFor (pageRequest s pid none f) (.page pid (f.addr / 4096) f.acc)
  | .prot => trapS s .prot

def bindOf (g : Group) (n : Nat) : Option QBind := g.qb.getD (n - 4) none

def setBind (g : Group) (n : Nat) (b : Option QBind) : Group := { g with qb := g.qb.set (n - 4) b }

/-! ## Binding (05, R140-R141) -/

/-- The binding is the last one of its context, whose release writes the descriptor (05, R141). -/
def lastBind (s : State) (desc : Nat) (k : GKey) (n : Nat) : Option QCtx :=
  (ctxOf s desc).bind (fun q => if q.binds.erase (k, n) = [] then some q else none)

/-- A binding of a group goes. With the last one HEAD and TAIL go back to the descriptor as atomics, once the slice performs them:
till then it waits; at a door they fault (05, R124, R141; 13, R282; 16, R323). -/
def ctxRelease (s : State) (g : Group) (desc n : Nat) : Except QFail State :=
  match ctxOf s desc with
  | none => .ok s
  | some q =>
    let q' := { q with binds := q.binds.erase (g.key, n), waiters := q.waiters.filter (fun w => w.g != g.key) }
    if (lastBind s desc g.key n).isNone then .ok (setCtx s q')
    else if isDoor s (desc + 16) 8 then .error .prot
    else match atSlice s g.key g.core g.pid (desc + 16) 8 true with
      | .error t => .error (.held t)
      | .ok t => .ok { writeNow (forceAtomic t g.core (desc + 16) 8) (desc + 16) (leBytes 4 q.head ++ leBytes 4 q.tail) with
          qctxs := t.qctxs.filter (fun x => x.desc != desc) }

/-- Releases queue register `n` of the focused group: what was left in the pop buffer is discarded. -/
def unbind (s : State) (n : Nat) : Except QFail State :=
  match bindOf s.g n with
  | none => .ok s
  | some b => match ctxRelease s s.g b.desc n with
    | .error t => .error t
    | .ok t => .ok { t with g := setBind t.g n none }

/-- The lane pushes of a register have drained to the slice (13, R282). -/
def pushDrained (g : Group) (n : Nat) : Bool :=
  match bindOf g n with
  | none => true
  | some b => b.pushb = []

/-- The pages of the element array (05, R140). -/
def arrayPages (base n : Nat) : List Nat :=
  if n = 0 then [] else (List.range ((base + n - 1) / 4096 - base / 4096 + 1)).map (fun i =>
    max base ((base / 4096 + i) * 4096))

/-- A page of the array: translated as a write, readable too, local device memory (05, R140). -/
def pageFault (s : State) (g : Group) (ga : Nat) : Option (Cause × Bool) :=
  match locate s g ga 1 .write with
  | .error e => some e
  | .ok (.dev _, _) =>
    match xlate s g.core g.pid ga .read with
    | .error e => some (if e.1 = .pfRead then (.pfWrite, e.2) else e)
    | .ok _ => none
  | .ok _ => some (.qBaddesc, false)

/-- A context made from the descriptor in memory, or the fault with its address (05, R140). -/
def makeCtx (s : State) (g : Group) (n desc ga : Nat) : Except (Cause × Bool × Nat) QCtx :=
  match poisoned s desc 64 with
  | some w => .error (.busErr, false, ga + (w - desc))
  | none =>
    let r : Nat → Nat → Nat := fun o k => leNat (viewBytes s g.core (desc + o) k)
    let q : QCtx := { desc := desc, slice := homeSlice desc, base := r 0 8, cap := r 8 4, esz := r 12 1, head := r 16 4
                      tail := r 20 4, pid := g.pid, core := g.core, binds := [(g.key, n)], waiters := [] }
    if q.cap = 0 || 2 ^ 24 < q.cap || 1 < q.esz || r 13 3 != 0 || r 24 40 != 0 || q.base % 8 != 0
      || q.cap < ctxCount q then .error (.qBaddesc, false, ga)
    else match (arrayPages q.base (q.cap * elemSize q.esz)).findSome? (fun a => (pageFault s g a).map (fun e => (e, a))) with
      | some ((c, stg), a) => .error (c, stg, a)
      | none => .ok q

/-- The descriptor's read arrives at its slice as a load's would, or waits (05, R140; 04, R89-R90). -/
def descReady (s : State) (g : Group) (desc : Nat) : Except State State := atSlice s g.key g.core g.pid desc 64 false

/-- The focused group's register joins a context, or gets a new one (05, R140). -/
def joinCtx (s : State) (n sl desc ga : Nat) : Res :=
  match ctxOf s desc with
  | some q =>
    let s2 := setCtx s { q with binds := q.binds ++ [(s.g.key, n)] }
    .next (advance { s2 with g := setBind s2.g n (some { desc := desc, esz := q.esz, ga := ga }) })
  | none =>
    if 256 ≤ (s.qctxs.filter (fun q => q.slice = sl)).length then waitFor s .room
    else match descReady s s.g desc with
      | .error t => waitFor t .slice
      | .ok s1 => match makeCtx s1 s1.g n desc ga with
        | .error (c, stg, x) => trapAcc s1 (c, stg) (if ga ≤ x && x < ga + 64 then .read else .write) x
        | .ok q =>
          let s2 := { s1 with qctxs := s1.qctxs ++ [q] }
          .next (advance { s2 with g := setBind s2.g n (some { desc := desc, esz := q.esz, ga := ga }) })

/-- qbind (05, R140). One of a bound register unbinds first, and that stands where the bind then traps, although a trapping instruction
has had no effect (19, R356): R140's order is followed (DESIGN CHOICE, log 92). -/
def execQbind (a : BitVec 6) (n : BitVec 3) (s : State) : Res :=
  needS s [a]
    (let ga := (rs s a).toNat
     if n.toNat < 4 then trapS s .qregBad
     else if !pushDrained s.g n.toNat then waitFor s (.queueFull n.toNat)
     else if ga % 64 != 0 then trapS s .align ga
     else match locate s s.g ga 64 .read with
      | .error e => trapAcc s e .read ga
      | .ok (.dev sl, desc) => (match unbind s n.toNat with
        | .error e => queueFail s e (waitFor s .slice) (waitFor s .slice)
        | .ok s1 => joinCtx s1 n.toNat sl desc ga)
      | .ok _ => trapS s .qBaddesc ga)

/-- qunbind (05, R141; 13, R282). -/
def execQunbind (d : BitVec 6) (n : BitVec 3) (s : State) : Res :=
  needS s [d]
    (if n.toNat < 4 then trapS s .qregBad
     else match bindOf s.g n.toNat with
      | none => trapS s .qregBad
      | some b =>
        if b.pushb != [] then waitFor s (.queueFull n.toNat)
        else match unbind s n.toNat with
          | .error e => queueFail s e (waitFor s .slice) (waitFor s .slice)
          | .ok t => .next (advance (ws t d (BitVec.ofNat 64 b.popb.length))))

/-! ## Pushes (05, R142; 06, R162) -/

/-- What a push to a register does: done, no room, or a trap. -/
def pushReg (s : State) (n : Nat) (v : W64) (ok : State → Res) (full turn : State → Res) : Res :=
  if n = 0 then
    match pushQ0 s s.g v with
    | none => full s
    | some (.error c) => trapS (dropPartial s s.g) c
    | some (.ok s') => ok s'
  else if n < 4 then trapS s .qregBad
  else match bindOf s.g n with
    | none => trapS s .qregBad
    | some b =>
      match ctxOf s b.desc with
      | none => trapS s .qregBad
      | some q =>
        match slicePush s q s.g s.slot (v.toNat % 2 ^ (8 * elemSize q.esz)) with
        | .ok s' => ok s'
        | .error e => queueFail s e (full s) (turn s)

/-- The focused group's path takes its place among those that wait to push. -/
def beginPush (s : State) (n : Nat) : State :=
  if n < 4 then s
  else match (bindOf s.g n).bind (fun b => ctxOf s b.desc) with
    | none => s
    | some q => joinWaiters s q s.g.key s.slot 1

/-- qpush (05, R142). -/
def execQpush (a : BitVec 6) (n : BitVec 3) (s : State) : Res :=
  needS s [a] (pushReg s n.toNat (rs s a) (fun s' => .next (advance s'))
    (fun s' => waitFor (beginPush s' n.toNat) (.queueFull n.toNat)) (fun s' => waitFor (beginPush s' n.toNat) (.queueFull n.toNat)))

/-- qpush.t (05, R142). -/
def execQpushT (d a : BitVec 6) (n : BitVec 3) (s : State) : Res :=
  needS s [d, a]
    (pushReg s n.toNat (rs s a) (fun s' => .next (advance (ws s' d 1#64))) (fun s' => .next (advance (ws s' d 0#64)))
      (fun s' => waitFor s' .slice))

/-! ## Pops (05, R142) -/

/-- The next element of a register: with it, without one, or a trap. -/
def popReg (s : State) (n : Nat) (ok : State → W64 → Res) (empty turn : State → Res) : Res :=
  if n = 0 then trapS s .qregBad
  else if n = 1 then
    match parcelOf s (parcelKey s.g) with
    | none => trapS s .streamRights
    | some p =>
      if s.g.key.gid != p.prodGid || s.g.handler.isSome then trapS s .streamRights
      else match p.q1 with
        | [] => empty s
        | v :: r => ok (setParcel s { p with q1 := r }) v
  else if n = 2 then
    match s.g.q2 with
    | [] => empty s
    | v :: r => ok { s with g := { s.g with q2 := r } } v
  else if n = 3 then
    match s.g.q3 with
    | [] => empty s
    | v :: r => ok { s with g := { s.g with q3 := r } } v
  else match bindOf s.g n with
    | none => trapS s .qregBad
    | some b =>
      match b.popb with
      | v :: r => ok { s with g := setBind s.g n (some { b with popb := r }) } (BitVec.ofNat 64 v)
      | [] =>
        match ctxOf s b.desc with
        | none => trapS s .qregBad
        | some q =>
          match slicePop s q s.g s.slot noLane with
          | .ok (s', v) => ok s' (BitVec.ofNat 64 v)
          | .error e => queueFail s e (empty s) (turn s)

/-- The focused group joins the slice's list of waiting groups. -/
def beginWait (s : State) (n : Nat) : State :=
  if n < 4 then s
  else match bindOf s.g n with
    | none => s
    | some b => match ctxOf s b.desc with
      | none => s
      | some q => joinWaiters s q s.g.key s.slot 0

/-- qpop (05, R142). -/
def execQpop (d : BitVec 6) (n : BitVec 3) (s : State) : Res :=
  needS s [d]
    (popReg s n.toNat (fun s' v => .next (advance (ws s' d v)))
      (fun s' => waitFor (beginWait s' n.toNat) (.queueEmpty n.toNat)) (fun s' => waitFor (beginWait s' n.toNat) (.queueEmpty n.toNat)))

/-- qtry: s[sa] is written after sd (05, R142). -/
def execQtry (d a : BitVec 6) (n : BitVec 3) (s : State) : Res :=
  needS s [d, a]
    (popReg s n.toNat (fun s' v => .next (advance (ws (ws s' d v) a 1#64)))
      (fun s' => .next (advance (ws s' a 0#64))) (fun s' => waitFor s' .slice))

/-- Elements that a pop register holds (05, R142). -/
def queueLen (s : State) (n : Nat) : Except Cause Nat :=
  if n = 0 then .error .qregBad
  else if n = 1 then
    match parcelOf s (parcelKey s.g) with
    | none => .error .streamRights
    | some p => if s.g.key.gid != p.prodGid || s.g.handler.isSome then .error .streamRights else .ok p.q1.length
  else if n = 2 then .ok s.g.q2.length
  else if n = 3 then .ok s.g.q3.length
  else match bindOf s.g n with
    | none => .error .qregBad
    | some b => .ok (b.popb.length + (match ctxOf s b.desc with
        | some q => ctxCount q
        | none => 0))

/-- qlen (05, R142). -/
def execQlen (d : BitVec 6) (n : BitVec 3) (s : State) : Res :=
  needS s [d]
    (match queueLen s n.toNat with
     | .error c => trapS s c
     | .ok k => .next (advance (ws s d (BitVec.ofNat 64 k))))

end Sys2Proof.Machine
end

