-- ==== Sys2Proof/Machine/Lane.lean ====
section
/-!
DEFINITION. The frame of every lane instruction: the clause in execution, acting lanes, what the sources read, where the
results go, and the next instruction of the clause (01, R17-R27; 05, R138, R144; 07, R181-R189; 08, R205-R209).
-/

namespace Sys2Proof.Machine

/-! ## The clause in execution -/

/-- The clause that the focused slot has on a lane pipe. -/
def curEnt (s : State) : Option CEnt :=
  match (cur s).cq with
  | e :: _ => if e.running then some e else none
  | [] => none

def setHead (s : State) (e : CEnt) : State := setCur s { cur s with cq := e :: (cur s).cq.drop 1 }

def hdrOf (e : CEnt) : Hdr := e.hdr.getD ⟨0#12, false, 0#4, false, 0#4, 0#32, 0#32⟩

/-- The reasons inside a clause that are blocking points (07, R199). -/
def pointInClause (w : Wait) : Bool :=
  match w with
  | .tag _ _ _ _ => true
  | .stashLine _ => true
  | .mappedFill _ peer => peer
  | .ticket _ _ => true
  | .fetching _ _ => true
  | .elements _ => true
  | .page _ _ _ => true
  | _ => false

/-- The clause does not go on, for a reason. At a blocking point it gives up its pipe (01, R26). -/
def laneWait (s : State) (e : CEnt) (w : Wait) : Res :=
  .next (setHead s { e with wait := some w, running := e.running && !pointInClause w })

/-- A lane instruction traps at a lane, or as a whole: it has had no effect and stays the next of its clause (19, R356). -/
def laneTrap (s : State) (c : Cause) (lane : Option Nat := none) (addr : Nat := 0) (stg : Bool := false)
    (acc : Acc := .read) : Res :=
  .next (takeTrap s { cause := c, stg := stg, acc := acc, slot := s.slot, lane := lane, addr := addr })

/-- The clause has issued its last instruction: it leaves its queue and its pipe (01, R26-R27). -/
def endClause (s : State) (e : CEnt) : State :=
  let s1 := setCur s { cur s with cq := (cur s).cq.drop 1, exempt := false }
  settleFlags { s1 with clauses := s1.clauses.map (fun c => if c.id = e.id then { c with ended := true } else c) }

/-- The instruction has executed, `n` lanes acting: the next one of the clause, or the clause's end. -/
def laneNext (s : State) (e : CEnt) (n : Nat) : State :=
  let s1 := noteEvent s s.g 2 (BitVec.ofNat 64 (lanePc e)) n
  if e.idx + 1 < e.code.length then
    settleFlags (setCur s1 { cur s1 with
      cq := { e with idx := e.idx + 1, wait := none } :: (cur s1).cq.drop 1, exempt := false })
  else endClause s1 e

/-- The acting lanes (01, R18). -/
def actMask (g : Group) (m : W32) (f : LaneF) : W32 :=
  let k := if f.pk = 0#3 then 0xFFFFFFFF#32 else g.k.getD f.pk.toNat 0#32
  m &&& (if f.pinv then ~~~k else k)

/-! ## Source values (01, R20-R21; 08, R205) -/

/-- FP16 widened to a format, a NaN bit for bit (01, R21). -/
def widenHalf (t : Nat) (h : Nat) : Nat :=
  if t = 2 then h
  else
    let f := wideFmt t
    match fmtDec fmtF16 h with
    | .nan _ => (h / 2 ^ 15) * 2 ^ (f.e + f.m) + (2 ^ f.e - 1) * 2 ^ f.m + h % 2 ^ 10 * 2 ^ (f.m - 10)
    | x => (roundTo f .ne false false 0 x).1

/-- A literal under operand type `t` (01, R21). Under `.n`, of which R21 says nothing, it is the whole 32-bit literal (DESIGN CHOICE,
log 36). A literal of a 16- or 8-bit type has its low bits only, so that the elements of `unpack` above the first read 0 (DESIGN CHOICE,
log 94). -/
def litVal (h : Hdr) (t c : Nat) : Nat :=
  if is64Ty t then h.lit0.toNat * 2 ^ 32 + h.lit1.toNat
  else (if c = 0xA0 then h.lit0 else h.lit1).toNat % 2 ^ tyWidth t

/-- A lane special (01, R21; 03, R77). -/
def laneSpecial (g : Group) (c l : Nat) : Nat :=
  let n := laneCell g l
  match c with
  | 0xB0 => cellCoord g.d n 0
  | 0xB1 => cellCoord g.d n 1
  | 0xB2 => cellCoord g.d n 2
  | 0xB3 => l
  | 0xB4 => g.step % 2 ^ 32
  | 0xB5 => n
  | 0xB6 => g.d.gx
  | 0xB7 => g.d.gy
  | 0xB8 => g.d.gz
  | _ => g.argp.toNat % 2 ^ 32

/-- A register, or an even pair, of a lane: v, the working copy of x, or k. -/
def regVal (g : Group) (c l : Nat) (wide : Bool) : Nat :=
  let one : Nat → Nat := fun c =>
    if c < 0x80 then (g.v.getD (c * g.width + l) 0#32).toNat
    else if c ≤ 0x87 then (g.xw.getD ((c - 0x80) * g.width + l) 0#32).toNat
    else b2n (bit32 (g.k.getD (c - 0x88) 0#32) l)
  if wide && c < 0x88 then one c + 2 ^ 32 * one (c + 1) else one c

/-- The pattern of a source of a lane under an operand type: a whole register or pair, whose low W bits are the operand;
packed operands use all 32 (08, R205, R218, R222, R224). Neighbour views and queue registers are read elsewhere. -/
def srcVal (g : Group) (e : CEnt) (f : LaneF) (t : Nat) (x : BitVec 14) (l : Nat) : Nat :=
  let c := srcCode x
  if c ≤ 0x8F then regVal g c l (is64Ty t)
  else if c = 0xA0 || c = 0xA1 then litVal (hdrOf e) t c
  else if c = 0xA2 then bitsOfInt (tyWidth t) f.imm.toInt
  else if c = 0xA3 then widenHalf t f.imm.toNat
  else laneSpecial g c l

/-! ## Reads through a bearing (07, R181-R189, R201) -/

/-- A published copy of cell `n`'s register for a step, as the group's core has it: its own core's groups, resident or
not, or its margin buffer. -/
def copyAt (s : State) (g : Group) (n r : Nat) (step : Int) : Option W32 :=
  let p := parcelOfCell g.d n
  let here := parcelPkg s g.d p = pkgNo s && (match parcelOf s ⟨g.key.launch, p⟩ with
    | some q => q.core = g.core
    | none => false)
  if here then
    match getG s ⟨g.key.launch, groupOfCell g.d n⟩ with
    | some h => if tagOf h (step % 2 = 1) r (n % g.width) = some step then some (copyVal h (step % 2 = 1) r (n % g.width))
      else none
    | none => none
  else (s.mbuf.find? (fun m => m.parcel = g.parcel && m.launch = g.key.launch && m.cell = n && m.reg = r
      && (m.tag : Int) = step % (2 ^ 32 : Nat))).map (fun m => m.val)

/-- A view of cell `n`'s register (07, R188): none while the tag is not there. -/
def viewOf (s : State) (g : Group) (n r : Nat) (now : Bool) : Option W32 :=
  if now then copyAt s g n r g.step
  else if g.step = 0 then some 0#32
  else copyAt s g n r ((g.step : Int) - 1)

/-- One register read through a bearing: the lane, the place of the source, the register, the view, where it goes. -/
structure NbRead where
  lane : Nat
  src : Nat
  reg : Nat
  now : Bool
  dst : Resolved
  deriving DecidableEq, Repr

/-- The types of the three sources. -/
def srcTypes (sp : LaneSpec) (f : LaneF) : List (BitVec 14 × Nat) :=
  [(f.srcA, (sp.a.map SrcSpec.ty).getD 9), (f.srcB, (sp.b.map SrcSpec.ty).getD 9), (f.srcC, (sp.c.map SrcSpec.ty).getD 9)]

/-- The reads through bearings of an instruction, lane by lane. -/
def nbReads (g : Group) (act : List Nat) (src : List (BitVec 14 × Nat)) : List NbRead :=
  (act.map (fun l => ((List.range 3).map (fun j =>
    match src[j]? with
    | none => []
    | some (x, t) =>
      if srcBearing x = 0 then []
      else (List.range (if is64Ty t then 2 else 1)).map (fun i =>
        ⟨l, j, srcCode x - 0x80 + i, srcCur x, resolve g.d (laneCell g l) (srcBearing x)⟩))).flatten)).flatten

/-- The halo words of the reads: lane and generic address (07, R186). -/
def haloWords (g : Group) (rs : List NbRead) : List (Nat × Nat) :=
  rs.filterMap (fun r => match r.dst with
    | .halo f k tb ta gb ga => some (r.lane, haloAddr g.d f k tb ta gb ga r.reg)
    | _ => none)

/-- The parts of the halo loads, or the fault of the lowest lane. -/
def haloParts (s : State) : List (Nat × Nat) → Except (Nat × Cause × Bool × Nat) (List Part)
  | [] => .ok []
  | (l, ga) :: r =>
    match locate s s.g ga 4 .read with
    | .error (c, stg) => .error (l, c, stg, ga)
    | .ok (kind, fa) =>
      match haloParts s r with
      | .error e => .error e
      | .ok ps => .ok ({ lane := l, ga := ga, fa := fa, size := 4, kind := kind } :: ps)

/-- The words that the reads give, a halo word as 0 until it has been loaded; none names the first read without its tag. -/
def nbValues (s : State) (g : Group) : List NbRead → Except NbRead (List Nat)
  | [] => .ok []
  | r :: rs =>
    let one : Option Nat := match r.dst with
      | .cell n => (viewOf s g n r.reg r.now).map BitVec.toNat
      | _ => some 0
    match one with
    | none => .error r
    | some v =>
      match nbValues s g rs with
      | .error x => .error x
      | .ok vs => .ok (v :: vs)

/-- The value of a source of a lane read through its bearing: one word or a pair. -/
def nbWord (rs : List NbRead) (vs : List Nat) (j l t : Nat) : Nat :=
  let mine := ((rs.zip vs).filter (fun p => p.1.lane = l && p.1.src = j)).map (fun p => p.2)
  mine.headD 0 + (if is64Ty t then 2 ^ 32 * (mine.drop 1).headD 0 else 0)

/-! ## Queue registers (05, R138, R144) -/

/-- Results that are 32-bit whatever the type (08, R206, R210-R224). -/
def res32 (op : Nat) : Bool :=
  [0x012, 0x013, 0x016, 0x048, 0x049, 0x04C, 0x04D, 0x063, 0x064, 0x065, 0x066, 0x067].contains op

/-- The type whose width a push has. -/
def pushTy (op : Nat) (f : LaneF) : Nat := if res32 op then 9 else f.ty.toNat

/-- A width fits the elements of a queue register; `.n` has no such width. -/
def widthFits (g : Group) (n t : Nat) : Bool :=
  t != 4 && (if n < 4 then tyWidth t = 64 else match bindOf g n with
    | some b => tyWidth t = 8 * elemSize b.esz
    | none => false)

/-- Queue registers that a lane instruction pops, in order of its sources, with the operand types. -/
def popsOf (sp : LaneSpec) (f : LaneF) : List (Nat × Nat) :=
  (srcTypes sp f).filterMap (fun (x, t) =>
    if 0x90 ≤ srcCode x && srcCode x ≤ 0x97 then some (srcCode x - 0x90, t) else none)

def pushOf (f : LaneF) : Option Nat :=
  if 0x90 ≤ f.dest.toNat && f.dest.toNat ≤ 0x97 then some (f.dest.toNat - 0x90) else none

/-- A use of a queue register that traps with QREG_BAD (05, R138; 06, R162). -/
def queueBad (g : Group) (sp : LaneSpec) (op : Nat) (f : LaneF) : Bool :=
  (popsOf sp f).any (fun p => p.1 < 2 || !widthFits g p.1 p.2)
    || (match pushOf f with
      | some n => n < 4 || !widthFits g n (pushTy op f)
      | none => false)

/-- Pops one element for each acting lane, ascending: the values by lane, or none where too few are buffered. -/
def popLanes (g : Group) (n : Nat) (act : List Nat) : Option (Group × List Nat) :=
  let spread : List Nat → List Nat := fun vs =>
    (List.range g.width).map (fun l => match act.idxOf? l with
      | some i => vs.getD i 0
      | none => 0)
  if n = 2 then
    if g.q2.length < act.length then none
    else some ({ g with q2 := g.q2.drop act.length }, spread (g.q2.map BitVec.toNat))
  else if n = 3 then
    if g.q3.length < act.length then none
    else some ({ g with q3 := g.q3.drop act.length }, spread (g.q3.map BitVec.toNat))
  else match bindOf g n with
    | none => none
    | some b =>
      if b.popb.length < act.length then none
      else some (setBind g n (some { b with popb := b.popb.drop act.length }), spread b.popb)

/-- Pushes a value for each acting lane, ascending. -/
def pushLanes (g : Group) (n : Nat) (act : List Nat) (vs : List Nat) : Group :=
  match bindOf g n with
  | none => g
  | some b => setBind g n (some { b with pushb := b.pushb ++ act.map (fun l => vs.getD l 0 % 2 ^ (8 * elemSize b.esz)) })

/-! ## The frame -/

/-- What an instruction has read: acting lanes, ascending, and the pattern of each source by lane. -/
structure LaneIn where
  e : CEnt
  m : W32
  act : List Nat
  a : List Nat
  b : List Nat
  c : List Nat
  deriving DecidableEq, Repr

/-- One source of every acting lane; the state changes only by pops. -/
def readSource (s : State) (e : CEnt) (f : LaneF) (act : List Nat) (rs : List NbRead) (vs : List Nat) (j : Nat)
    (x : BitVec 14) (t : Nat) : Option (State × List Nat) :=
  let c := srcCode x
  if srcBearing x != 0 then
    some (s, (List.range s.g.width).map (fun l => if act.contains l then nbWord rs vs j l t else 0))
  else if 0x90 ≤ c && c ≤ 0x97 then
    match popLanes s.g (c - 0x90) act with
    | none => none
    | some (g, l) => some ({ s with g := g }, l)
  else some (s, (List.range s.g.width).map (fun l => if act.contains l then srcVal s.g e f t x l else 0))

/-! ### An instruction that has issued and waits (07, R186, R199; 19, R357; log 71) -/

/-- The focused slot's instruction that has issued and waits: `vals` holds its operands by lane, `parts` its halo loads. -/
def heldOp (s : State) (i : Instr) : Option Op :=
  s.ops.find? (fun o => o.g = s.g.key && o.slot = s.slot && o.cls = .halo && o.clause != 0 && o.instr = i)

def dropHeld (s : State) (i : Instr) : State :=
  { s with ops := s.ops.filter (fun o => !(o.g = s.g.key && o.slot = s.slot && o.cls = .halo && o.clause != 0 && o.instr = i)) }

/-- How many operands a held instruction has (19, R361). -/
def heldSources (sp : LaneSpec) : Nat := if sp.c.isSome then 3 else if sp.b.isSome then 2 else if sp.a.isSome then 1 else 0

/-- The instruction has issued, with its operands and its halo loads, and waits; once only. -/
def hold (s : State) (i : Instr) (x : LaneIn) (ps : List Part) (paths : BitVec 4) : State :=
  if (heldOp s i).isSome then s
  else
    let n := match laneParts i with
      | some (op, f) => heldSources (laneSpec (cxOf s.g (cur s).gfmt) op.toNat f)
      | none => 0
    let s1 := issue s { id := 0, g := s.g.key, slot := s.slot, tag := 0, pc := lanePc x.e, clause := x.e.id, cls := .halo
                        instr := i, mask := x.m, cmask := x.e.mask, vals := [x.a, x.b, x.c].take n, parts := ps }
    { s1 with ops := s1.ops.map (fun o => if o.id = s.nextId then { o with paths := paths } else o) }

/-- What the loaded halo words add to the operand `j` of a lane. -/
def haloWord (hs : List (NbRead × Nat)) (src : List (BitVec 14 × Nat)) (j l : Nat) : Nat :=
  ((hs.filter (fun p => p.1.lane = l && p.1.src = j)).map (fun p =>
    2 ^ (32 * (p.1.reg - (srcCode (src.getD j (0#14, 9)).1 - 0x80))) * p.2)).sum

/-- What a held instruction has read, its halo words included. -/
def heldIn (s : State) (e : CEnt) (sp : LaneSpec) (f : LaneF) (o : Op) : LaneIn :=
  let src := srcTypes sp f
  let act := lanesOf o.mask
  let hs := ((nbReads s.g act src).filter (fun r => match r.dst with
    | .halo _ _ _ _ _ _ => true
    | _ => false)).zip (o.parts.map Part.res)
  let operand : Nat → List Nat := fun j =>
    (List.range s.g.width).map (fun l => (o.vals.getD j []).getD l 0 + haloWord hs src j l)
  ⟨e, o.mask, act, operand 0, operand 1, operand 2⟩

/-- A held instruction goes on once its halo loads have returned; a fault of one traps at its lane, and the stop captures the
instruction whole (19, R432). -/
def goHeld (s : State) (e : CEnt) (i : Instr) (sp : LaneSpec) (f : LaneF) (o : Op) (k : State → LaneIn → Res) : Res :=
  if o.parts.any (fun p => p.st != .done) then laneWait s e .drain
  else match o.parts.findSome? (fun p => p.err.map (fun x => (p.lane, x))) with
    | some (l, c, a) => laneTrap s c (some l) a
    | none => k (dropHeld s i) (heldIn s e sp f o)

/-- The instruction issues its halo loads and waits for them, or goes on where it has none (07, R186). -/
def haloThen (s s1 : State) (i : Instr) (x : LaneIn) (ws : List (Nat × Nat)) (k : State → LaneIn → Res) : Res :=
  if ws = [] then k s1 x
  else match haloParts s ws with
    | .error (l, c, stg, a) => laneTrap s c (some l) a stg
    | .ok ps =>
      if fenceHolds s then laneWait s x.e .fenced
      else if 255 ≤ pathCount s s.g.key 0 then laneWait s x.e .room
      else if captureFull s then laneWait s x.e .capture
      else laneWait (hold s1 i x ps 1#4) x.e .drain

/-- A source read through a bearing has no copy with its tag (07, R188, R194; 14, R300-R301). What a package held for the launch before
its reset never comes. -/
def tagMissing (s : State) (e : CEnt) (r : NbRead) : Res :=
  let g := s.g
  let n := match r.dst with
    | .cell n => n
    | _ => 0
  let st := if r.now then g.step else g.step - 1
  if g.lost.contains (n, st) then
    laneTrap { s with g := { g with lost := g.lost.erase (n, st) } } .fabPeerReset (some r.lane)
  else if !cellReachable s g.d n then laneTrap s .fabUnreach (some r.lane)
  else if cellGone s g n then laneTrap s .fabPeerReset (some r.lane)
  else laneWait (if e.wait != some (.tag n r.reg st r.lane) then noteEvent s g 9 (BitVec.ofNat 64 (lanePc e)) 1 else s) e
    (.tag n r.reg st r.lane)

/-- The sources of the acting lanes, in order: the state changes only by pops. None names the queue register that is short. -/
def readSources (s : State) (e : CEnt) (f : LaneF) (m : W32) (src : List (BitVec 14 × Nat)) (rs : List NbRead) (vs : List Nat) :
    Except Nat (State × LaneIn) :=
  let act := lanesOf m
  let ty : Nat → Nat := fun j => (src.getD j (0#14, 9)).2
  match readSource s e f act rs vs 0 f.srcA (ty 0) with
  | none => .error (srcCode f.srcA - 0x90)
  | some (s2, a) =>
    match readSource s2 e f act rs vs 1 f.srcB (ty 1) with
    | none => .error (srcCode f.srcB - 0x90)
    | some (s3, b) =>
      match readSource s3 e f act rs vs 2 f.srcC (ty 2) with
      | none => .error (srcCode f.srcC - 0x90)
      | some (s4, c) => .ok (s4, ⟨e, m, act, a, b, c⟩)

/-- Reads a lane instruction's sources and goes on with them; one that has issued and waits goes on with those it read.
`pre` is its trap at execution that concerns no lane. A read through a bearing between steps is STEP_CLOSED, whatever the
mask (07, R189). A trap or a wait of an instruction that has not issued goes on from the state before the reads (19, R356). -/
def withLane (s : State) (i : Instr) (pre : Option Cause) (k : State → LaneIn → Res) : Res :=
  match curEnt s, laneParts i with
  | some e, some (op, f) =>
    let g := s.g
    let sp := laneSpec (cxOf g (cur s).gfmt) op.toNat f
    let src := srcTypes sp f
    let m := actMask g e.mask f
    match heldOp s i with
    | some o => goHeld s e i sp f o k
    | none =>
      if queueBad g sp op.toNat f then laneTrap s .qregBad
      else if src.any (fun x => srcBearing x.1 != 0) && !g.isOpen then laneTrap s .stepClosed
      else match pre with
        | some c => laneTrap s c
        | none =>
          let rs := nbReads g (lanesOf m) src
          match rs.find? (fun r => r.dst = .edge) with
          | some r => laneTrap s .nbEdge (some r.lane)
          | none =>
            match nbValues s g rs with
            | .error r => tagMissing s e r
            | .ok vs =>
              match readSources s e f m src rs vs with
              | .error n => laneWait s e (.elements n)
              | .ok (s4, x) => haloThen s s4 i x (haloWords g rs) k
  | _, _ => .next s

/-! ## Results (08, R206) -/

/-- Writes a value by lane to dest: registers, a predicate, or a queue. -/
def writeDest (g : Group) (act : List Nat) (d : Nat) (wide : Bool) (vs : List Nat) : Group :=
  if 0x90 ≤ d && d ≤ 0x97 then pushLanes g (d - 0x90) act vs
  else act.foldl (fun g l => setPair g d l wide (vs.getD l 0)) g

/-- Spreads results of acting lanes over the lanes. -/
def byLane (w : Nat) (l : List (Nat × Nat)) : List Nat := (List.range w).map (fun i => assocD 0 l i)

/-- Lands the results of the acting lanes: registers, flags, rounding words drawn. `h` gives a lane's result and flags from
its rounding words; `nd` results are rounded in a lane. -/
def landLanes (s : State) (tag : Nat) (act : List Nat) (d : Nat) (wide : Bool) (md : RMode) (nd : Nat)
    (h : Nat → (Nat → Nat) → Nat × FFlags) : State :=
  let outs := act.map (fun l => (l, h l (fun j => if md = .st then roundWord s.g l j else 0)))
  let g1 := writeDest s.g act d wide (byLane s.g.width (outs.map (fun o => (o.1, o.2.1))))
  let g2 := if md = .st && nd != 0 then drawRound g1 act nd else g1
  let fl := outs.foldl (fun f o => fflagsOr f o.2.2) fflagsNone
  sinkFlags { s with g := g2 } s.g.key tag (fflagsBits fl)

/-- A lane instruction of fixed latency whose result in a lane is a function of its sources in that lane. -/
def laneAlu (s : State) (i : Instr) (f : LaneF) (pre : Option Cause) (wide : Bool) (md : RMode) (nd : Nat)
    (h : LaneIn → Nat → (Nat → Nat) → Nat × FFlags) : Res :=
  withLane s i pre (fun s1 x =>
    .next (laneNext (landLanes s1 (cur s1).tag x.act f.dest.toNat wide md nd (h x)) x.e x.act.length))

/-- One whose result needs no rounding word. -/
def laneFun (s : State) (i : Instr) (f : LaneF) (wide : Bool) (h : LaneIn → Nat → Nat × FFlags) : Res :=
  laneAlu s i f none wide .ne 0 (fun x l _ => h x l)

end Sys2Proof.Machine
end

