-- ==== Sys2Proof/Machine/LaneInt.lean ====
section
/-!
DEFINITION. The integer class (08, R210-R213).
-/

namespace Sys2Proof.Machine

/-- The exact integer of a source under type `t`, negated if the source says so (08, R207). -/
def intA (f : LaneF) (x : LaneIn) (t l : Nat) : Int := tyInt' t (negArith (tyWidth t) (srcNeg f.srcA) (x.a.getD l 0))
def intB (f : LaneF) (x : LaneIn) (t l : Nat) : Int := tyInt' t (negArith (tyWidth t) (srcNeg f.srcB) (x.b.getD l 0))
def intC (f : LaneF) (x : LaneIn) (t l : Nat) : Int := tyInt' t (negArith (tyWidth t) (srcNeg f.srcC) (x.c.getD l 0))

/-- The pattern of a source, inverted if the source says so. -/
def bitsA (f : LaneF) (x : LaneIn) (t l : Nat) : Nat := negBits (tyWidth t) (srcNeg f.srcA) (x.a.getD l 0)
def bitsB (f : LaneF) (x : LaneIn) (t l : Nat) : Nat := negBits (tyWidth t) (srcNeg f.srcB) (x.b.getD l 0)

/-- An exact integer result, reduced or clamped. -/
def intLane (s : State) (i : Instr) (f : LaneF) (h : Int → Int → Int → Int) : Res :=
  let t := f.ty.toNat
  laneFun s i f false (fun x l =>
    let r := intRes t f.sat (h (intA f x t l) (intB f x t l) (intC f x t l))
    (extendTy t r.1, r.2))

/-- A pattern result. -/
def bitLane (s : State) (i : Instr) (f : LaneF) (h : Nat → Nat → Nat) : Res :=
  let t := f.ty.toNat
  laneFun s i f false (fun x l => (extendTy t (h (bitsA f x t l) (bitsB f x t l) % 2 ^ tyWidth t), {}))

/-- iadd (08, R210). -/
def execIadd (f : LaneF) (s : State) : Res :=
  intLane s (.iadd f) f (fun a b _ => a + b)

/-- isub (08, R210). -/
def execIsub (f : LaneF) (s : State) : Res :=
  intLane s (.isub f) f (fun a b _ => a - b)

/-- imul (08, R210). -/
def execImul (f : LaneF) (s : State) : Res :=
  intLane s (.imul f) f (fun a b _ => a * b)

/-- imulh: the upper W bits of the signed product (08, R210). -/
def execImulh (f : LaneF) (s : State) : Res :=
  intLane s (.imulh f) f (fun a b _ => a * b / (2 ^ tyWidth f.ty.toNat : Nat))

/-- imulhu: the upper W bits of the unsigned product (08, R210). -/
def execImulhu (f : LaneF) (s : State) : Res :=
  intLane s (.imulhu f) f (fun a b _ => a * b / (2 ^ tyWidth f.ty.toNat : Nat))

/-- imad (08, R210). -/
def execImad (f : LaneF) (s : State) : Res :=
  intLane s (.imad f) f (fun a b c => a * b + c)

/-- imin (08, R210). -/
def execImin (f : LaneF) (s : State) : Res :=
  intLane s (.imin f) f (fun a b _ => if b < a then b else a)

/-- imax (08, R210). -/
def execImax (f : LaneF) (s : State) : Res :=
  intLane s (.imax f) f (fun a b _ => if a < b then b else a)

/-- iminu (08, R210). -/
def execIminu (f : LaneF) (s : State) : Res :=
  intLane s (.iminu f) f (fun a b _ => if b < a then b else a)

/-- imaxu (08, R210). -/
def execImaxu (f : LaneF) (s : State) : Res :=
  intLane s (.imaxu f) f (fun a b _ => if a < b then b else a)

/-- iabs (08, R210). -/
def execIabs (f : LaneF) (s : State) : Res :=
  intLane s (.iabs f) f (fun a _ _ => (a.natAbs : Int))

/-- iand (08, R210). -/
def execIand (f : LaneF) (s : State) : Res :=
  bitLane s (.iand f) f (fun a b => a &&& b)

/-- ior (08, R210). -/
def execIor (f : LaneF) (s : State) : Res :=
  bitLane s (.ior f) f (fun a b => a ||| b)

/-- ixor (08, R210). -/
def execIxor (f : LaneF) (s : State) : Res :=
  bitLane s (.ixor f) f (fun a b => a ^^^ b)

/-- iandn (08, R210). -/
def execIandn (f : LaneF) (s : State) : Res :=
  bitLane s (.iandn f) f (fun a b => a &&& negBits (tyWidth f.ty.toNat) true b)

/-- The count of a shift (08, R211). -/
def shiftCount (f : LaneF) (b : Nat) : Nat := if modBit f 16 then immBits f 0 5 else b % 256

/-- ishl (08, R211). -/
def execIshl (f : LaneF) (s : State) : Res :=
  bitLane s (.ishl f) f (fun a b =>
    if tyWidth f.ty.toNat ≤ shiftCount f b then 0 else a * 2 ^ shiftCount f b)

/-- ishr (08, R211). -/
def execIshr (f : LaneF) (s : State) : Res :=
  bitLane s (.ishr f) f (fun a b =>
    if tyWidth f.ty.toNat ≤ shiftCount f b then 0 else a / 2 ^ shiftCount f b)

/-- isar: copies of bit W - 1 enter whatever the signedness (08, R211). -/
def execIsar (f : LaneF) (s : State) : Res :=
  bitLane s (.isar f) f (fun a b =>
    let w := tyWidth f.ty.toNat
    bitsOfInt w (intOf true w a / (2 ^ min w (shiftCount f b) : Nat)))

/-- One bits among the low `n`. -/
def onesIn : Nat → Nat → Nat
  | 0, _ => 0
  | n + 1, v => v % 2 + onesIn n (v / 2)

/-- Leading zeros among `w` bits. -/
def leadZeros (w v : Nat) : Nat := if v % 2 ^ w = 0 then w else w - 1 - (v % 2 ^ w).log2

/-- ipopc: a 32-bit count (08, R210). -/
def execIpopc (f : LaneF) (s : State) : Res :=
  laneFun s (.ipopc f) f false (fun x l => (onesIn (tyWidth f.ty.toNat) (x.a.getD l 0), {}))

/-- iclz: a 32-bit count (08, R210). -/
def execIclz (f : LaneF) (s : State) : Res :=
  laneFun s (.iclz f) f false (fun x l => (leadZeros (tyWidth f.ty.toNat) (x.a.getD l 0), {}))

/-- ibfe (08, R211). -/
def execIbfe (f : LaneF) (s : State) : Res :=
  laneFun s (.ibfe f) f false (fun x l =>
    let n := immBits f 5 6
    let v := x.a.getD l 0 / 2 ^ immBits f 0 5 % 2 ^ n
    (if n = 0 then 0 else bitsOfInt 32 (intOf (f.ty = 8#5) n v), {}))

/-- ibfi (08, R211). -/
def execIbfi (f : LaneF) (s : State) : Res :=
  laneFun s (.ibfi f) f false (fun x l =>
    let p := immBits f 0 5
    let n := immBits f 5 6
    let a := x.a.getD l 0
    (a / 2 ^ (p + n) * 2 ^ (p + n) + x.b.getD l 0 % 2 ^ n * 2 ^ p + a % 2 ^ p, {}))

/-- The outcome of a condition code on an order (08, R212). -/
def condHolds (c : Nat) (o : Ordering) : Bool :=
  match c with
  | 0 => o = .eq
  | 1 => o != .eq
  | 2 => o = .lt
  | 3 => o != .gt
  | 4 => o = .gt
  | _ => o != .lt

/-- icmp into a predicate or a register (08, R212). -/
def execIcmp (f : LaneF) (s : State) : Res :=
  laneFun s (.icmp f) f false (fun x l =>
    let t := f.ty.toNat
    (b2n (condHolds (modBits f 16 3) (compare (intA f x t l) (intB f x t l))), {}))

/-- isel (08, R212). -/
def execIsel (f : LaneF) (s : State) : Res :=
  laneFun s (.isel f) f (is64Ty f.ty.toNat) (fun x l =>
    (extendTy f.ty.toNat (if x.c.getD l 0 != 0 then x.a.getD l 0 else x.b.getD l 0), {}))

/-- imov (08, R212). -/
def execImov (f : LaneF) (s : State) : Res :=
  laneFun s (.imov f) f (is64Ty f.ty.toNat) (fun x l => (extendTy f.ty.toNat (x.a.getD l 0), {}))

/-- The 32-bit type that the half operands of a 64-bit form have (08, R213). -/
def halfTy (f : LaneF) : Nat := if f.ty = 10#5 then 8 else 9

/-- iadd64 (08, R213). -/
def execIadd64 (f : LaneF) (s : State) : Res :=
  laneFun s (.iadd64 f) f true (fun x l =>
    let t := f.ty.toNat
    intRes t f.sat (intA f x t l + intB f x (if modBit f 16 then halfTy f else t) l))

/-- imad64 (08, R213). -/
def execImad64 (f : LaneF) (s : State) : Res :=
  laneFun s (.imad64 f) f true (fun x l =>
    intRes f.ty.toNat f.sat (intA f x (halfTy f) l * intB f x (halfTy f) l + intC f x f.ty.toNat l))

end Sys2Proof.Machine
end

