-- ==== Sys2Proof/Machine/LaneFloat.lean ====
section
/-!
DEFINITION. The float class (08, R214-R218).
-/

namespace Sys2Proof.Machine

/-- A float operand of type `t`: FZI, then the sign inversion (08, R207). -/
def floatOf (fzi : Bool) (t : Nat) (n : Bool) (v : Nat) : XVal :=
  fmtRead (wideFmt t) fzi (negSign (tyWidth t) n v)

def floatA (s : State) (f : LaneF) (x : LaneIn) (t l : Nat) : XVal := floatOf (fziOf s) t (srcNeg f.srcA) (x.a.getD l 0)
def floatB (s : State) (f : LaneF) (x : LaneIn) (t l : Nat) : XVal := floatOf (fziOf s) t (srcNeg f.srcB) (x.b.getD l 0)
def floatC (s : State) (f : LaneF) (x : LaneIn) (t l : Nat) : XVal := floatOf (fziOf s) t (srcNeg f.srcC) (x.c.getD l 0)

/-- One rounded result of the type (08, R208, R214). -/
def floatLane (s : State) (i : Instr) (f : LaneF) (h : RMode → XVal → XVal → XVal → XVal) : Res :=
  let t := f.ty.toNat
  let md := modeOf s f
  laneAlu s i f none (is64Ty t) md 1 (fun x l u =>
    roundTo (wideFmt t) md f.sat (fzoOf s) (u 0) (h md (floatA s f x t l) (floatB s f x t l) (floatC s f x t l)))

/-- An operand's value returned unrounded, or the canonical NaN; a signalling operand sets NV (08, R215). -/
def pickLane (s : State) (i : Instr) (f : LaneF) (h : XVal → XVal → XVal) : Res :=
  let t := f.ty.toNat
  laneFun s i f (is64Ty t) (fun x l =>
    let a := floatA s f x t l
    let b := floatB s f x t l
    ((roundTo (wideFmt t) .ne false false 0 (h a b)).1, { nv := xisSnan a || xisSnan b }))

/-- minimumNumber by an order: one NaN gives the other operand. -/
def pickNumber (lt : XVal → XVal → Bool) (a b : XVal) : XVal :=
  if xisNan a then b else if xisNan b then a else if lt b a then b else a

/-- minimum by an order: any NaN gives NaN. -/
def pickNan (lt : XVal → XVal → Bool) (a b : XVal) : XVal :=
  if xisNan a || xisNan b then .nan false else if lt b a then b else a

def xmore (a b : XVal) : Bool := xless b a

/-- fadd (08, R214-R215). -/
def execFadd (f : LaneF) (s : State) : Res :=
  floatLane s (.fadd f) f (fun md a b _ => xadd (zeroSign md) a b)

/-- fsub (08, R214-R215). -/
def execFsub (f : LaneF) (s : State) : Res :=
  floatLane s (.fsub f) f (fun md a b _ => xadd (zeroSign md) a (xneg b))

/-- fmul (08, R214-R215). -/
def execFmul (f : LaneF) (s : State) : Res :=
  floatLane s (.fmul f) f (fun _ a b _ => xmul a b)

/-- ffma: one rounding (08, R214-R215). -/
def execFfma (f : LaneF) (s : State) : Res :=
  floatLane s (.ffma f) f (fun md a b c => xadd (zeroSign md) (xmul a b) c)

/-- fmin (08, R215). -/
def execFmin (f : LaneF) (s : State) : Res :=
  pickLane s (.fmin f) f (pickNumber xless)

/-- fmax (08, R215). -/
def execFmax (f : LaneF) (s : State) : Res :=
  pickLane s (.fmax f) f (pickNumber xmore)

/-- fminnan (08, R215). -/
def execFminnan (f : LaneF) (s : State) : Res :=
  pickLane s (.fminnan f) f (pickNan xless)

/-- fmaxnan (08, R215). -/
def execFmaxnan (f : LaneF) (s : State) : Res :=
  pickLane s (.fmaxnan f) f (pickNan xmore)

/-- The outcome of a float condition (08, R216). -/
def fcondHolds (c : Nat) (a b : XVal) : Bool :=
  let nan := xisNan a || xisNan b
  if c = 6 then nan else if c = 7 then !nan else if nan then c = 1 else condHolds c (xcmp a b)

/-- fcmp (08, R216). -/
def execFcmp (f : LaneF) (s : State) : Res :=
  laneFun s (.fcmp f) f false (fun x l =>
    let a := floatA s f x f.ty.toNat l
    let b := floatB s f x f.ty.toNat l
    let c := modBits f 16 3
    let nv := if 2 ≤ c && c ≤ 5 then xisNan a || xisNan b else xisSnan a || xisSnan b
    (b2n (fcondHolds c a b), { nv := nv }))

/-- The bit of an operand's class (08, R216). -/
def classBit (f : Fmt) (v : Nat) : Nat :=
  match fmtDec f v with
  | .nan sn => if sn then 0 else 1
  | .inf n => if n then 2 else 9
  | .fin n m e st =>
    if xisZero (.fin n m e st) then (if n then 5 else 6)
    else if fmtIsSub f v then (if n then 4 else 7)
    else if n then 3 else 8

/-- fclass: no FZI, no flag (08, R216). -/
def execFclass (f : LaneF) (s : State) : Res :=
  laneFun s (.fclass f) f false (fun x l =>
    let b := classBit (wideFmt f.ty.toNat) (x.a.getD l 0)
    (if 0x88 ≤ f.dest.toNat && f.dest.toNat ≤ 0x8F then b2n (f.imm.getLsbD b) else 2 ^ b, {}))

/-- A value rounded to an integral one of its sign (08, R217). -/
def integral (md : RMode) (u : Nat) (x : XVal) : XVal :=
  match x with
  | .fin n m e st => .fin n (cutRound md n u 0 (cutAt m e st 0)) 0 false
  | y => y

/-- frnd: no NX (08, R217). -/
def execFrnd (f : LaneF) (s : State) : Res :=
  let t := f.ty.toNat
  let md := modeOf s f
  laneAlu s (.frnd f) f none (is64Ty t) md 1 (fun x l u =>
    let a := floatA s f x t l
    ((roundTo (wideFmt t) .ne false false 0 (integral md (u 0) a)).1, { nv := xisSnan a }))

/-- An exponent past ±5,000 gives the same overflow or underflow as ±5,000. -/
def scaleBy (x : XVal) (k : Int) : XVal := xscale x (clampInt (-5000) 5000 k)

/-- fscale: zeros and infinities are returned unchanged (08, R217). -/
def execFscale (f : LaneF) (s : State) : Res :=
  let t := f.ty.toNat
  let md := modeOf s f
  laneAlu s (.fscale f) f none (is64Ty t) md 1 (fun x l u =>
    let a := floatA s f x t l
    let k := tyInt' 8 (x.b.getD l 0)
    if xisInf a || xisZero a then ((roundTo (wideFmt t) .ne false false 0 a).1, {})
    else roundTo (wideFmt t) md f.sat (fzoOf s) (u 0) (scaleBy a k))

/-- fdot2 (08, R218; 02, R57-R58). -/
def execFdot2 (f : LaneF) (s : State) : Res :=
  let t := f.ty.toNat
  let md := modeOf s f
  let el : Bool → Nat → Nat → XVal := fun n v j => floatOf (fziOf s) t n (v / 2 ^ (16 * j) % 2 ^ 16)
  laneAlu s (.fdot2 f) f none false md 1 (fun x l u =>
    let ps := [0, 1].map (fun j => xmul (el (srcNeg f.srcA) (x.a.getD l 0) j) (el (srcNeg f.srcB) (x.b.getD l 0) j))
    roundTo fmtF32 md f.sat (fzoOf s) (u 0) (xdot (zeroSign md) (ps ++ [floatC s f x 1 l])))

/-- The narrow format that a word selects: N1 or N0 of GFMT (02, R48-R49). -/
def narrowFmt (gfmt : W64) (one : Bool) : Fmt := fmtOf (if one then gfmt.extractLsb' 16 16 else gfmt.extractLsb' 0 16)

/-- ILL_FMT of an invalid descriptor, before any lane reads (02, R37). -/
def fmtBad (l : List Fmt) : Option Cause := if l.all fmtValid then none else some .illFmt

/-- A narrow element, negated on its decoded value (08, R207). -/
def elemOf (fm : Fmt) (fzi n : Bool) (v : Nat) : XVal := elemNeg fm n (fmtRead fm fzi (v % 2 ^ fmtWidth fm))

/-- fdot4 (08, R218; 02, R57-R58). The sources are read as packed bytes. -/
def execFdot4 (f : LaneF) (s : State) : Res :=
  let md := modeOf s f
  let fa := narrowFmt (cur s).gfmt (modBit f 16)
  let fb := narrowFmt (cur s).gfmt (modBit f 17)
  laneAlu s (.fdot4 f) f (fmtBad [fa, fb]) false md 1 (fun x l u =>
    let ps := [0, 1, 2, 3].map (fun j => xmul (elemOf fa (fziOf s) (srcNeg f.srcA) (x.a.getD l 0 / 2 ^ (8 * j)))
      (elemOf fb (fziOf s) (srcNeg f.srcB) (x.b.getD l 0 / 2 ^ (8 * j))))
    roundTo fmtF32 md f.sat (fzoOf s) (u 0) (xdot (zeroSign md) (ps ++ [floatC s f x 1 l])))

end Sys2Proof.Machine
end

