-- ==== Sys2Proof/Machine/LaneConv.lean ====
section
/-!
DEFINITION. The convert class (08, R219-R224).
-/

namespace Sys2Proof.Machine

/-- The format of a float side: a wide type, or the narrow format that D selects. -/
def sideFmt (s : State) (f : LaneF) (t : Nat) : Fmt := if t = 4 then narrowFmt (cur s).gfmt (modBit f 20) else wideFmt t

/-- The float source of a conversion, negated if it says so. -/
def sideVal (s : State) (f : LaneF) (t v : Nat) : XVal :=
  if t = 4 then elemOf (sideFmt s f 4) (fziOf s) (srcNeg f.srcA) v else floatOf (fziOf s) t (srcNeg f.srcA) v

/-- ILL_FMT of the `.n` sides. -/
def sidesBad (s : State) (f : LaneF) (ts : List Nat) : Option Cause :=
  if ts.contains 4 then fmtBad [narrowFmt (cur s).gfmt (modBit f 20)] else none

/-- cvtif (08, R219-R220). -/
def execCvtif (f : LaneF) (s : State) : Res :=
  let t := f.ty.toNat
  let md := modeOf s f
  laneAlu s (.cvtif f) f (sidesBad s f [t]) (is64Ty t) md 1 (fun x l u =>
    roundTo (sideFmt s f t) md f.sat (fzoOf s) (u 0) (xOfInt (intA f x (modBits f 16 4) l)))

/-- cvtfi (08, R219-R220). -/
def execCvtfi (f : LaneF) (s : State) : Res :=
  let t := f.ty.toNat
  let st := modBits f 16 4
  let md := modeOf s f
  laneAlu s (.cvtfi f) f (sidesBad s f [st]) (is64Ty t) md 1 (fun x l u =>
    let r := roundTo (intFmt t) md false false (u 0) (sideVal s f st (x.a.getD l 0))
    (extendTy t r.1, r.2))

/-- cvtff (08, R219-R220). -/
def execCvtff (f : LaneF) (s : State) : Res :=
  let t := f.ty.toNat
  let st := modBits f 16 4
  let md := modeOf s f
  laneAlu s (.cvtff f) f (sidesBad s f [st, t]) (is64Ty t) md 1 (fun x l u =>
    roundTo (sideFmt s f t) md f.sat (fzoOf s) (u 0) (sideVal s f st (x.a.getD l 0)))

/-- GFMT.BSM (02, R48). -/
def bsmOf (s : State) : Nat := ((cur s).gfmt.extractLsb' 32 2).toNat

/-- ILL_FMT of a scaled form unless BSM is 1, then of the descriptor. -/
def scaledBad (s : State) (scaled : Bool) (fm : Fmt) : Option Cause :=
  if scaled && bsmOf s != 1 then some .illFmt else fmtBad [fm]

/-- One code of `cvtn` (08, R221; 02, R55). Of a signalling NaN under a scale of 0xFF R221 names no flag beyond those of its policies,
and the model sets none beside them (DESIGN CHOICE, log 93). -/
def narrowCode (s : State) (f : LaneF) (fm : Fmt) (md : RMode) (u x : Nat) (v : XVal) : Nat × FFlags :=
  if x = 0xFF then roundTo fm md f.sat (fzoOf s) u (.nan false)
  else roundTo fm md f.sat (fzoOf s) u (xscale v (127 - (x : Int)))

/-- Bytes 2H and 2H + 1 of a word replaced. -/
def mergeBytes (old h lo hi : Nat) : Nat :=
  if h = 0 then old / 2 ^ 16 * 2 ^ 16 + hi % 256 * 256 + lo % 256
  else old % 2 ^ 16 + (lo % 256 + hi % 256 * 256) * 2 ^ 16

/-- cvtn: the other bytes of dest keep their values, zero for a queue (08, R221). -/
def execCvtn (f : LaneF) (s : State) : Res :=
  let fm := narrowFmt (cur s).gfmt (modBit f 17)
  let md := modeOf s f
  let d := f.dest.toNat
  laneAlu s (.cvtn f) f (scaledBad s (modBit f 18) fm) false md 2 (fun x l u =>
    let k := if modBit f 18 then x.c.getD l 0 % 256 else 127
    let lo := narrowCode s f fm md (u 0) k (floatA s f x 1 l)
    let hi := narrowCode s f fm md (u 1) k (floatB s f x 1 l)
    let old := if d < 0x88 then regVal s.g d l false else 0
    (mergeBytes old (modBits f 16 1) lo.1 hi.1, fflagsOr lo.2 hi.2))

/-- cvtw (08, R222). -/
def execCvtw (f : LaneF) (s : State) : Res :=
  let fm := narrowFmt (cur s).gfmt (modBit f 18)
  let md := modeOf s f
  laneAlu s (.cvtw f) f (scaledBad s (modBit f 19) fm) false md 1 (fun x l u =>
    let k := if modBit f 19 then x.b.getD l 0 % 256 else 127
    let v := elemOf fm (fziOf s) false (x.a.getD l 0 / 2 ^ (8 * modBits f 16 2))
    roundTo fmtF32 md f.sat (fzoOf s) (u 0) (if k = 0xFF then .nan false else xscale v ((k : Int) - 127)))

/-- The largest exponent of an element format (02, R54). -/
def emaxOf (fm : Fmt) : Int :=
  if fm.pol = 3 then (if fm.s then (fmtWidth fm : Int) - 2 else (fmtWidth fm : Int) - 1)
  else (fmtMaxCode fm / 2 ^ fm.m : Nat) - (fm.bias : Int)

/-- floor(log2 |x|) of a finite value that is not zero. -/
def xlog2 (x : XVal) : Int :=
  match x with
  | .fin _ m e _ => (m.log2 : Int) + e
  | _ => 0

/-- The scale of a block (02, R54). -/
def blockScale (fm : Fmt) (vs : List XVal) : Nat :=
  if vs.any (fun v => xisNan v || xisInf v) then 0xFF
  else
    let nz := vs.filter (fun v => !xisZero v)
    if nz = [] then 0
    else (clampInt (-127) 127 (nz.foldl (fun m v => max m (xlog2 v)) (-2000) - emaxOf fm) + 127).toNat

/-- qscale (08, R223). -/
def execQscale (f : LaneF) (s : State) : Res :=
  let fm := narrowFmt (cur s).gfmt (modBit f 16)
  withLane s (.qscale f) (scaledBad s true fm) (fun s1 x =>
    let k := blockScale fm (x.act.map (floatA s f x 1))
    .next (laneNext (landLanes s1 (cur s1).tag x.act f.dest.toNat false .ne 0 (fun _ _ => (k, {}))) x.e x.act.length))

/-- pack (08, R224). -/
def execPack (f : LaneF) (s : State) : Res :=
  let t := f.ty.toNat
  let md := modeOf s f
  if t = 2 || t = 3 then
    laneAlu s (.pack f) f none false md 2 (fun x l u =>
      let lo := roundTo (wideFmt t) md f.sat (fzoOf s) (u 0) (floatA s f x 1 l)
      let hi := roundTo (wideFmt t) md f.sat (fzoOf s) (u 1) (floatB s f x 1 l)
      (lo.1 + 2 ^ 16 * hi.1, fflagsOr lo.2 hi.2))
  else
    let st := if t = 12 then 8 else 9
    laneFun s (.pack f) f false (fun x l =>
      let lo := intRes t f.sat (intA f x st l)
      let hi := intRes t f.sat (intB f x st l)
      (lo.1 + 2 ^ 16 * hi.1, fflagsOr lo.2 hi.2))

/-- unpack: a float element widens exactly, and FZO flushes it as every lane result (02, R47; 08, R220, R224). -/
def execUnpack (f : LaneF) (s : State) : Res :=
  let t := f.ty.toNat
  laneFun s (.unpack f) f false (fun x l =>
    let v := x.a.getD l 0 / 2 ^ (tyWidth t * modBits f 16 2) % 2 ^ tyWidth t
    if t = 2 || t = 3 then roundTo fmtF32 .ne false (fzoOf s) 0 (fmtRead (wideFmt t) (fziOf s) v)
    else (extendTy t v, {}))

end Sys2Proof.Machine
end

