-- ==== Sys2Proof/Machine/LaneSfu.lean ====
section
/-!
DEFINITION. The special-function class (08, R225-R228). An approximation's results are those of the free function
`Config.approx`, if that keeps the accuracy of 08, R225 and the monotonicity of R226 at every operand; else they are the true
values rounded, which are computed to about 70 bits here (log 9).
-/

namespace Sys2Proof.Machine

/-! ## True values, in fixed point with 96 fraction bits -/

def fixOne : Nat := 2 ^ 96
def fixLn2 : Nat := 54916777467707473351141471128
def fixPi : Nat := 248902613312231085230521944622
def fixLog2e : Nat := 114302077158074026402637675936

/-- Terms `n .. 1` of the series of e^z, for 0 ≤ z < 1. -/
def expGo : Nat → Nat → Nat → Nat
  | 0, _, acc => acc
  | n + 1, z, acc => expGo n z (fixOne + z * acc / fixOne / (n + 1))

/-- 2^f for a fraction. -/
def exp2Fix (f : Nat) : Nat := expGo 40 (f * fixLn2 / fixOne) fixOne

/-- The bits of log2 x for 1 ≤ x < 2 in fixed point with 200 fraction bits, `n` of them. -/
def log2Go : Nat → Nat → Nat → Nat
  | 0, _, acc => acc
  | n + 1, x, acc =>
    let y := x * x / 2 ^ 200
    if 2 ^ 201 ≤ y then log2Go n (y / 2) (2 * acc + 1) else log2Go n y (2 * acc)

/-- Terms of sin a / a and cos a in a²; `k` is 1 for the sine and 0 for the cosine. -/
def trigGo (k : Nat) : Nat → Nat → Nat → Nat
  | 0, _, acc => acc
  | n + 1, a2, acc => trigGo k n a2 (fixOne - a2 * acc / fixOne / ((2 * (n + 1) + k) * (2 * (n + 1) + k - 1)))

def sinFix (a : Nat) : Nat := a * trigGo 1 20 (a * a / fixOne) fixOne / fixOne
def cosFix (a : Nat) : Nat := trigGo 0 20 (a * a / fixOne) fixOne

/-- |x| modulo 2, in fixed point. -/
def mod2Fix (m : Nat) (e : Int) : Nat :=
  if 0 ≤ e then (m <<< e.toNat) % 2 * fixOne
  else (m % 2 ^ (1 - e).toNat * fixOne) >>> (-e).toNat

/-- sin(π t) for t in [0, 2): sign and magnitude. -/
def sinPi (t : Nat) : Bool × Nat :=
  let half := fixOne / 2
  let q := t / half % 4
  let u := fixPi * (t % half) / fixOne
  (2 ≤ q, if q % 2 = 0 then sinFix u else cosFix u)

/-- A magnitude in fixed point as fraction bits from 2^k. -/
def fixed (x : Nat) (k : Int) : Nat := if 0 ≤ k then x <<< k.toNat else x >>> (-k).toNat

/-- The true value of an approximation's function at a finite operand that no rule of 08, R226-R227 names. -/
def trueValue (op : Nat) (neg : Bool) (m : Nat) (e : Int) : XVal :=
  match op with
  | 0x070 => finDiv false 1 0 neg m e
  | 0x071 => (match finSqrt m e with
    | .fin _ r k _ => finDiv false 1 0 false r k
    | y => y)
  | 0x072 =>
    let z := fixed (m * fixOne) e
    let n := z / fixOne
    let f := z % fixOne
    if neg then (if f = 0 then .fin false (exp2Fix (fixOne - 1)) (-(n : Int) - 1 - 96) true
      else .fin false (exp2Fix (fixOne - f)) (-(n : Int) - 1 - 96) true)
    else .fin false (exp2Fix f) ((n : Int) - 96) true
  | 0x073 =>
    let k := (m.log2 : Int) + e
    let v : Int := k * (2 ^ 90 : Nat) + log2Go 90 (m <<< (200 - m.log2)) 0
    .fin (v < 0) v.natAbs (-90) true
  | 0x074 =>
    if magLt m e 1 (-40) then .fin neg (m * fixPi) (e - 96) true
    else
      let r := sinPi (mod2Fix m e)
      .fin (r.1 != neg) r.2 (-96) true
  | 0x075 =>
    let r := sinPi (mod2Fix m e + fixOne / 2)
    .fin r.1 r.2 (-96) true
  | _ =>
    let z := fixed (2 * m * fixLog2e) e
    let ex := exp2Fix (z % fixOne) <<< (z / fixOne)
    .fin neg (((ex - fixOne) <<< 96) / (ex + fixOne)) (-96) true

/-! ## Accuracy -/

/-- ulp of a value as the exponent of a power of two (08, R226). -/
def ulpExp (x : XVal) : Int := max (xlog2 x) (-126) - 23

/-- |a - b| ≤ n * 2^k for finite values. -/
def within (a b : XVal) (n : Nat) (k : Int) : Bool :=
  match finAddX a (xneg b) with
  | .fin _ m e _ => !magLt n k m e
  | _ => false
where
  finAddX (a b : XVal) : XVal := xadd false a b

/-! ## Exact results (08, R226-R227) -/

/-- A finite value is an integer. -/
def xint (m : Nat) (e : Int) : Bool := 0 ≤ e || m % 2 ^ (-e).toNat = 0

/-- A finite value is a power of two: its exponent. -/
def xpow2 (m : Nat) (e : Int) : Option Int := if m = 2 ^ m.log2 then some ((m.log2 : Int) + e) else none

def code32 (x : XVal) : Nat := (roundTo fmtF32 .ne false false 0 x).1

/-- The results that the rules give for an operand, with their flags; none where the result is approximate. -/
def exactAt (op : Nat) (x : XVal) : Option (Nat × FFlags) :=
  let nan : Nat := fmtNan fmtF32
  let one : Bool → Nat := fun n => code32 (.fin n 1 0 false)
  let zero : Bool → Nat := fun n => code32 (xzero n)
  let inf : Bool → Nat := fmtInf fmtF32
  match x with
  | .nan sn => some (nan, { nv := sn })
  | .inf n =>
    some (match op with
    | 0x070 => (zero n, {})
    | 0x071 => if n then (nan, fflagNV) else (zero false, {})
    | 0x072 => if n then (zero false, {}) else (inf false, {})
    | 0x073 => if n then (nan, fflagNV) else (inf false, {})
    | 0x074 => (nan, fflagNV)
    | 0x075 => (nan, fflagNV)
    | _ => (one n, {}))
  | .fin n m e _ =>
    if m = 0 then
      some (match op with
      | 0x070 => (inf n, fflagDZ)
      | 0x071 => (inf n, fflagDZ)
      | 0x072 => (one false, {})
      | 0x073 => (inf true, fflagDZ)
      | 0x074 => (zero n, {})
      | 0x075 => (one false, {})
      | _ => (zero n, {}))
    else if n && (op = 0x071 || op = 0x073) then some (nan, fflagNV)
    else match op with
      | 0x070 => (match xpow2 m e with
        | some k => if -126 ≤ k && k ≤ 126 then some (code32 (.fin n 1 (-k) false), {}) else none
        | none => none)
      | 0x071 => (match xpow2 m e with
        | some k => if k % 2 = 0 && -126 ≤ k && k ≤ 126 then some (code32 (.fin false 1 (-(k / 2)) false), {}) else none
        | none => none)
      | 0x072 =>
        if !n && !magLt m e 128 0 then some (inf false, {})
        else if n && !magLt m e 150 0 then some (zero false, {})
        else if xint m e then
          let k : Int := fixed m e
          some (code32 (.fin false 1 (if n then -k else k) false), {})
        else none
      | 0x073 => (match xpow2 m e with
        | some k => if -149 ≤ k && k ≤ 127 then some (code32 (xOfInt k), {}) else none
        | none => none)
      | 0x074 =>
        if xint m e then some (zero n, {})
        else if xint (2 * m) e then
          some (one ((fixed (2 * m) e / 2 % 2 = 1) != n), {})
        else none
      | 0x075 =>
        if xint m e then some (one (0 ≤ e && (m <<< e.toNat) % 2 = 1 || e < 0 && (m >>> (-e).toNat) % 2 = 1), {})
        else if xint (2 * m) e then some (zero false, {}) else none
      | _ =>
        if magLt m e 1 (-12) then some (code32 (.fin n m e false), {})
        else if !magLt m e 19 (-1) then some (one n, {}) else none

/-! ## Accuracy and monotonicity of the approximations (08, R225-R226) -/

/-- A result is as accurate as 08, R225 states; where the true value lies below the normal range it is a subnormal or a zero of
its sign (08, R226). -/
def accurate (op : Nat) (big : Bool) (y r : XVal) : Bool :=
  let small := match r with
    | .fin n m e _ => n = xsign y && magLt m e 1 (-126)
    | _ => false
  if xisNan r || xisInf r then false
  else if xlog2 y < -126 && !small then false
  else match op with
    | 0x070 => within y r 1 (ulpExp y)
    | 0x071 => within y r 1 (ulpExp y)
    | 0x072 => within y r 2 (ulpExp y)
    | 0x073 => if big then within y r 2 (ulpExp y) else within y r 1 (-22)
    | 0x076 => within y r 2 (ulpExp y)
    | _ => within y r 1 (-22)

/-- The true value lies beyond the largest finite one. -/
def beyondMax (y : XVal) : Bool :=
  match y with
  | .fin _ k q _ => magLt (fmtMaxFinite fmtF32).1 (fmtMaxFinite fmtF32).2 k q
  | _ => false

/-- The result at an operand with a choice `r` for the approximate ones. -/
def resultWith (r : BitVec 32 → Nat) (op : Nat) (raw : BitVec 32) : Nat × FFlags :=
  let x := fmtDec fmtF32 raw.toNat
  match exactAt op x with
  | some y => y
  | none => match x with
    | .fin n m e _ =>
      let y := trueValue op n m e
      (if beyondMax y then fmtInf fmtF32 (xsign y) else r raw, {})
    | _ => (0, {})

/-- The true value rounded. -/
def trueRounded (op : Nat) (raw : BitVec 32) : Nat :=
  match fmtDec fmtF32 raw.toNat with
  | .fin n m e _ => code32 (trueValue op n m e)
  | _ => 0

/-- `n` times a finite value, rounded down to an integer. -/
def floorOf (n : Nat) (x : XVal) : Int :=
  match x with
  | .fin s m e _ => (roundToInt .dn 0 s (n * m) e false).1
  | _ => 0

/-- Whether the true function rises (true) or falls from `x` to a greater `y` over one interval that holds both (08, R226). -/
def trend (op : Nat) (x y : XVal) : Option Bool :=
  match op with
  | 0x070 => if xsign x = xsign y && !xisZero x && !xisZero y then some false else none
  | 0x071 => if xsign x || xisZero x then none else some false
  | 0x074 =>
    -- from the half-integer at or below x
    let k := (floorOf 2 x + 1) / 2
    if xcmp y (.fin (2 * k + 1 < 0) (2 * k + 1).natAbs (-1) false) = .gt then none else some (k % 2 = 0)
  | 0x075 =>
    let k := floorOf 1 x
    if xcmp y (xOfInt (k + 1)) = .gt then none else some (k % 2 = 1)
  | _ => some true

/-- The results at two operands stand as the true function has them (08, R226). -/
def monoAt (r : BitVec 32 → Nat) (op : Nat) (a b : BitVec 32) : Bool :=
  let x := fmtDec fmtF32 a.toNat
  let y := fmtDec fmtF32 b.toNat
  if xisNan x || xisNan y || xisInf x || xisInf y || xcmp x y != .lt then true
  else
    let u := fmtDec fmtF32 (resultWith r op a).1
    let v := fmtDec fmtF32 (resultWith r op b).1
    match trend op x y with
    | none => true
    | some up => xisNan u || xisNan v || (if up then xcmp u v != .gt else xcmp u v != .lt)

/-- The result is as accurate as stated wherever it is approximate. -/
def accurateAt (r : BitVec 32 → Nat) (op : Nat) (raw : BitVec 32) : Bool :=
  match fmtDec fmtF32 raw.toNat with
  | .fin n m e st =>
    let y := trueValue op n m e
    (exactAt op (.fin n m e st)).isSome || beyondMax y || accurate op (!(magLt m e 2 0 && magLt 1 (-1) m e)) y (fmtDec fmtF32 (r raw))
  | _ => true

/-- The free function of an approximation keeps what 08, R225-R226 state of it, at every operand. -/
def approxLawful (op : Nat) : Bool :=
  decide (∀ a : BitVec 32, accurateAt (fun x => (Config.approx op x).toNat) op a = true)
    && decide (∀ a b : BitVec 32, monoAt (fun x => (Config.approx op x).toNat) op a b = true)

/-- The choice for an approximate result. -/
def approxChoice (op : Nat) (raw : BitVec 32) : Nat :=
  if approxLawful op then (Config.approx op raw).toNat else trueRounded op raw

/-- An approximation: FZI on its operand, FZO on its result (08, R226). -/
def approxF32 (op : Nat) (fzi fzo n : Bool) (v : Nat) : Nat × FFlags :=
  let raw := negSign 32 n v
  let r := resultWith (approxChoice op) op (BitVec.ofNat 32
    (if fzi && fmtIsSub fmtF32 raw then fmtSignBit fmtF32 (raw / 2 ^ 31 % 2 = 1) else raw))
  (if fzo && fmtIsSub fmtF32 r.1 then fmtSignBit fmtF32 (r.1 / 2 ^ 31 % 2 = 1) else r.1, r.2)

/-- √A before rounding (08, R227). -/
def sqrtOf (x : XVal) : XVal :=
  match x with
  | .nan sn => .nan sn
  | .inf n => if n then xinvalid else .inf false
  | .fin n m e st => if m = 0 then .fin n 0 e st else if n then xinvalid else finSqrt m e

/-- A / B before rounding, and DZ (08, R228). -/
def divOf (a b : XVal) : XVal × Bool :=
  match a, b with
  | .nan s, .nan t => (.nan (s || t), false)
  | .nan s, _ => (.nan s, false)
  | _, .nan t => (.nan t, false)
  | .inf _, .inf _ => (xinvalid, false)
  | .inf n, y => (.inf (n != xsign y), false)
  | x, .inf k => (xzero (xsign x != k), false)
  | .fin n m e _, .fin k m' e' _ =>
    if m' = 0 then (if m = 0 then (xinvalid, false) else (.inf (n != k), true))
    else if m = 0 then (xzero (n != k), false)
    else (finDiv n m e k m' e', false)

/-- The result of a special-function instruction in a lane, from its captured sources and the mode its path had (08, R208,
R225). -/
def sfuResult (gm : W32) (op : Nat) (f : LaneF) (a b u : Nat) : Nat × FFlags :=
  let t := f.ty.toNat
  let fzi := gm.getLsbD 3
  let fzo := gm.getLsbD 4
  let md := if f.rnd = 0#3 then rmodeOf (gm.extractLsb' 0 3) else rmodeOf f.rnd
  if op = 0x077 then roundTo (wideFmt t) md f.sat fzo u (sqrtOf (floatOf fzi t (srcNeg f.srcA) a))
  else if op = 0x078 then
    let q := divOf (floatOf fzi t (srcNeg f.srcA) a) (floatOf fzi t (srcNeg f.srcB) b)
    let r := roundTo (wideFmt t) md f.sat fzo u q.1
    (r.1, fflagsOr r.2 { dz := q.2 })
  else approxF32 op fzi fzo (srcNeg f.srcA) a

/-! ## Issue and completion (01, R27; 08, R209; 19, R357-R358) -/

/-- The sources that a special-function instruction reads: two of `fdiv`, one of every other (08, R225; 19, R361). -/
def sfuVals (i : Instr) (x : LaneIn) : List (List Nat) :=
  match i with
  | .fdiv _ => [x.a, x.b]
  | _ => [x.a]

/-- A special-function instruction issues with the operands it has read; it lands at LONG_LATENCY_COMPLETE. -/
def laneSfu (s : State) (i : Instr) (f : LaneF) : Res :=
  withLane s i none (fun s1 x =>
    if captureFull s1 then laneWait s x.e .capture
    else
      let s2 := issue s1 { id := 0, g := s1.g.key, slot := s1.slot, tag := 0, pc := lanePc x.e, clause := x.e.id, setB := true
                           cls := .sfu, instr := i, mask := x.m, cmask := x.e.mask, vals := sfuVals i x, land := .lane f }
      .next (laneNext s2 x.e x.act.length))

/-- rcpa (08, R225-R228). -/
def execRcpa (f : LaneF) (s : State) : Res := laneSfu s (.rcpa f) f

/-- rsqrta (08, R225-R228). -/
def execRsqrta (f : LaneF) (s : State) : Res := laneSfu s (.rsqrta f) f

/-- exp2a (08, R225-R228). -/
def execExp2a (f : LaneF) (s : State) : Res := laneSfu s (.exp2a f) f

/-- log2a (08, R225-R228). -/
def execLog2a (f : LaneF) (s : State) : Res := laneSfu s (.log2a f) f

/-- sinpa (08, R225-R228). -/
def execSinpa (f : LaneF) (s : State) : Res := laneSfu s (.sinpa f) f

/-- cospa (08, R225-R228). -/
def execCospa (f : LaneF) (s : State) : Res := laneSfu s (.cospa f) f

/-- tanha (08, R225-R228). -/
def execTanha (f : LaneF) (s : State) : Res := laneSfu s (.tanha f) f

/-- sqrt (08, R225-R228). -/
def execSqrt (f : LaneF) (s : State) : Res := laneSfu s (.sqrt f) f

/-- fdiv (08, R225-R228). -/
def execFdiv (f : LaneF) (s : State) : Res := laneSfu s (.fdiv f) f

/-- A special-function operation of the focused group lands: registers, draws, flags (08, R208-R209). Under `.rs` its
rounding word is drawn here, as it lands, after those of later instructions that have drawn before it: no rule gives the order
(DESIGN CHOICE, log 95). -/
def landSfu (s : State) (o : Op) : State :=
  match laneParts o.instr with
  | none => s
  | some (op, f) =>
    let md := if f.rnd = 0#3 then rmodeOf (o.gmode.extractLsb' 0 3) else rmodeOf f.rnd
    landLanes s o.tag (lanesOf o.mask) f.dest.toNat (is64Ty f.ty.toNat) md (if op.toNat ≤ 0x076 then 0 else 1)
      (fun l u => sfuResult o.gmode op.toNat f ((o.vals.headD []).getD l 0) ((o.vals.drop 1).headD [] |>.getD l 0) (u 0))

end Sys2Proof.Machine
end

