-- ==== Sys2Proof/Machine/Ticket.lean ====
section
/-!
DEFINITION. Tickets: allocation, checks, fetches, redeems of the scalar stream (05, R128-R137).
-/

namespace Sys2Proof.Machine

/-- The fields of a ticket (05, R128). -/
def tkSlice (t : W32) : Nat := (t.extractLsb' 24 8).toNat
def tkEntry (t : W32) : Nat := (t.extractLsb' 14 10).toNat
def tkGen (t : W32) : Nat := (t.extractLsb' 7 7).toNat
def tkSheet (t : W32) : Nat := (t.extractLsb' 0 7).toNat

def ticketOf (e : Ticket) : W32 :=
  BitVec.ofNat 32 (e.slice * 2 ^ 24 + e.idx * 2 ^ 14 + e.gen * 2 ^ 7 + sheetOf e.pid)

/-- The entry of a table; one never used is FREE. -/
def entryOf (s : State) (slice idx : Nat) : Ticket :=
  (s.tickets.find? (fun e => e.slice = slice && e.idx = idx)).getD { slice := slice, idx := idx }

def setEntry (s : State) (e : Ticket) : State :=
  if s.tickets.any (fun x => x.slice = e.slice && x.idx = e.idx) then
    { s with tickets := s.tickets.map (fun x => if x.slice = e.slice && x.idx = e.idx then e else x) }
  else { s with tickets := s.tickets ++ [e] }

/-- The entry frees, with the next generation (05, R129). -/
def freeEntry (s : State) (e : Ticket) : State :=
  setEntry s { slice := e.slice, idx := e.idx, gen := (e.gen + 1) % 128 }

/-- The entries of a slice's table that a partition holds. -/
def ticketsHeld (s : State) (slice pid : Nat) : Nat :=
  (s.tickets.filter (fun e => e.st != .free && e.slice = slice && e.pid = pid)).length

/-- Entries that partitions hold beyond their guarantees (18, R345). -/
def poolEntries (s : State) (slice : Nat) : Nat :=
  (((s.tickets.filter (fun e => e.st != .free && e.slice = slice)).foldl
    (fun l e => if l.contains e.pid then l else e.pid :: l) []).map
      (fun p => ticketsHeld s slice p - ownShare s slice Prt.tksh p)).sum

/-- Class-3 entries that the partitions `p` hold on this package. -/
def thirdClass (s : State) (p : Nat → Bool) : Nat :=
  (s.tickets.filter (fun e => e.st != .free && e.cls = 3 && p e.pid)).length

/-- The partition may take `n` more entries of a slice's table, of a lease class: of its guarantee, then of those that no
guarantee claims; class 3 stays within its quota, and an inset's within its sheet's too (05, R130-R131; 18, R344-R345). -/
def ticketRoom (s : State) (pid slice cls n : Nat) : Bool :=
  let own := ownShare s slice Prt.tksh pid
  let held := ticketsHeld s slice pid
  (held + n ≤ own || poolEntries s slice + (held + n - own) - (held - own) ≤ poolShare s slice 1024 Prt.tksh)
    && (s.tickets.filter (fun e => e.st != .free && e.slice = slice)).length + n ≤ 1024
    && (cls != 3 || (thirdClass s (fun p => p = pid) + n ≤ (prtOf s pid).tk3q
        && thirdClass s (fun p => sheetOf p = sheetOf pid) + n ≤ (prtOf s (8 * sheetOf pid)).tk3q))

/-- The lowest free entry of a table. -/
def freeIdx (s : State) (slice : Nat) : Nat :=
  ((List.range 1024).find? (fun i => !s.tickets.any (fun e => e.slice = slice && e.idx = i && e.st != .free))).getD 0

/-- The reads of a fetch; a fault found by translation is kept with its read (05, R131). -/
def fetchParts (s : State) (g : Group) (ga n : Nat) : List Part :=
  (pieces ga n).map (fun (o, k) =>
    match locate s g (ga + o) k .read with
    | .ok (.stash, fa) => { ga := ga + o, fa := fa, size := k, kind := .nowhere, st := .done, err := some (.stashRange, ga + o) }
    | .ok (kind, fa) => { ga := ga + o, fa := fa, size := k, kind := kind }
    | .error (c, stg) => { ga := ga + o, size := k, kind := .nowhere, st := .done, err := some (c, ga + o), stg := stg })

/-- Starts the reads of an entry as loads of the focused group (05, R131, R135). -/
def startFetch (s : State) (i : Instr) (slice idx ga n : Nat) : State :=
  let s1 := issue s { id := 0, g := s.g.key, slot := s.slot, tag := 0, cls := .fetch, instr := i
                      vals := [[slice, idx]], parts := fetchParts s s.g ga n }
  { s1 with ops := s1.ops.map (fun o => if o.id = s.nextId then { o with paths := 0#4 } else o) }

/-- Allocates an entry for the focused group and starts its fetch: the ticket. -/
def allocTicket (s : State) (i : Instr) (ga n cls : Nat) : State × W32 :=
  let sl := coreSlice s.g.core
  let idx := freeIdx s sl
  let e : Ticket := { entryOf s sl idx with
    st := .fetching, pid := s.g.pid, len := n, cls := cls, deadline := none, fault := none, fgroup := none
    core := s.g.core, g := s.g.key, ga := ga, data := [] }
  (startFetch (setEntry s e) i sl idx ga n, ticketOf e)

/-- A ticket instruction that has written its tickets: counted on path 3 until those before it have returned (05,
R108). -/
def countTicket (s : State) (i : Instr) (cls : OpCls) (mask : W32) : State :=
  pruneOps (issue s { id := 0, g := s.g.key, slot := s.slot, tag := 0, cls := cls, instr := i, mask := mask
                      paths := 8#4, returned := true })

/-- Why an allocation in a slice's table waits, if it does: the slice holds requests (22, R415; log 101), or has no entry left
(05, R131). -/
def ticketWait (s : State) (pid slice cls n : Nat) : Option Wait :=
  if sliceIsolated s slice then some .slice
  else if ticketRoom s pid slice cls n then none
  else some (.ticket cls n)

/-- tkld (05, R131). -/
def execTkld (d a l : BitVec 6) (c : BitVec 2) (s : State) : Res :=
  needS s [d, a]
    (let ga := (rs s a).toNat
     let n := 16 * l.toNat
     watched s [(0, .read, ga, n)] false
      (if ga % 16 != 0 then trapS s .align ga
       else if whereIs ga n != .outside then trapS s .stashRange ga
       else roomToIssue s .tkld 8#4
        (match ticketWait s s.g.pid (coreSlice s.g.core) c.toNat 1 with
         | some w => waitFor s w
         | none =>
           let (s1, t) := allocTicket s (.tkld d a l c) ga n c.toNat
           .next (advance (ws (countTicket s1 (.tkld d a l c) .tkld (cur s).mask) d (t.zeroExtend 64))))))

/-- What the checks of a redeem find (05, R133). -/
inductive TkCheck where
  | foreign
  | stale
  | fetching
  | faulted (c : Cause) (addr : Nat)
  | ready
  deriving DecidableEq, Repr

/-- The checks of 05, R133 by the focused group; an entry of another partition counts as another sheet's (18, R343). -/
def checkTicket (s : State) (t : W32) : TkCheck :=
  let e := entryOf s (tkSlice t) (tkEntry t)
  if tkSheet t != sheetOf s.g.pid || (e.st != .free && e.pid != s.g.pid) then .foreign
  else if e.st = .free || e.st = .draining || e.gen != tkGen t then .stale
  else match e.st, e.fault with
    | .fetching, _ => .fetching
    | .faulted, some (c, a) => .faulted c a
    | _, _ => .ready

/-- A redeem of a FAULTED entry (05, R135): from its faulted group the read is performed again; from any other the
fault is raised, and its group becomes the faulted group. -/
def redeemFault (s : State) (i : Instr) (t : W32) (c : Cause) (addr : Nat) (lane : Option Nat) : Res :=
  let e := entryOf s (tkSlice t) (tkEntry t)
  if e.fgroup = some s.g.key then
    waitFor (startFetch (setEntry s { e with st := .fetching, fault := none, data := [], deadline := none
                                             core := s.g.core, g := s.g.key }) i e.slice e.idx e.ga e.len)
      (.fetching e.slice e.idx)
  else
    .next (takeTrap (setEntry s { e with fgroup := some s.g.key, deadline := none })
      { cause := c, tk := true, stg := e.stg, slot := s.slot, addr := addr, info := t.toNat, lane := lane })

/-- The paths of a redeem into the stash: 05, R107 counts every redeem on path 3, 06, R157 one into the stash on path 1 (DEDUCED:
on both, log 62). -/
def redeemPaths : BitVec 4 := 10#4

/-- The delivery of an entry into the stash (05, R134): the lines are empty until their bytes land. -/
def deliverStash (s : State) (i : Instr) (t : W32) (off : Nat) : State :=
  let e := entryOf s (tkSlice t) (tkEntry t)
  let s1 := freeEntry (markEmpty s s.g.core off e.len) e
  issue s1 { id := 0, g := s.g.key, slot := s.slot, tag := 0, cls := .tkred, instr := i, mask := (cur s).mask
             pc := (cur s).pc.toNat, begun := true, paths := redeemPaths
             parts := (pieces off e.len).map (fun (o, k) =>
               { ga := stashWindow + off + o, fa := off + o, size := k, kind := .ticket e.slice e.idx, wr := true
                 data := leNat ((e.data.drop o).take k) }) }

/-- The redeem has issued, with its operands, and waits; once only (19, R357; log 71). -/
def holdRedeem (s : State) (i : Instr) (t : W32) (off : Nat) : State :=
  if (descOp s i).isSome then s
  else issue s { id := 0, g := s.g.key, slot := s.slot, tag := 0, cls := .halo, instr := i, mask := (cur s).mask
                 vals := [[t.toNat], [off]], paths := redeemPaths }

/-- tkred and tkred.q (05, R134) of a ticket to an offset, once the operands are read. -/
def redeemAt (s : State) (i : Instr) (q : Option SReg) (t : W32) (off : Nat) : Res :=
  let e := entryOf s (tkSlice t) (tkEntry t)
  let done : Nat → State → Res := fun v s' => .next (advance (match q with
    | some d => ws s' d (BitVec.ofNat 64 v)
    | none => s'))
  let room : Res → Res := fun k => if (descOp s i).isSome then k else roomToIssue s .tkred redeemPaths k
  if off % 128 != 0 then trapS s .align off
  else if sliceIsolated s (tkSlice t) then room (waitFor (holdRedeem s i t off) .slice)
  else match checkTicket s t with
    | .foreign => if q.isSome then done 2 (dropDesc s i) else trapS s .tkForeign
    | .stale => if q.isSome then done 1 (dropDesc s i) else trapS s .tkStale
    | r =>
      if 2 ^ 20 < off + e.len || !inAllot s s.g off e.len then trapS s .stashRange (stashWindow + off % 2 ^ 20)
      else room (match r with
        | .fetching => waitFor (holdRedeem s i t off) (.fetching e.slice e.idx)
        | .faulted c addr => redeemFault (holdRedeem s i t off) i t c addr none
        | _ => done 0 (deliverStash (dropDesc s i) i t off))

/-- The ticket and the offset of a redeem: as the registers have them, or as it read them when it issued (19, R357). -/
def redeemArgs (s : State) (i : Instr) (a x : SReg) : W32 × Nat :=
  match descOp s i with
  | some o => (BitVec.ofNat 32 ((o.vals.getD 0 []).headD 0), (o.vals.getD 1 []).headD 0)
  | none => ((rs s a).truncate 32, (rs s x).toNat)

/-- tkred and tkred.q. -/
def redeem (s : State) (i : Instr) (q : Option SReg) (a x : SReg) : Res :=
  needS s (a :: x :: q.toList) (redeemAt s i q (redeemArgs s i a x).1 (redeemArgs s i a x).2)

/-- tkred (05, R134). -/
def execTkred (a x : BitVec 6) (s : State) : Res := redeem s (.tkred a x) none a x

/-- tkred.q (05, R134). -/
def execTkredQ (d a x : BitVec 6) (s : State) : Res := redeem s (.tkredQ d a x) (some d) a x

/-- tkdrop (05, R137). -/
def execTkdrop (a : BitVec 6) (s : State) : Res :=
  needS s [a]
    (let t := (rs s a).truncate 32
     let e := entryOf s (tkSlice t) (tkEntry t)
     if sliceIsolated s (tkSlice t) then waitFor s .slice
     else match checkTicket s t with
     | .foreign => trapS s .tkForeign
     | .stale => trapS s .tkStale
     | .fetching => .next (advance (setEntry s { e with st := .draining }))
     | _ => .next (advance (freeEntry s e)))

end Sys2Proof.Machine
end

