-- ==== Sys2Proof/Machine/LaneMem.lean ====
section
/-!
DEFINITION. Lane loads, stores, atomics, tickets and prefetches (05, R116-R120, R126-R127, R132-R136; 13, R283).
-/

namespace Sys2Proof.Machine

/-! ## Addresses (05, R117) -/

/-- The address of a lane, or a stash range fault with the address that the lane names. -/
def laneAddr (f : LaneF) (sc : Nat) (disp : Int) (st : Bool) (size a b : Nat) : Except (Cause × Nat) Nat :=
  if st then
    let o := intOf true 32 a + disp
    if o < 0 || (2 ^ 20 : Nat) < o + size then .error (.stashRange, bitsOfInt 64 ((stashWindow : Int) + o))
    else .ok (stashWindow + o.toNat)
  else
    let off : Int := if modBit f 16 then intOf true 32 a else (a % 2 ^ 32 : Nat)
    .ok (bitsOfInt 64 ((b : Int) + off * (2 ^ sc : Nat) + disp))

/-- One lane's access. -/
structure LAcc where
  lane : Nat
  ga : Nat
  kind : PKind
  fa : Nat
  deriving DecidableEq, Repr

/-- A fault of a lane: lane, cause, stage, address. -/
abbrev LFault := Nat × Cause × Bool × Nat

/-- The accesses of the lanes, or the fault of the lowest lane that has one (05, R118). -/
def lanesLocate (s : State) (size al : Nat) (acc : Acc) : List (Nat × Except (Cause × Nat) Nat) → Except LFault (List LAcc)
  | [] => .ok []
  | (l, .error (c, a)) :: _ => .error (l, c, false, a)
  | (l, .ok ga) :: r =>
    if ga % al != 0 then .error (l, .align, false, ga)
    else match locate s s.g ga size acc with
      | .error (c, stg) => .error (l, c, stg, ga)
      | .ok (kind, fa) =>
        match lanesLocate s size al acc r with
        | .error e => .error e
        | .ok rest => .ok (⟨l, ga, kind, fa⟩ :: rest)

/-- The addresses that the lanes name, for the watch check, which comes before any fault (21, R400). -/
def named (acc : Acc) (size : Nat) (l : List (Nat × Except (Cause × Nat) Nat)) : List (Nat × Acc × Nat × Nat) :=
  l.map (fun x => match x.2 with
    | .ok ga => (x.1, acc, ga, size)
    | .error (_, ga) => (x.1, acc, ga, size))

/-- Stash ranges of a lane instruction: empty lines, then mapped words to fill, then on (06, R158-R159). -/
def laneStash (s : State) (e : CEnt) (wr : Bool) (rs : List (Nat × Nat × Nat)) (k : Res) : Res :=
  if rs.any (fun r => stashPending s r.2.1 r.2.2 wr) then laneWait s e .drain
  else match rs.findSome? (fun r => emptyLine s s.g.core r.2.1 r.2.2) with
  | some l =>
    laneWait (if e.wait != some (.stashLine l) then noteEvent s s.g 6 (BitVec.ofNat 64 (lanePc e)) 1 else s) e (.stashLine l)
  | none =>
    match rs.findSome? (fun r => (mapNeed s s.g r.2.1 r.2.2 wr).map (fun n => (r.1, n))) with
    | none => k
    | some (l, w, m) =>
      match mapBad s s.g w, locate s s.g (mapGa m (w / 128 * 128)) 128 .read with
      | some c, _ => laneTrap (dropBad s s.g w) c (some l) (mapGa m w)
      | none, .error (c, stg) => laneTrap s c (some l) (mapGa m w) stg
      | none, .ok (kind, _) =>
        laneWait (startFill s s.g (w / 128)) e (.mappedFill (mapGa m w) (match kind with
          | .peer _ => true
          | _ => false))

/-- The waits before an access issues (05, R108, R121; 19, R358): `s1` is the state that has read the sources. -/
def laneRoom (s s1 : State) (e : CEnt) (cls : OpCls) (paths : BitVec 4) (k : Res) : Res :=
  if fenceHolds s1 then laneWait s e .fenced
  else match countersFull s1 paths with
  | some _ => laneWait s e .room
  | none => if capturable cls && captureFull s1 then laneWait s e .capture else k

/-- The watch check of a lane instruction. -/
def laneWatched (s : State) (l : List (Nat × Acc × Nat × Nat)) (k : Res) : Res :=
  if (cur s).exempt then k
  else match watchFind s s.g.pid l with
    | none => k
    | some (i, ln, a) =>
      .next (takeTrap s { cause := .watch, slot := s.slot, addr := a, info := i, lane := some ln })

def lpaths (l : List LAcc) : BitVec 4 := l.foldl (fun m x => m ||| pathOfKind x.kind) 0#4

/-- The stash ranges among the accesses. -/
def stashOf (size : Nat) (l : List LAcc) : List (Nat × Nat × Nat) :=
  l.filterMap (fun x => if x.kind = .stash then some (x.lane, x.fa, size) else none)

/-- An operation of the lane stream. -/
def laneOpOf (s : State) (i : Instr) (x : LaneIn) (cls : OpCls) (ps : List Part) : Op :=
  { id := 0, g := s.g.key, slot := s.slot, tag := 0, pc := lanePc x.e, clause := x.e.id, cls := cls, instr := i
    mask := x.m, cmask := x.e.mask, parts := ps }

/-- The address sources as captured: an access to the stash window reads no base (05, R117; 19, R357). -/
def addrVals (st : Bool) (x : LaneIn) : List (List Nat) :=
  x.a.map (fun v => v % 2 ^ 32) :: (if st then [] else [x.b])

/-! ## lld and lst -/

/-- lld (05, R118): the stash lanes are read at once, the others at their targets; it lands on completion. -/
def execLld (f : LaneF) (s : State) : Res :=
  withLane s (.lld f) none (fun s1 x =>
    let size := tyWidth f.ty.toNat / 8
    let as := x.act.map (fun l => (l, laneAddr f (modBits f 18 2) f.imm.toInt (modBit f 17) size (x.a.getD l 0) (x.b.getD l 0)))
    laneWatched s (named .read size as)
      (match lanesLocate s1 size size .read as with
       | .error (l, c, stg, a) => laneTrap s c (some l) a stg .read
       | .ok ps =>
         laneRoom s s1 x.e .load (lpaths ps)
          (laneStash s x.e false (stashOf size ps)
            (let parts : List Part := ps.map (fun p =>
              let q : Part := { lane := p.lane, ga := p.ga, fa := p.fa, size := size, kind := p.kind }
              if p.kind = .stash then { q with st := .done, res := stashRead s1 s1.g.core p.fa size } else q)
             let s2 := if ps = [] then s1
               else issue s1 { laneOpOf s1 (.lld f) x .load parts with land := .lane f, vals := addrVals (modBit f 17) x }
             .next (laneNext s2 x.e x.act.length)))))

/-- The speculation of a store by the focused group (05, R153): window and slot, or PROT. -/
def specOf (s : State) : Option (Nat × Nat) :=
  match s.g.spw with
  | none => none
  | some (w, sl) => match launchOf s s.g.key.launch with
    | some l => if l.windows.getLsbD w && s.g.spwGen = assocD 0 l.wgens w then some (w, sl) else none
    | none => none

/-- The lowest lane whose target takes no speculative store. -/
def specBad (l : List LAcc) : Option LAcc :=
  l.find? (fun x => match x.kind with
    | .dev _ => false
    | .peer _ => false
    | _ => true)

/-- Performs the stash stores of the parts, in lane order. -/
def storeStash (s : State) (ps : List Part) : State :=
  ps.foldl (fun t p => if p.kind = .stash then stashStore t t.g p.fa (leBytes p.size p.data) else t) s

/-- lst (05, R119, R153). -/
def execLst (f : LaneF) (s : State) : Res :=
  withLane s (.lst f) none (fun s1 x =>
    let size := tyWidth f.ty.toNat / 8
    let sp := modBit f 20
    let as := x.act.map (fun l => (l, laneAddr f (modBits f 18 2) f.imm.toInt (modBit f 17) size (x.a.getD l 0) (x.b.getD l 0)))
    laneWatched s (named .write size as)
      (match lanesLocate s1 size size .write as with
       | .error (l, c, stg, a) => laneTrap s c (some l) a stg .write
       | .ok ps =>
         match (if sp then (if specOf s1 = none then ps.head? else specBad ps) else none) with
         | some p => laneTrap s .prot (some p.lane) p.ga false .write
         | none =>
           laneRoom s s1 x.e .store (lpaths ps)
            (laneStash s x.e true (stashOf size ps)
              (let parts : List Part := ps.map (fun p =>
                { lane := p.lane, ga := p.ga, fa := p.fa, size := size, kind := p.kind, wr := true
                  data := x.c.getD p.lane 0 % 2 ^ (8 * size), st := if p.kind = .stash then .done else .todo
                  spec := if sp then specOf s1 else none })
               let s2 := if ps = [] then s1
                 else issue (storeStash s1 parts) (laneOpOf s1 (.lst f) x .store parts)
               .next (laneNext s2 x.e x.act.length)))))

/-! ## latom (05, R126-R127) -/

/-- The operation that a `latom` names. -/
def latomOp (f : LaneF) : AtomOp :=
  let sg := isSignedTy f.ty.toNat
  match immBits f 0 4 with
  | 0 => if f.ty = 1#5 then .fadd else .add
  | 1 => .swap
  | 2 => .cas
  | 3 => if sg then .min else .minu
  | 4 => if sg then .max else .maxu
  | 5 => .and
  | 6 => .or
  | _ => .xor

/-- Lanes that name one word, combined: their running values and the operand of the one atomic, with the flags of the
roundings. -/
def combine (op : AtomOp) (w : Nat) : List Nat → Nat → FFlags → List Nat × Nat × FFlags
  | [], p, fl => ([], p, fl)
  | v :: vs, p, fl =>
    let r := combine op w vs (atomNew op w p v 0) (fflagsOr fl (atomFlags op p v))
    (p :: r.1, r.2.1, r.2.2)

/-- The values that the lanes of one word fetch, in lane order, and the flags of forming them. -/
def fetched (op : AtomOp) (w old : Nat) (vs : List Nat) : List Nat × FFlags :=
  match vs with
  | [] => ([], {})
  | v :: rest =>
    let r := combine op w rest v {}
    (old :: r.1.map (fun p => atomNew op w old p 0),
      fflagsOr r.2.2 (r.1.foldl (fun fl p => fflagsOr fl (atomFlags op old p)) {}))

/-- The operand of the one atomic. -/
def combined (op : AtomOp) (w : Nat) (vs : List Nat) : Nat :=
  match vs with
  | [] => 0
  | v :: rest => (combine op w rest v {}).2.1

/-- The lanes of one word, in lane order. -/
def sameWord (l : List LAcc) (p : LAcc) : List LAcc := l.filter (fun q => q.kind = p.kind && q.fa = p.fa)

/-- The atomics of the lanes: one for each word, or one a lane for `cas`. -/
def atomParts (op : AtomOp) (size : Nat) (l : List LAcc) (v c : Nat → Nat) : List Part :=
  l.filterMap (fun p =>
    let q : Part := { lane := p.lane, ga := p.ga, fa := p.fa, size := size, kind := p.kind, wr := true }
    let ls := sameWord l p
    if op = .cas then some { q with data := v p.lane, cmp := c p.lane }
    else if ls.head? = some p then
      some { q with data := combined op (8 * size) (ls.map (fun x => v x.lane)), cmp := ls.length }
    else none)

/-- Performs the stash atomics among the parts, in order; each keeps the old value. -/
def atomStash (s : State) (op : AtomOp) : List Part → State × List Part
  | [] => (s, [])
  | p :: ps =>
    if p.kind = .stash then
      let old := stashRead s s.g.core p.fa p.size
      let s1 := stashStore s s.g p.fa (leBytes p.size (atomNew op (8 * p.size) old p.data p.cmp))
      let s2 := sinkFlags s1 s1.g.key (cur s1).tag (fflagsBits (atomFlags op old p.data))
      let r := atomStash s2 op ps
      (r.1, { p with st := .done, res := old } :: r.2)
    else
      let r := atomStash s op ps
      (r.1, p :: r.2)

/-- latom (05, R126-R127). `vals` keeps the operands by lane and which part stands for each lane. -/
def execLatom (f : LaneF) (s : State) : Res :=
  withLane s (.latom f) none (fun s1 x =>
    let size := tyWidth f.ty.toNat / 8
    let op := latomOp f
    let as := x.act.map (fun l => (l, laneAddr f 0 0 (modBit f 17) size (x.a.getD l 0) (x.b.getD l 0)))
    let v : Nat → Nat := fun l => x.c.getD l 0 % 2 ^ (8 * size)
    let c : Nat → Nat := fun l => regVal s1.g f.dest.toNat l (is64Ty f.ty.toNat)
    laneWatched s (named .atomic size as)
      (match lanesLocate s1 size size .atomic as with
       | .error (l, e, stg, a) => laneTrap s e (some l) a stg .atomic
       | .ok ps =>
         laneRoom s s1 x.e .atomic (lpaths ps)
          (laneStash s x.e false (stashOf size ps)
            (let r := atomStash s1 op (atomParts op size ps v c)
             let at_ : Nat → Nat := fun l => match ps.find? (fun p => p.lane = l) with
               | none => 0
               | some p => (indexWhere (fun (q : Part) =>
                   if op = .cas then q.lane = l else q.kind = p.kind && q.fa = p.fa) r.2).getD 0
             let s2 := if ps = [] then r.1
               else issue r.1 { laneOpOf s1 (.latom f) x .atomic r.2 with
                 land := .lane f, aop := some op
                 vals := [(List.range s1.g.width).map v, (List.range s1.g.width).map at_] }
             .next (laneNext s2 x.e x.act.length)))))

/-- The old value that each lane of a `latom` fetches, and the flags of combining (05, R127). -/
def latomResult (o : Op) (op : AtomOp) (l : Nat) : Nat :=
  let at_ := (o.vals.drop 1).headD []
  let j := at_.getD l 0
  match o.parts[j]? with
  | none => 0
  | some p =>
    if op = .cas then p.res
    else
      let ls := (lanesOf o.mask).filter (fun x => at_.getD x 0 = j)
      let vs := ls.map (fun x => (o.vals.headD []).getD x 0)
      (fetched op (8 * p.size) p.res vs).1.getD (ls.idxOf l) 0

/-- The flags of an f32 `latom`'s combining. -/
def latomFlags (o : Op) (op : AtomOp) : FFlags :=
  let at_ := (o.vals.drop 1).headD []
  (List.range o.parts.length).foldl (fun fl j =>
    match o.parts[j]? with
    | none => fl
    | some p =>
      let ls := (lanesOf o.mask).filter (fun x => at_.getD x 0 = j)
      fflagsOr fl (fetched op (8 * p.size) p.res (ls.map (fun x => (o.vals.headD []).getD x 0))).2) {}

/-! ## Tickets of lanes (05, R132, R136; 13, R283) -/

/-- Allocates a ticket for each lane, ascending. -/
def allocLanes (s : State) (i : Instr) (n cls : Nat) : List (Nat × Nat) → State × List (Nat × Nat)
  | [] => (s, [])
  | (l, ga) :: r =>
    let a := allocTicket s i ga n cls
    let q := allocLanes a.1 i n cls r
    (q.1, (l, a.2.toNat) :: q.2)

/-- The faults of `ltkld` addresses: the alignment to 4, the stash window (05, R131-R132). -/
def ticketFault (n : Nat) (as : List (Nat × Nat)) : Option (Nat × Cause × Nat) :=
  as.findSome? (fun x =>
    if x.2 % 4 != 0 then some (x.1, .align, x.2)
    else if whereIs x.2 n != .outside then some (x.1, .stashRange, x.2) else none)

/-- ltkld (05, R132). -/
def execLtkld (f : LaneF) (s : State) : Res :=
  withLane s (.ltkld f) none (fun s1 x =>
    let n := 4 * 2 ^ modBits f 18 3
    let as := x.act.map (fun l =>
      (l, bitsOfInt 64 ((x.b.getD l 0 : Int) + (if modBit f 16 then intOf true 32 (x.a.getD l 0) else (x.a.getD l 0 % 2 ^ 32 : Nat)))))
    laneWatched s (as.map (fun a => (a.1, .read, a.2, n)))
      (match ticketFault n as with
       | some (l, c, a) => laneTrap s c (some l) a
       | none =>
         if as = [] then .next (laneNext s1 x.e 0)
         else laneRoom s s1 x.e .tkld 8#4
          (match ticketWait s1 s1.g.pid (coreSlice s1.g.core) (immBits f 0 2) as.length with
           | some w => laneWait s x.e w
           | none =>
             let r := allocLanes s1 (.ltkld f) n (immBits f 0 2) as
             let s2 := countTicket r.1 (.ltkld f) .tkld x.m
             .next (laneNext { s2 with g := writeDest s2.g x.act f.dest.toNat false (byLane s2.g.width r.2) } x.e
               x.act.length))))

/-- What the check of each lane finds; a ticket named by a lower lane is stale (05, R136). -/
def laneChecks (s : State) : List (Nat × W32) → List W32 → List (Nat × W32 × TkCheck)
  | [], _ => []
  | (l, t) :: r, seen =>
    (l, t, if seen.contains t && checkTicket s t != .foreign then .stale else checkTicket s t)
      :: laneChecks s r (t :: seen)

def isFaulted : TkCheck → Bool
  | .faulted _ _ => true
  | _ => false

/-- The redeem of a FAULTED entry at a lane (05, R135). -/
def laneRedeemFault (s : State) (x : LaneIn) (i : Instr) (l : Nat) (t : W32) (c : Cause) (addr : Nat) : Res :=
  let en := entryOf s (tkSlice t) (tkEntry t)
  if en.fgroup = some s.g.key then
    laneWait (startFetch (setEntry s { en with st := .fetching, fault := none, data := [], deadline := none
                                               core := s.g.core, g := s.g.key }) i en.slice en.idx en.ga en.len) x.e
      (.fetching en.slice en.idx)
  else
    .next (takeTrap (setEntry s { en with fgroup := some s.g.key, deadline := none })
      { cause := c, tk := true, stg := en.stg, slot := s.slot, addr := addr, info := t.toNat, lane := some l })

/-- ltkred (05, R133-R136; 13, R283); while an entry is FETCHING it has issued and waits (19, R357; log 71). The data land at ACCESS_RETURN; `vals` keeps the statuses by lane. -/
def execLtkred (f : LaneF) (s : State) : Res :=
  withLane s (.ltkred f) none (fun s1 x =>
    let n := 4 * 2 ^ immBits f 0 3
    let q := modBit f 16
    let cs := laneChecks s1 (x.act.map (fun l => (l, BitVec.ofNat 32 (x.a.getD l 0)))) []
    let held := (heldOp s (.ltkred f)).isSome
    let h := if held then s else hold s1 (.ltkred f) x [] 8#4
    let room : Res → Res := fun k => if held then k else laneRoom s s1 x.e .tkred 8#4 k
    if cs.any (fun c => sliceIsolated s1 (tkSlice c.2.1)) then room (laneWait h x.e .slice)
    else match cs.find? (fun c => c.2.2 = .fetching) with
    | some c =>
      let en := entryOf s1 (tkSlice c.2.1) (tkEntry c.2.1)
      room (laneWait h x.e (.fetching en.slice en.idx))
    | none =>
      match cs.find? (fun c => isFaulted c.2.2 || (!q && (c.2.2 = .foreign || c.2.2 = .stale))) with
      | some (l, _, .foreign) => laneTrap s .tkForeign (some l)
      | some (l, _, .stale) => laneTrap s .tkStale (some l)
      | some (l, t, .faulted c a) => room (laneRedeemFault h x (.ltkred f) l t c a)
      | some _ => .next s
      | none =>
        room
          (let good := cs.filter (fun c => c.2.2 = .ready)
           let parts : List Part := good.map (fun c =>
             let en := entryOf s1 (tkSlice c.2.1) (tkEntry c.2.1)
             { lane := c.1, size := n, kind := .ticket en.slice en.idx, st := .done, res := leNat (en.data.take n) })
           let s2 := good.foldl (fun t c => freeEntry t (entryOf t (tkSlice c.2.1) (tkEntry c.2.1))) s1
           let s3 := if cs = [] then s2
             else issue s2 { laneOpOf s1 (.ltkred f) x .tkred parts with
               land := .lane f, begun := true, paths := 8#4
               vals := [(List.range s1.g.width).map (fun l => b2n (good.any (fun c => c.1 = l)))] }
           .next (laneNext s3 x.e x.act.length)))

/-! ## lpref (05, R120) -/

/-- A fill of the line of a local address starts, unless it is whole or being filled. -/
def prefetchLine (s : State) (slice a pid : Nat) : State :=
  match lineOf s slice a with
  | some l => if l.fill || l.valid = 0xFFFFFFFF#32 then s else setLine s { l with fill := true }
  | none => match allocLine s slice a pid with
    | some (s', l) => setLine s' { l with fill := true }
    | none => s

/-- lpref: it never faults (05, R120). -/
def execLpref (f : LaneF) (s : State) : Res :=
  withLane s (.lpref f) none (fun s1 x =>
    let s2 := x.act.foldl (fun t l =>
      match laneAddr f (modBits f 18 2) f.imm.toInt (modBit f 17) 1 (x.a.getD l 0) (x.b.getD l 0) with
      | .error _ => t
      | .ok ga => match locate t t.g ga 1 .read with
        | .ok (.dev sl, a) => prefetchLine t sl a t.g.pid
        | _ => t) s1
    .next (laneNext s2 x.e x.act.length))

/-! ## Landing (05, R108) -/

/-- The results of a lane memory operation of the focused group land. -/
def landLaneOp (s : State) (o : Op) (f : LaneF) : State :=
  let act := lanesOf o.mask
  let wide := is64Ty f.ty.toNat
  match o.cls with
  | .load =>
    { s with g := o.parts.foldl (fun g p => setPair g f.dest.toNat p.lane wide (extendTy f.ty.toNat p.res)) s.g }
  | .atomic =>
    match o.aop with
    | none => s
    | some op =>
      let s1 := { s with g := act.foldl (fun g l => setPair g f.dest.toNat l wide (latomResult o op l)) s.g }
      sinkFlags s1 o.g o.tag (fflagsBits (if op = .fadd then latomFlags o op else {}))
  | .tkred =>
    let g1 := o.parts.foldl (fun g p => (List.range (p.size / 4)).foldl (fun h j =>
      setCode h (f.dest.toNat + j) p.lane (BitVec.ofNat 32 (p.res / 2 ^ (32 * j)))) g) s.g
    let g2 := if modBit f 16 then
      act.foldl (fun g l => setK g (modBits f 17 3) l ((o.vals.headD []).getD l 0 = 1)) g1 else g1
    { s with g := g2 }
  | _ => s

end Sys2Proof.Machine
end

