-- ==== Sys2Proof/Machine/Matrix.lean ====
section
/-!
DEFINITION. Tiles, accumulators and the matrix array (10).
-/

namespace Sys2Proof.Machine

/-! ## Tiles (10, R240-R241) -/

/-- A tile control register read out. -/
structure Tile where
  base : Nat
  rows : Nat
  cols : Nat
  ety : Nat
  scm : Nat
  fmt : Fmt
  deriving DecidableEq, Repr

def tileOf (tc : W64) : Tile :=
  { base := 256 * (tc.extractLsb' 40 8).toNat, rows := (tc.extractLsb' 33 5).toNat + 1
    cols := (tc.extractLsb' 24 9).toNat + 1, ety := (tc.extractLsb' 20 4).toNat, scm := (tc.extractLsb' 38 2).toNat
    fmt := fmtOf (tc.extractLsb' 0 16) }

/-- Container bits of an element type. -/
def tileBits (t : Tile) : Nat :=
  if t.ety = 0 then 64 else if t.ety = 1 || t.ety = 8 then 32 else if t.ety = 4 then fmtContainer t.fmt else 16

def tileRB (t : Tile) : Nat := (t.cols * tileBits t + 7) / 8
def tileSB (t : Tile) : Nat := (t.cols + 31) / 32

def tileReserved (t : Tile) : Bool := !(t.ety ≤ 4 || t.ety = 8) || 2 ≤ t.scm

def tileExtent (t : Tile) : Nat := t.rows * tileRB t + (if t.scm = 1 then t.rows * tileSB t else 0)

/-- Tile-area byte of row `i`, and of its scales. -/
def rowAt (t : Tile) (i : Nat) : Nat := t.base + i * tileRB t
def scaleAt (t : Tile) (i : Nat) : Nat := t.base + t.rows * tileRB t + i * tileSB t

/-- The container of element `k` of row `i`. -/
def elemBits (m : List Host.Cell) (t : Tile) (i k : Nat) : Nat :=
  let c := tileBits t
  if c = 4 then (cellGet m (rowAt t i + k / 2)).toNat / 16 ^ (k % 2) % 16 else cellRead m (rowAt t i + k * (c / 8)) (c / 8)

/-- The format of a float or narrow tile's elements. -/
def tileFmt (t : Tile) : Fmt := if t.ety = 4 then t.fmt else wideFmt t.ety

/-- Element `k` of row `i`, its scale apart. Subnormals are honoured (02, R47). -/
def elemRaw (m : List Host.Cell) (t : Tile) (i k : Nat) : XVal :=
  let b := elemBits m t i k
  if t.ety = 8 then xOfInt (intOf true 32 b)
  else if t.ety = 4 then fmtDec t.fmt (b % 2 ^ fmtWidth t.fmt)
  else fmtDec (tileFmt t) b

/-- Element `k` of row `i` with its scale; under a scale of 0xFF it is NaN (02, R55). -/
def elemVal (m : List Host.Cell) (t : Tile) (i k : Nat) : XVal :=
  if t.scm = 1 then
    let x := (cellGet m (scaleAt t i + k / 32)).toNat
    if x = 0xFF then .nan false else xscale (elemRaw m t i k) ((x : Int) - 127)
  else elemRaw m t i k

/-- The integer of a POL 3 or INT32 element. -/
def elemInt (m : List Host.Cell) (t : Tile) (i k : Nat) : Int :=
  let b := elemBits m t i k
  if t.ety = 8 then intOf true 32 b else intOf t.fmt.s (1 + t.fmt.m) b

def tileInt (t : Tile) : Bool := t.ety = 8 || (t.ety = 4 && t.fmt.pol = 3)

/-! ## Accumulators (10, R243; 02, R50-R52) -/

def accKey (a i j : Nat) : Nat := a * 1024 + i * 32 + j

def accGet (g : Group) (a i j : Nat) : Nat := (assocD 0#48 g.acc (accKey a i j)).toNat

def accSet (g : Group) (a i j v : Nat) : Group := { g with acc := assocSet g.acc (accKey a i j) (BitVec.ofNat 48 v) }

/-- FP64 pair `j` of a row. -/
def pairGet (g : Group) (a i j : Nat) : Nat := accGet g a i (2 * j) + 2 ^ 48 * (accGet g a i (2 * j + 1) % 2 ^ 16)

def pairSet (g : Group) (a i j v : Nat) : Group :=
  accSet (accSet g a i (2 * j) (v % 2 ^ 48)) a i (2 * j + 1) (v / 2 ^ 48 % 2 ^ 16)

/-- One rounding into F48 or FP64 (02, R50, R52). -/
def rnd48 (x : XVal) : Nat × FFlags := roundTo fmtF48 .ne false false 0 x
def rnd64 (x : XVal) : Nat × FFlags := roundTo fmtF64 .ne false false 0 x

/-! ## The checks, in order (10, R244-R245) -/

/-- What an instruction names. -/
structure MatUse where
  tiles : List Tile
  accs : List Nat
  narrow : List Fmt := []     -- a narrow destination beside the tiles
  combo : Bool := true        -- the formats form an allowed combination
  shape : Bool := true        -- its own shape rules
  rows : Nat := 32            -- the row count of what the lanes drive
  row0 : Nat := 0

def matCheck (g : Group) (act : List Nat) (u : MatUse) : Option (Cause × Option Nat) :=
  if u.tiles.any (fun t => !tileReserved t && 1024 * g.d.tile < t.base + tileExtent t)
      || u.accs.any (fun a => g.d.accs ≤ a) then some (.tileNoalloc, none)
  else if u.tiles.any (fun t => t.ety = 4 && !fmtValid t.fmt) || u.narrow.any (fun f => !fmtValid f) then
    some (.illFmt, none)
  else if u.tiles.any (fun t => tileReserved t || (t.scm = 1 && t.ety != 4)) || !u.combo then some (.matFmt, none)
  else if u.tiles.any (fun t => 256 < tileRB t) || !u.shape then some (.tileShape, none)
  else match act.find? (fun l => u.rows ≤ l + u.row0) with
    | some l => some (.tileShape, some l)
    | none => none

/-- The tile that a word's field names, as it issues. -/
def tileNo (s : State) (f : LaneF) (lo : Nat) : Tile := tileOf (s.g.tc.getD (immBits f lo 4) 0#64)

/-- Reads the sources, makes the checks, and goes on. -/
def withMat (s : State) (i : Instr) (u : List Nat → MatUse) (k : State → LaneIn → Res) : Res :=
  withLane s i none (fun s1 x =>
    match matCheck s1.g x.act (u x.act) with
    | some (c, l) => laneTrap s c l
    | none => k s1 x)

/-- An instruction of the class issues to the array (10, R246), where 64 capturable instructions are not outstanding (19, R358). -/
def issueMat (s s1 : State) (i : Instr) (x : LaneIn) (f : LaneF) (vals : List (List Nat)) (ps : List Part) : Res :=
  if captureFull s1 then laneWait s x.e .capture
  else
    let s2 := issue s1 { laneOpOf s1 i x .matrix ps with setB := true, vals := vals, tcs := s1.g.tc, land := .lane f }
    .next (laneNext s2 x.e x.act.length)

/-! ## Rows to and from memory (10, R247) -/

/-- The address of a lane's row, or its fault. -/
def tileAddr (f : LaneF) (n a b : Nat) : Except (Cause × Nat) Nat :=
  let o : Int := if modBit f 17 then intOf true 32 b else (b % 2 ^ 32 : Nat)
  if modBit f 16 then
    if o < 0 || (2 ^ 20 : Nat) < o + n then .error (.stashRange, bitsOfInt 64 ((stashWindow : Int) + o))
    else .ok (stashWindow + o.toNat)
  else .ok (bitsOfInt 64 ((a : Int) + o))

/-- The address of a lane's scales. -/
def tileScaleAddr (f : LaneF) (n c : Nat) : Except (Cause × Nat) Nat :=
  if modBit f 16 then
    if 2 ^ 20 < c % 2 ^ 32 + n then .error (.stashRange, stashWindow + c % 2 ^ 32) else .ok (stashWindow + c % 2 ^ 32)
  else .ok c

/-- Parts of a range, one for each line it touches; `cmp` is the offset, from `o0`. -/
def rangeParts (s : State) (l ga o0 : Nat) (acc : Acc) (wr : Bool) : List (Nat × Nat) → Except LFault (List Part)
  | [] => .ok []
  | (o, k) :: r =>
    match locate s s.g (ga + o) k acc with
    | .error (c, stg) => .error (l, c, stg, ga + o)
    | .ok (kind, fa) =>
      match rangeParts s l ga o0 acc wr r with
      | .error e => .error e
      | .ok ps => .ok ({ lane := l, ga := ga + o, fa := fa, size := k, kind := kind, wr := wr, cmp := o0 + o } :: ps)

/-- Where the scales' offsets start among a lane's parts. -/
def scaleOff : Nat := 1024

/-- The parts of one lane's row and scales. -/
def laneRow (s : State) (f : LaneF) (t : Tile) (wr : Bool) (l a b c : Nat) : Except LFault (List Part) :=
  let acc : Acc := if wr then .write else .read
  match tileAddr f (tileRB t) a b with
  | .error (e, x) => .error (l, e, false, x)
  | .ok ga =>
    if ga % 4 != 0 then .error (l, .align, false, ga)
    else match rangeParts s l ga 0 acc wr (pieces ga (tileRB t)) with
      | .error e => .error e
      | .ok ps =>
        if t.scm != 1 then .ok ps
        else match tileScaleAddr f (tileSB t) c with
          | .error (e, x) => .error (l, e, false, x)
          | .ok gc =>
            match rangeParts s l gc scaleOff acc wr (pieces gc (tileSB t)) with
            | .error e => .error e
            | .ok qs => .ok (ps ++ qs)

def laneRows (s : State) (f : LaneF) (t : Tile) (wr : Bool) (x : LaneIn) : List Nat → Except LFault (List Part)
  | [] => .ok []
  | l :: ls =>
    match laneRow s f t wr l (x.a.getD l 0) (x.b.getD l 0) (x.c.getD l 0) with
    | .error e => .error e
    | .ok ps =>
      match laneRows s f t wr x ls with
      | .error e => .error e
      | .ok qs => .ok (ps ++ qs)

/-- The ranges that the lanes name, for watches, which come before any fault (21, R400). -/
def rowsNamed (f : LaneF) (t : Tile) (acc : Acc) (x : LaneIn) : List (Nat × Acc × Nat × Nat) :=
  (x.act.map (fun l =>
    (match tileAddr f (tileRB t) (x.a.getD l 0) (x.b.getD l 0) with
      | .ok ga => [(l, acc, ga, tileRB t)]
      | .error (_, ga) => [(l, acc, ga, tileRB t)])
    ++ (if t.scm != 1 then [] else match tileScaleAddr f (tileSB t) (x.c.getD l 0) with
      | .ok ga => [(l, acc, ga, tileSB t)]
      | .error (_, ga) => [(l, acc, ga, tileSB t)]))).flatten

def partPaths (ps : List Part) : BitVec 4 := ps.foldl (fun m p => m ||| pathOfKind p.kind) 0#4

/-- The sources that `tld` and `tst` read: no base in the stash window, no scale address but under MX32 (10, R247; 19, R361). -/
def moveVals (f : LaneF) (t : Tile) (x : LaneIn) : List (List Nat) :=
  (if modBit f 16 then [] else [x.a]) ++ [x.b] ++ (if t.scm = 1 then [x.c] else [])

/-- The checks of `tld` and `tst` on their tile. A scale source without MX32 is ILL_LANE, known only here (log 20). -/
def moveCheck (g : Group) (f : LaneF) (t : Tile) (act : List Nat) : Option (Cause × Option Nat) :=
  match matCheck g act { tiles := [t], accs := [], rows := t.rows, row0 := immBits f 4 5 } with
  | some c => some c
  | none => if t.scm != 1 && f.srcC != 0#14 then some (.illLane, none) else none

/-- tld and tst up to their issue (10, R247): watches first, before any fault of the instruction (21, R400). A `tst` is capturable
until its turn comes (10, R246). -/
def tileMove (s : State) (i : Instr) (f : LaneF) (wr : Bool) : Res :=
  let t := tileNo s f 0
  let acc : Acc := if wr then .write else .read
  withLane s i none (fun s1 x => laneWatched s (rowsNamed f t acc x)
    (match moveCheck s1.g f t x.act, laneRows s1 f t wr x x.act with
     | some (c, l), _ => laneTrap s c l
     | none, .error (l, c, stg, a) => laneTrap s c (some l) a stg acc
     | none, .ok ps =>
       laneRoom s s1 x.e (if wr then .matrix else .load) (partPaths ps)
        (laneStash s x.e wr (ps.filterMap (fun p => if p.kind = .stash then some (p.lane, p.fa, p.size) else none))
          (let parts : List Part := ps.map (fun p =>
            if p.kind = .stash && !wr then { p with st := .done, res := stashRead s1 s1.g.core p.fa p.size } else p)
           let s2 := if ps = [] then s1
             else issue s1 { laneOpOf s1 i x (if wr then .store else .load) parts with
               setB := true, tcs := s1.g.tc, land := .lane f, vals := moveVals f t x }
           .next (laneNext s2 x.e x.act.length)))))

/-- tld (10, R247). -/
def execTld (f : LaneF) (s : State) : Res := tileMove s (.tld f) f false

/-- tst: its bytes are read from the tile when the array comes to it (10, R247). -/
def execTst (f : LaneF) (s : State) : Res := tileMove s (.tst f) f true

/-! ## Rows cleared, moved and summed (10, R248-R249) -/

/-- A form that names one tile by imm16[3:0] and row0 by imm16[8:4]. -/
def tileForm (s : State) (i : Instr) (f : LaneF) (vals : LaneIn → List (List Nat)) (combo shape : Tile → Bool) : Res :=
  let t := tileNo s f 0
  withMat s i
    (fun _ => { tiles := [t], accs := [], combo := combo t, shape := shape t, rows := t.rows, row0 := immBits f 4 5 })
    (fun s1 x => issueMat s s1 i x f (vals x) [])

/-- tzero (10, R248). -/
def execTzero (f : LaneF) (s : State) : Res := tileForm s (.tzero f) f (fun _ => []) (fun _ => true) (fun _ => true)

/-- The word that `tmovi` and `tmovo` name lies in the row or its scales. -/
def movShape (f : LaneF) (t : Tile) : Bool :=
  if modBit f 16 then t.scm = 1 && 4 * immBits f 9 6 < tileSB t else 4 * immBits f 9 6 + 4 ≤ tileRB t

/-- tmovi (10, R248). -/
def execTmovi (f : LaneF) (s : State) : Res := tileForm s (.tmovi f) f (fun x => [x.a]) (fun _ => true) (movShape f)

/-- tmovo (10, R248). -/
def execTmovo (f : LaneF) (s : State) : Res := tileForm s (.tmovo f) f (fun _ => []) (fun _ => true) (movShape f)

/-- tsum: i32 for an integer tile, f32 for a float one (10, R249). -/
def execTsum (f : LaneF) (s : State) : Res :=
  tileForm s (.tsum f) f (fun _ => []) (fun t => tileInt t = (f.ty = 8#5)) (fun _ => true)

/-! ## Products (10, R250-R252) -/

/-- The formats and the mode go together. -/
def prodCombo (a b : Tile) (mode : Nat) (dist : Bool) : Bool :=
  if a.ety = 4 && b.ety = 4 then
    mode = 1 || (mode = 0 && a.fmt.pol = 3 && b.fmt.pol = 3 && a.scm != 1 && b.scm != 1)
  else a.ety = b.ety && ((mode = 1 && 1 ≤ a.ety && a.ety ≤ 3) || (mode = 2 && a.ety = 0 && !dist))

/-- Products of a dot group (02, R56). -/
def dotSize (a b : Tile) : Nat :=
  if a.ety = 4 then (if fmtWidth a.fmt ≤ 4 && fmtWidth b.fmt ≤ 4 then 32 else 16)
  else if a.ety = 2 || a.ety = 3 then 8 else 1

def product (s : State) (i : Instr) (f : LaneF) (dist : Bool) : Res :=
  let a := tileNo s f 0
  let b := tileNo s f 4
  let mode := modBits f 16 2
  withMat s i
    (fun _ => { tiles := [a, b], accs := [immBits f 8 3], combo := prodCombo a b mode dist
                shape := a.cols = b.cols && b.rows ≤ (if mode = 2 then 16 else 32)
                rows := min 32 a.rows, row0 := immBits f 11 5 })
    (fun s1 x => issueMat s s1 i x f [] [])

/-- mma (10, R251). -/
def execMma (f : LaneF) (s : State) : Res := product s (.mma f) f false

/-- mdist (10, R252). -/
def execMdist (f : LaneF) (s : State) : Res := product s (.mdist f) f true

/-! ## The accumulator in and out (10, R253-R256) -/

/-- ald (10, R253). -/
def execAld (f : LaneF) (s : State) : Res :=
  let lim := if modBit f 16 && f.ty = 0#5 then 16 else 32
  withMat s (.ald f)
    (fun _ => { tiles := [], accs := [immBits f 0 3], rows := lim, row0 := immBits f 3 5 })
    (fun s1 x => issueMat s s1 (.ald f) x f [x.a] [])

/-- aclr (10, R254). -/
def execAclr (f : LaneF) (s : State) : Res :=
  withMat s (.aclr f) (fun _ => { tiles := [], accs := [immBits f 0 3], row0 := immBits f 3 5 })
    (fun s1 x => issueMat s s1 (.aclr f) x f [] [])

/-- Elements that a drain writes in a row. -/
def drainN (f : LaneF) (t : Tile) : Nat := if modBit f 16 then t.cols else immBits f 8 5 + 1

/-- The faults of the drain tables, lowest lane first (10, R255). -/
def tableFault (s : State) (n : Nat) (x : LaneIn) : Option (Nat × Cause × Nat) :=
  x.act.findSome? (fun l =>
    let a := x.a.getD l 0 % 2 ^ 32
    if a % 8 != 0 then some (l, .align, stashWindow + a % 2 ^ 20)
    else if 2 ^ 20 < a + 8 * n || !inAllot s s.g a (8 * n) then some (l, .stashRange, stashWindow + a % 2 ^ 20) else none)

/-- The drain table of each lane as the instruction reads it at issue; an entry a part, which counts on no path (10, R255). -/
def tableParts (s : State) (n : Nat) (x : LaneIn) : List Part :=
  (x.act.map (fun l => (List.range n).map (fun j =>
    let a := x.a.getD l 0 % 2 ^ 32 + 8 * j
    { lane := l, fa := a, size := 8, cmp := j, st := .done, res := stashRead s s.g.core a 8 }))).flatten

/-- adrain (10, R255). -/
def execAdrain (f : LaneF) (s : State) : Res :=
  let td := modBit f 16
  let mq := modBit f 18
  let t := tileNo s f 8
  let n := drainN f t
  withMat s (.adrain f)
    (fun act => { tiles := if td then [t] else [], accs := [immBits f 0 3]
                  narrow := if !td && f.ty = 4#5 then [narrowFmt (cur s).gfmt false] else []
                  combo := !td || (t.ety != 0 && t.scm != 1)
                  shape := !(modBit f 19 && 16 < n) && (!td || (t.cols ≤ 32 && act.all (fun l => l + immBits f 3 5 < t.rows)))
                  row0 := immBits f 3 5 })
    (fun s1 x =>
      match (if mq then tableFault s1 n x else none) with
      | some (l, c, a) => laneTrap s c (some l) a
      | none =>
        laneStash s x.e false (if mq then x.act.map (fun l => (l, x.a.getD l 0 % 2 ^ 32, 8 * n)) else [])
          (issueMat s s1 (.adrain f) x f (if mq then [x.a, x.b] else [x.b]) (if mq then tableParts s1 n x else [])))

/-- mtopk: more pairs than q2 can hold trap (10, R256). -/
def execMtopk (f : LaneF) (s : State) : Res :=
  let n := immBits f 8 5 + 1
  let k := modBits f 16 5 + 1
  withMat s (.mtopk f) (fun _ => { tiles := [], accs := [immBits f 0 3], row0 := immBits f 3 5 })
    (fun s1 x =>
      if 256 < x.act.length * min k n then laneTrap s .qregBad
      else issueMat s s1 (.mtopk f) x f [x.a] [])

/-! ## The array's work (10, R246) -/

/-- A tile or matrix instruction. -/
def isMat (i : Instr) : Bool :=
  match laneParts i with
  | some (op, _) => 0x0A0 ≤ op.toNat && op.toNat ≤ 0x0AB
  | none => false

/-- Every tile or matrix instruction that the group issued earlier has completed; one that a stop or a late fault has captured has
not. -/
def matTurn (s : State) (o : Op) : Bool :=
  !(s.ops.takeWhile (fun q => q.id != o.id)).any (fun q => q.g = o.g && !q.returned && isMat q.instr)
    && !((getG s o.g).elim [] Group.replay).any (fun q => q.valid && q.id < o.id && isMat q.instr)

/-- A tile control register as the instruction read it. -/
def opTile (o : Op) (f : LaneF) (lo : Nat) : Tile := tileOf (o.tcs.getD (immBits f lo 4) 0#64)

def writeTile (g : Group) (a : Nat) (bs : List Byte) : Group := { g with tile := cellWrite g.tile a bs }

/-- The place of a part's bytes in the tile. -/
def partAt (t : Tile) (i : Nat) (p : Part) : Nat :=
  if p.cmp < scaleOff then rowAt t i + p.cmp else scaleAt t i + (p.cmp - scaleOff)

/-- The bytes that a part of a `tst` stores: the tile as the earlier instructions left it. -/
def tstData (g : Group) (o : Op) (f : LaneF) (p : Part) : Nat :=
  cellRead g.tile (partAt (opTile o f 0) (p.lane + immBits f 4 5) p) p.size

/-- The last byte of a row of 4-bit containers holds no element in its upper half: it is written as zero (10, R241). -/
def trimRow (g : Group) (t : Tile) (i : Nat) : Group :=
  if tileBits t = 4 && t.cols % 2 = 1 then
    let a := rowAt t i + tileRB t - 1
    { g with tile := cellSet g.tile a (cellGet g.tile a &&& 0x0F#8) }
  else g

/-- A `tld` lands (10, R247). -/
def landTld (s : State) (o : Op) (f : LaneF) : State :=
  let t := opTile o f 0
  let g1 := o.parts.foldl (fun g p => writeTile g (partAt t (p.lane + immBits f 4 5) p) (leBytes p.size p.res)) s.g
  { s with g := (lanesOf o.mask).foldl (fun g l => trimRow g t (l + immBits f 4 5)) g1 }

/-- One dot group's sum (02, R56-R57; 10, R251-R252). -/
def dotTerms (m : List Host.Cell) (a b : Tile) (i j k0 k1 : Nat) (dist : Bool) : List XVal :=
  (List.range (k1 - k0)).map (fun k =>
    let x := elemVal m a i (k0 + k)
    let y := elemVal m b j (k0 + k)
    if dist then (let d := xadd false x (elemNeg (tileFmt b) true y); xmul d d) else xmul x y)

def dotInt (m : List Host.Cell) (a b : Tile) (i j k0 k1 : Nat) (dist : Bool) : Int :=
  ((List.range (k1 - k0)).map (fun k =>
    let x := elemInt m a i (k0 + k)
    let y := elemInt m b j (k0 + k)
    if dist then (x - y) * (x - y) else x * y)).sum

/-- An element after one dot group, by mode. -/
def accumulate (m : List Host.Cell) (a b : Tile) (mode : Nat) (sat dist : Bool) (i j k0 k1 : Nat) (v : Nat) : Nat × FFlags :=
  match mode with
  | 0 =>
    let r := intOf true 48 v + dotInt m a b i j k0 k1 dist
    if sat then
      let c := clampInt (-(2 ^ 31 : Nat)) ((2 ^ 31 : Nat) - 1) r
      (bitsOfInt 48 c, if c = r then {} else fflagOF)
    else (bitsOfInt 48 r, {})
  | 1 => rnd48 (xadd false (fmtDec fmtF48 v) (xdot false (dotTerms m a b i j k0 k1 dist)))
  | _ => rnd64 (xadd false (fmtDec fmtF64 v) (xdot false (dotTerms m a b i j k0 k1 dist)))

/-- An element after every dot group, ascending. -/
def dotGo (m : List Host.Cell) (a b : Tile) (mode : Nat) (sat dist : Bool) (i j gs : Nat) : Nat → Nat → Nat × FFlags → Nat × FFlags
  | 0, _, r => r
  | n + 1, k0, r =>
    if a.cols ≤ k0 then r
    else
      let q := accumulate m a b mode sat dist i j k0 (min a.cols (k0 + gs)) r.1
      dotGo m a b mode sat dist i j gs n (k0 + gs) (q.1, fflagsOr r.2 q.2)

/-- `mma` and `mdist`: the group and the flags. -/
def doProduct (g : Group) (o : Op) (f : LaneF) (dist : Bool) : Group × FFlags :=
  let a := opTile o f 0
  let b := opTile o f 4
  let ac := immBits f 8 3
  let mode := modBits f 16 2
  let gs := dotSize a b
  ((lanesOf o.mask).map (fun l => (List.range b.rows).map (fun j => (l + immBits f 11 5, j)))).flatten.foldl
    (fun r (i, j) =>
      let v := if mode = 2 then pairGet r.1 ac i j else accGet r.1 ac i j
      let q := dotGo g.tile a b mode f.sat dist i j gs a.cols 0 (v, {})
      (if mode = 2 then pairSet r.1 ac i j q.1 else accSet r.1 ac i j q.1, fflagsOr r.2 q.2)) (g, {})

/-- An f32 as F48, exactly (10, R253). A NaN keeps its payload and raises nothing, since the widening is taken as a move of bits and
not as a conversion of 02, R41 (DESIGN CHOICE, log 72). -/
def f32to48 (v : Nat) : Nat := v / 2 ^ 31 % 2 * 2 ^ 47 + v % 2 ^ 31 * 2 ^ 16

/-- One element, or pair, that `ald` loads (10, R253). -/
def aldElem (g : Group) (f : LaneF) (i j v : Nat) : Group × FFlags :=
  let a := immBits f 0 3
  let add := modBit f 17
  if f.ty = 0#5 then
    let r := if add then rnd64 (xadd false (fmtDec fmtF64 (pairGet g a i j)) (fmtDec fmtF64 v)) else (v, {})
    (pairSet g a i j r.1, r.2)
  else if f.ty = 1#5 then
    let r := if add then rnd48 (xadd false (fmtDec fmtF48 (accGet g a i j)) (fmtDec fmtF48 (f32to48 v))) else (f32to48 v, {})
    (accSet g a i j r.1, r.2)
  else
    let w := intOf true 32 v + (if add then (accGet g a i j : Int) else 0)
    (accSet g a i j (bitsOfInt 48 w), {})

def doAld (g : Group) (o : Op) (f : LaneF) : Group × FFlags :=
  let n := if f.ty = 0#5 then 16 else 32
  let at_ := immBits f 3 5
  ((lanesOf o.mask).map (fun l =>
    if modBit f 16 then (List.range 32).map (fun i => (l, i, l + at_))
    else (List.range n).map (fun j => (l, l + at_, j)))).flatten.foldl
    (fun r (l, i, j) =>
      let q := aldElem r.1 f i j ((o.vals.headD []).getD l 0)
      (q.1, fflagsOr r.2 q.2)) (g, {})

def doAclr (g : Group) (o : Op) (f : LaneF) : Group :=
  ((lanesOf o.mask).map (fun l => (List.range 32).map (fun j => (l + immBits f 3 5, j)))).flatten.foldl
    (fun h (i, j) => accSet h (immBits f 0 3) i j 0) g

/-- The format and container of a drain's elements. -/
def drainFmt (o : Op) (f : LaneF) : Fmt × Nat :=
  if modBit f 16 then
    let t := opTile o f 8
    (if t.ety = 8 then intFmt 8 else tileFmt t, tileBits t)
  else if f.ty = 4#5 then
    let fm := narrowFmt o.gfmt false
    (fm, fmtContainer fm)
  else if 8 ≤ f.ty.toNat then (intFmt f.ty.toNat, tyWidth f.ty.toNat) else (wideFmt f.ty.toNat, tyWidth f.ty.toNat)

/-- One drained element (10, R255). -/
def drainElem (fm : Fmt) (md : RMode) (sat : Bool) (u : Nat) (y : XVal) : Nat × FFlags :=
  if fm.pol != 3 then roundTo fm md sat false u y
  else
    let r := fmtIntRange fm
    let out : Int → Nat := bitsOfInt (1 + fm.m)
    let ovr : FFlags := if sat then fflagOF else fflagNV
    match y with
    | .nan _ => (0, fflagNV)
    | .inf n => (out (if n then r.1 else r.2), ovr)
    | .fin n m e st =>
      let q := roundToInt md u n m e st
      if q.1 < r.1 || r.2 < q.1 then (out (clampInt r.1 r.2 q.1), ovr) else (out q.1, { nx := q.2 })

/-- The value of element `j` of a row before its rounding. -/
def drainVal (g : Group) (o : Op) (f : LaneF) (md : RMode) (l j : Nat) : XVal :=
  let a := immBits f 0 3
  let i := l + immBits f 3 5
  let x := if modBit f 19 then fmtDec fmtF64 (pairGet g a i j)
    else if modBit f 17 then fmtDec fmtF48 (accGet g a i j) else xOfInt (intOf true 48 (accGet g a i j))
  let z := xOfInt (intOf true 32 ((o.vals.getLastD []).getD l 0))
  let x' := if modBit f 18 then
      match o.parts.find? (fun p => p.lane = l && p.cmp = j) with
      | some p => xscale (xmul x (xOfInt (intOf true 32 p.res))) (intOf true 8 (p.res / 2 ^ 32) - 31)
      | none => x
    else x
  xadd (zeroSign md) x' z

/-- Elements packed from bit 0 up in containers of `c` bits. -/
def packElems (c : Nat) : List Nat → Nat
  | [] => 0
  | v :: vs => v % 2 ^ c + 2 ^ c * packElems c vs

def opMode (o : Op) (f : LaneF) : RMode := if f.rnd = 0#3 then rmodeOf (o.gmode.extractLsb' 0 3) else rmodeOf f.rnd

/-- The elements of a lane, with their flags. -/
def drainRow (g : Group) (o : Op) (f : LaneF) (l n : Nat) : List (Nat × FFlags) :=
  let md := opMode o f
  let fm := (drainFmt o f).1
  (List.range n).map (fun j =>
    drainElem fm md f.sat (if md = .st then roundWord g l j else 0) (drainVal g o f md l j))

def doAdrain (g : Group) (o : Op) (f : LaneF) : Group × FFlags :=
  let t := opTile o f 8
  let n := drainN f t
  let c := (drainFmt o f).2
  let act := lanesOf o.mask
  let outs := act.map (fun l => (l, drainRow g o f l n))
  let g1 := outs.foldl (fun h (l, r) =>
    let v := packElems c (r.map (fun e => e.1))
    if modBit f 16 then writeTile h (rowAt t (l + immBits f 3 5)) (leBytes (tileRB t) v)
    else (List.range ((n * c + 31) / 32)).foldl (fun k j =>
      setCode k (f.dest.toNat + j) l (BitVec.ofNat 32 (v / 2 ^ (32 * j)))) h) g
  (if opMode o f = .st then drawRound g1 act n else g1,
    outs.foldl (fun fl o => o.2.foldl (fun fl e => fflagsOr fl e.2) fl) {})

/-- A ranked element: the sum of the orders of 10, R256. -/
structure Ranked where
  j : Nat
  v : XVal
  out : Nat
  deriving DecidableEq, Repr

/-- `a` is pushed before `b`. -/
def rankedBefore (smallest : Bool) (a b : Ranked) : Bool :=
  if xisNan a.v then xisNan b.v && a.j < b.j
  else if xisNan b.v then true
  else match xcmp a.v b.v with
    | .eq => a.j < b.j
    | .lt => smallest
    | .gt => !smallest

def insertRanked (sm : Bool) (x : Ranked) : List Ranked → List Ranked
  | [] => [x]
  | y :: ys => if rankedBefore sm x y then x :: y :: ys else y :: insertRanked sm x ys

/-- The pairs of one row, best first. -/
def rankRow (g : Group) (f : LaneF) (i base : Nat) : List W64 :=
  let n := immBits f 8 5 + 1
  let k := modBits f 16 5 + 1
  let a := immBits f 0 3
  let es : List Ranked := (List.range n).map (fun j =>
    let b := accGet g a i j
    if f.ty = 1#5 then
      let v := fmtDec fmtF48 b
      ⟨j, v, if xisNan v then fmtNan fmtF32 else (roundTo fmtF32 .ne false false 0 v).1⟩
    else
      let v := intOf true 48 b
      ⟨j, xOfInt v, bitsOfInt 32 (clampInt (-(2 ^ 31 : Nat)) ((2 ^ 31 : Nat) - 1) v)⟩)
  ((es.foldl (fun l x => insertRanked (modBit f 21) x l) []).take k).map (fun x =>
    BitVec.ofNat 64 ((base + x.j) % 2 ^ 32 * 2 ^ 32 + x.out))

/-- The pairs that an `mtopk` pushes. -/
def topPairs (g : Group) (o : Op) (f : LaneF) : List W64 :=
  ((lanesOf o.mask).map (fun l => rankRow g f (l + immBits f 3 5) ((o.vals.headD []).getD l 0 % 2 ^ 32))).flatten

/-- A sum that is no integer lies outside i32: the bound it is clamped to (10, R249). -/
def pastBound (n : Bool) (m : Nat) (e : Int) : Option Int :=
  let w := fixed m e
  if n then (if 2 ^ 31 ≤ w then some (-(2 ^ 31 : Nat)) else none)
  else if 2 ^ 31 - 1 ≤ w then some ((2 ^ 31 : Nat) - 1) else none

/-- The sum of a row (10, R249). Under MX32 an integer tile's sum need not be an integer: but for a clamped one the spec states no
result there, and the value is free (log 9). -/
def sumRow (s : State) (o : Op) (f : LaneF) (l u : Nat) : Nat × FFlags :=
  let t := opTile o f 0
  let i := l + immBits f 4 5
  let md := opMode o f
  if f.ty = 1#5 then
    roundTo fmtF32 md f.sat false u (xdot (zeroSign md) ((List.range t.cols).map (elemVal s.g.tile t i)))
  else if t.scm != 1 then intRes 8 f.sat ((List.range t.cols).map (elemInt s.g.tile t i)).sum
  else match xsum false ((List.range t.cols).map (elemVal s.g.tile t i)) with
    | .fin n m e _ =>
      if xint m e then intRes 8 f.sat (if n then -(fixed m e : Int) else fixed m e)
      else if f.sat && (pastBound n m e).isSome then intRes 8 true (((pastBound n m e).getD 0) + (if n then -1 else 1))
      else ((Config.unstated (s.free + l)).toNat % 2 ^ 32, {})
    | _ => ((Config.unstated (s.free + l)).toNat % 2 ^ 32, {})

/-- A word of a row or of its scales, as `tmovo` reads it (10, R248). -/
def movWord (g : Group) (o : Op) (f : LaneF) (l : Nat) : Nat :=
  let t := opTile o f 0
  let i := l + immBits f 4 5
  let w := 4 * immBits f 9 6
  if modBit f 16 then
    leNat ((List.range 4).map (fun b => if w + b < tileSB t then cellGet g.tile (scaleAt t i + w + b) else 0#8))
  else cellRead g.tile (rowAt t i + w) 4

def putWord (g : Group) (o : Op) (f : LaneF) (l : Nat) : Group :=
  let t := opTile o f 0
  let i := l + immBits f 4 5
  let w := 4 * immBits f 9 6
  let bs := leBytes 4 ((o.vals.headD []).getD l 0)
  if modBit f 16 then writeTile g (scaleAt t i + w) (bs.take (tileSB t - w))
  else
    let g1 := writeTile g (rowAt t i + w) bs
    if tileRB t ≤ w + 4 then trimRow g1 t i else g1

def clearRow (g : Group) (t : Tile) (i : Nat) : Group :=
  let g1 := writeTile g (rowAt t i) (zeros (tileRB t))
  if t.scm = 1 then writeTile g1 (scaleAt t i) (List.replicate (tileSB t) 0x7F#8) else g1

/-- A matrix instruction of the focused group that moves no memory is performed; none while q2 has no room for an
`mtopk`'s pairs (10, R246-R256). -/
def doMatrix (s : State) (o : Op) : Option State :=
  match laneParts o.instr with
  | none => none
  | some (op, f) =>
    let act := lanesOf o.mask
    let flagged : Group × FFlags → Option State := fun r =>
      some (sinkFlags { s with g := r.1 } o.g o.tag (fflagsBits r.2))
    match op.toNat with
    | 0x0A2 => some { s with g := act.foldl (fun g l => clearRow g (opTile o f 0) (l + immBits f 4 5)) s.g }
    | 0x0A3 => some { s with g := act.foldl (fun g l => putWord g o f l) s.g }
    | 0x0A4 => some (landLanes s o.tag act f.dest.toNat false .ne 0 (fun l _ => (movWord s.g o f l, {})))
    | 0x0A5 =>
      some { landLanes s o.tag act f.dest.toNat false (opMode o f) (if f.ty = 1#5 then 1 else 0)
        (fun l u => sumRow s o f l (u 0)) with free := s.free + 32 }
    | 0x0A6 => flagged (doProduct s.g o f false)
    | 0x0A7 => flagged (doProduct s.g o f true)
    | 0x0A8 => flagged (doAld s.g o f)
    | 0x0A9 => flagged (doAdrain s.g o f)
    | 0x0AA => some { s with g := doAclr s.g o f }
    | 0x0AB =>
      let ps := topPairs s.g o f
      if 256 < s.g.q2.length + ps.length then none else some { s with g := { s.g with q2 := s.g.q2 ++ ps } }
    | _ => none

end Sys2Proof.Machine
end

