-- ==== Sys2Proof/Machine/GridLane.lean ====
section
/-!
DEFINITION. Publication by a lane word and the report of real neighbours (07, R196-R197).
-/

namespace Sys2Proof.Machine

/-- STEP_CLOSED of `xpub` between steps (07, R196). -/
def pubClosed (s : State) : Option Cause := if s.g.isOpen then none else some .stepClosed

/-- The registers that the mask names, lane by lane. -/
def pubList (f : LaneF) (act : List Nat) : List (Nat × Nat) :=
  (act.map (fun l => ((List.range 8).filter (fun r => f.imm.getLsbD r)).map (fun r => (r, l)))).flatten

/-- xpub (07, R196). -/
def execXpub (f : LaneF) (s : State) : Res :=
  withLane s (.xpub f) (pubClosed s) (fun s1 x => .next (laneNext (publishRegs s1 (pubList f x.act)) x.e x.act.length))

/-- The bearings that reach a real neighbour of a cell. -/
def realMask (d : Desc) (c : Nat) : Nat :=
  (List.range 15).foldl (fun m b => if isReal d c b then m + 2 ^ b else m) 0

/-- nbvalid (07, R197). -/
def execNbvalid (f : LaneF) (s : State) : Res :=
  laneFun s (.nbvalid f) f false (fun _ l =>
    let m := realMask s.g.d (laneCell s.g l)
    (if f.dest.toNat < 0x88 then m else m / 2 ^ modBits f 16 4 % 2, {}))

end Sys2Proof.Machine
end

