-- ==== Sys2Proof/Machine/GroupLane.lean ====
section
/-!
DEFINITION. Draws, sampling, predicates, and the exchange between lanes (08, R229-R235).
-/

namespace Sys2Proof.Machine

/-! ## Draws (08, R230; 02, R44) -/

/-- The next word of a cell's draw stream. -/
def drawWord (g : Group) (l : Nat) : Nat :=
  (philoxWord (g.seed.getD l 0#64) (laneCell g l) 0 (g.draw.getD l 0#64)).toNat

/-- Each of the lanes has drawn one word. -/
def drawOne (g : Group) (act : List Nat) : Group :=
  { g with draw := act.foldl (fun r l => r.set l (r.getD l 0#64 + 1#64)) g.draw }

/-- Writes results by lane and goes on. -/
def laneOut (s : State) (x : LaneIn) (f : LaneF) (wide : Bool) (r : List (Nat × Nat)) : State :=
  laneNext { s with g := writeDest s.g x.act f.dest.toNat wide (byLane s.g.width r) } x.e x.act.length

/-- rng (08, R230). -/
def execRng (f : LaneF) (s : State) : Res :=
  withLane s (.rng f) none (fun s1 x =>
    let r := x.act.map (fun l =>
      let w := drawWord s1.g l
      (l, if f.ty = 1#5 then (roundTo fmtF32 .ne false false 0 (.fin false (w / 256) (-24) false)).1 else w))
    .next (laneOut { s1 with g := drawOne s1.g x.act } x f false r))

/-- rseed (08, R230). -/
def execRseed (f : LaneF) (s : State) : Res :=
  withLane s (.rseed f) none (fun s1 x =>
    let zero : List W64 → List W64 := fun l => x.act.foldl (fun r i => r.set i 0#64) l
    let seeds := x.act.foldl (fun r l =>
      r.set l (BitVec.ofNat 64 (x.b.getD l 0 % 2 ^ 32 * 2 ^ 32 + x.a.getD l 0 % 2 ^ 32))) s1.g.seed
    .next (laneNext { s1 with g := { s1.g with seed := seeds, draw := zero s1.g.draw, rnd := zero s1.g.rnd } } x.e
      x.act.length))

/-! ## sample (08, R231) -/

/-- A weight that counts: its exact value in units of 2^-149. -/
def weightOf (v : XVal) : Nat :=
  match v with
  | .fin false m e _ => m * 2 ^ (e + 149).toNat
  | _ => 0

/-- The first index whose cumulative weight exceeds the point u * c / 2^32. -/
def pickAt (u total : Nat) : List Nat → Nat → Nat → Nat
  | [], _, i => i
  | w :: ws, cum, i => if u * total < (cum + w) * 2 ^ 32 then i else pickAt u total ws (cum + w) (i + 1)

/-- The index that a row of weights gives for a draw. -/
def sampleRow (row : List XVal) (u : Nat) : Nat :=
  match indexWhere (fun v => v = .inf false) row with
  | some i => i
  | none =>
    let ws := row.map weightOf
    let c := ws.sum
    if c = 0 then 2 ^ 32 - 1 else pickAt u c ws 0 0

/-- The fault of a lane's row. -/
def rowFault (s : State) (a n : Nat) : Option Cause :=
  if a % 4 != 0 then some .align
  else if 262144 < n || (n != 0 && !(a + 4 * n ≤ 2 ^ 20 && inAllot s s.g a (4 * n))) then some .stashRange
  else none

/-- The weights of a row. -/
def rowOf (s : State) (a n : Nat) : List XVal :=
  (List.range n).map (fun i => fmtRead fmtF32 (fziOf s) (stashRead s s.g.core (a + 4 * i) 4))

/-- sample (08, R231); its reads are not watched (21, R400). One that waits on a line has issued (19, R357; log 71). -/
def execSample (f : LaneF) (s : State) : Res :=
  withLane s (.sample f) none (fun s1 x =>
    let a : Nat → Nat := fun l => x.a.getD l 0 % 2 ^ 32
    let n : Nat → Nat := fun l => x.b.getD l 0 % 2 ^ 32
    let kx := modBits f 16 3
    match x.act.findSome? (fun l => (rowFault s1 (a l) (n l)).map (fun c => (l, c))) with
    | some (l, c) => laneTrap s c (some l) (stashWindow + a l % 2 ^ 20)
    | none =>
      let held := (heldOp s (.sample f)).isSome
      if !held && captureFull s then laneWait s x.e .capture
      else laneStash (if held then s else hold s1 (.sample f) x [] 0#4) x.e false (x.act.map (fun l => (l, a l, 4 * n l)))
        (let r := x.act.map (fun l => (l, sampleRow (rowOf s1 (a l) (n l)) (drawWord s1.g l)))
         let g1 := writeDest (drawOne s1.g x.act) x.act f.dest.toNat false (byLane s1.g.width r)
         let g2 := if kx = 0 then g1 else r.foldl (fun g p => setK g kx p.1 (p.2 = 2 ^ 32 - 1)) g1
         .next (laneNext { s1 with g := g2 } x.e x.act.length)))

/-! ## Predicates (08, R232) -/

/-- kop (08, R232). -/
def execKop (f : LaneF) (s : State) : Res :=
  laneFun s (.kop f) f false (fun x l =>
    (modBits f 16 4 / 2 ^ (2 * (x.a.getD l 0 % 2) + x.b.getD l 0 % 2) % 2, {}))

/-! ## Exchange (08, R229, R233-R234) -/

/-- The lane that `shfl` reads for lane `l`. -/
def shflFrom (mode l c : Nat) : Int :=
  match mode with
  | 0 => c
  | 1 => (l : Int) - c
  | 2 => (l : Int) + c
  | _ => (l ^^^ c : Nat)

/-- shfl (08, R233). -/
def execShfl (f : LaneF) (s : State) : Res :=
  laneFun s (.shfl f) f (is64Ty f.ty.toNat) (fun x l =>
    let j := shflFrom (modBits f 16 2) l (x.b.getD l 0 % 2 ^ 32)
    (if 0 ≤ j && j < s.g.width && x.act.contains j.toNat then x.a.getD j.toNat 0 else x.c.getD l 0, {}))

/-- lbcast (08, R234). -/
def execLbcast (f : LaneF) (s : State) : Res :=
  laneFun s (.lbcast f) f (is64Ty f.ty.toNat) (fun x l =>
    if modBit f 16 then
      let j := immBits f 0 5
      (if x.act.contains j then x.a.getD j 0 else x.c.getD l 0, {})
    else (x.a.getD (x.act.headD 0) 0, {}))

/-! ## Reductions and prefixes (08, R235) -/

/-- The exact sum; its zero is minus if every addend is, or under round down. -/
def groupSum (dn : Bool) (l : List XVal) : XVal :=
  match l with
  | [] => xzero false
  | _ => match xsum dn l with
    | .fin n m e st => if m = 0 && !st then xzero (dn || l.all (fun v => v = xzero true || (xisZero v && xsign v)))
      else .fin n m e st
    | v => v

/-- Minimum or maximum of floats, the identity of none (08, R215). -/
def groupPick (lo : Bool) (l : List XVal) : XVal :=
  match l with
  | [] => .inf (!lo)
  | v :: vs => vs.foldl (pickNumber (if lo then xless else xmore)) v

/-- A reduction of float operands. -/
def groupFloat (s : State) (f : LaneF) (md : RMode) (u : Nat) (l : List XVal) : Nat × FFlags :=
  let t := f.ty.toNat
  match modBits f 16 3 with
  | 0 => roundTo (wideFmt t) md false (fzoOf s) u (groupSum (zeroSign md) l)
  | o => ((roundTo (wideFmt t) .ne false false 0 (groupPick (o = 1) l)).1, { nv := l.any xisSnan })

/-- A reduction of integer operands. -/
def groupInt (f : LaneF) (l : List Nat) : Nat × FFlags :=
  let t := f.ty.toNat
  let w := tyWidth t
  let r := fmtIntRange (intFmt t)
  let vs := l.map (tyInt' t)
  let us := l.map (fun v => v % 2 ^ w)
  match modBits f 16 3 with
  | 0 => intRes t f.sat vs.sum
  | 1 => (bitsOfInt w (vs.foldl min (vs.headD r.2)), {})
  | 2 => (bitsOfInt w (vs.foldl max (vs.headD r.1)), {})
  | 3 => (us.foldl (fun m v => m &&& v) (2 ^ w - 1), {})
  | 4 => (us.foldl (fun m v => m ||| v) 0, {})
  | _ => (us.foldl (fun m v => m ^^^ v) 0, {})

/-- gred and gscan: `part` names the participants that a participant's result covers. -/
def groupReduce (s : State) (i : Instr) (f : LaneF) (part : Nat → Nat → Bool) : Res :=
  let t := f.ty.toNat
  let md := if modBits f 16 3 = 0 && t ≤ 1 then modeOf s f else .ne
  laneAlu s i f none (is64Ty t) md 1 (fun x l u =>
    let mine := x.act.filter (part l)
    if t ≤ 1 then groupFloat s f md (u 0) (mine.map (floatA s f x t))
    else
      let r := groupInt f (mine.map (fun j => x.a.getD j 0))
      (extendTy t r.1, r.2))

/-- gred (08, R235). -/
def execGred (f : LaneF) (s : State) : Res := groupReduce s (.gred f) f (fun _ _ => true)

/-- gscan (08, R235). -/
def execGscan (f : LaneF) (s : State) : Res :=
  groupReduce s (.gscan f) f (fun l j => if modBit f 19 then j < l else j ≤ l)

end Sys2Proof.Machine
end

