-- ==== Sys2Proof/Machine/Sync.lean ====
section
/-!
DEFINITION. Waits, fences, releases and acquires of the scalar stream (05, R110-R111, R121-R123).
-/

namespace Sys2Proof.Machine

/-- waitp (05, R110). -/
def execWaitp (a p : BitVec 6) (s : State) : Res :=
  needS s [a]
    (if pathCount s s.g.key p.toNat ≤ (rs s a).toNat then .next (advance s) else waitFor s (.counter p.toNat (rs s a).toNat))

/-- A flag of the mask is raised (05, R111). -/
def flagsUp (g : Group) (m : BitVec 12) : Bool :=
  (List.range 12).any (fun i => m.getLsbD i && g.flags.getD i 0 != 0)

/-- The flags that a queued clause will raise and has not raised yet, by its header; all of them where the header cannot be
read (log 31). -/
def comingFlags (s : State) (g : Group) (e : CEnt) : BitVec 12 :=
  let of : Hdr → BitVec 12 := fun h =>
    (if h.av then BitVec.ofNat 12 (2 ^ h.aflag.toNat) else 0#12) ||| (if h.bv then BitVec.ofNat 12 (2 ^ h.bflag.toNat) else 0#12)
  if e.id != 0 then 0#12
  else match e.hdr with
    | some h => of h
    | none => match fetchLane s g e.addr with
      | .ok w => if laneOp w = hdrOp then of (hdrFields w) else 0xFFF#12
      | .error _ => 0xFFF#12

/-- A flag of the mask does not read clear for the path: it is raised, or a clause that the path enqueued earlier will raise
it (05, R111; 13, note 10; log 31). -/
def flagsPending (s : State) (m : BitVec 12) : Bool :=
  flagsUp s.g m || (cur s).cq.any (fun e => comingFlags s s.g e &&& m != 0#12)

/-- waitf (05, R111). -/
def execWaitf (m : BitVec 12) (s : State) : Res :=
  if flagsPending s m then waitFor s (.flags m) else .next (advance s)

/-- fence (05, R121). -/
def execFence (sc : BitVec 3) (s : State) : Res := fenced s sc.toNat (.next (advance s))

/-- A publication whose mapped words have been written back: it waits for the stores, tells the peers, publishes, and goes on (05,
R122). -/
def pubWritten (s : State) (i : Instr) (sc : Nat) (told : Bool) (k : State → Res) : Res :=
  if !storesAccepted s s.g.key then waitFor s (if told then .told else .written)
  else match (if told then none else tellPeers s i sc) with
    | some s' => waitFor s' .told
    | none => k (publicationPoint s s.g sc)

/-- `pub` at a scope, and on (05, R122). -/
def pubThen (s : State) (i : Instr) (sc : Nat) (k : State → Res) : Res :=
  match (cur s).wait with
  | some .written => pubWritten s i sc false k
  | some .told => pubWritten s i sc true k
  | _ => fenced s sc
    (match writeBack s i with
     | some s' => waitFor s' .written
     | none => pubWritten s i sc false k)

/-- pub (05, R122). -/
def execPub (sc : BitVec 3) (s : State) : Res := pubThen s (.pub sc) sc.toNat (fun t => .next (advance t))

/-! ## Bytes that an instruction of the scalar stream reads as loads (14, R315; 17, R335) -/

/-- The loads of a range, line by line, or the first fault. -/
def loadParts (s : State) (g : Group) : List (Nat × Nat) → Except (Cause × Bool × Nat) (List Part)
  | [] => .ok []
  | (a, n) :: r =>
    match locate s g a n .read with
    | .error (c, stg) => .error (c, stg, a)
    | .ok (kind, fa) => match loadParts s g r with
      | .error e => .error e
      | .ok ps => .ok ({ ga := a, fa := fa, size := n, kind := kind } :: ps)

/-- Goes on with `n` bytes that the group has loaded at an address; a fault traps here. -/
def withLoads (s : State) (i : Instr) (ga n : Nat) (k : State → List Byte → Res) : Res :=
  match descOp s i with
  | some o =>
    let t : State := { s with ops := s.ops.filter (fun q => q.id != o.id) }
    if o.parts.any (fun q => q.st != .done) then waitFor s .drain
    else match o.parts.findSome? (fun q => q.err) with
      | some (c, a) => trapAcc t (c, false) .read a
      | none => k t ((o.parts.map (fun q => leBytes q.size q.res)).flatten)
  | none =>
    match loadParts s s.g ((pieces ga n).map (fun p => (ga + p.1, p.2))) with
    | .error (c, stg, x) => trapAcc s (c, stg) .read x
    | .ok ps => roomToIssue s .halo (pathsOf ps)
      (if inStashWindow ga then
        stashReady s (ga - stashWindow) n false none (k s (stashBytes s s.g.core (ga - stashWindow) n))
       else waitFor (issue s { id := 0, g := s.g.key, slot := s.slot, tag := 0, cls := .halo, instr := i, parts := ps }) .drain)

/-- acq (05, R123). -/
def execAcq (sc : BitVec 3) (s : State) : Res :=
  if loadsOut s then waitFor s .drain
  else .next (advance (snapshotPoint s s.g sc.toNat))

end Sys2Proof.Machine
end

