-- ==== Sys2Proof/Machine/Wake.lean ====
section
/-!
DEFINITION. Which waits are blocking points, when they end, which groups are blocked or eligible; what a clause needs of
the queue registers (05, R112, R144; 07, R199).
-/

namespace Sys2Proof.Machine

/-! ## What a clause pops and pushes (05, R144) -/

/-- The instructions of a clause from its next one on. -/
def restOf (e : CEnt) : List Instr := (e.code.drop e.idx).filterMap (fun w => (decodeLane w).toOption)

/-- Reads of queue register `n` in a list of instructions. -/
def queueReads (cx : LaneCx) (n : Nat) (l : List Instr) : Nat :=
  (l.map (fun i => match laneParts i with
    | some (op, f) => ((popsOf (laneSpec cx op.toNat f) f).filter (fun p => p.1 = n)).length
    | none => 0)).sum

/-- Writes of queue register `n`. -/
def queueWrites (n : Nat) (l : List Instr) : Nat :=
  (l.filter (fun i => match laneParts i with
    | some (_, f) => pushOf f = some n
    | none => false)).length

/-- Elements that the lanes can pop from a register now. -/
def popable (g : Group) (n : Nat) : Nat :=
  if n = 2 then g.q2.length
  else if n = 3 then g.q3.length
  else match bindOf g n with
    | some b => b.popb.length
    | none => 0

/-- Elements that results on their way will push. -/
def pushesComing (s : State) (g : Group) (n : Nat) : Nat :=
  ((s.ops.filter (fun o => o.g = g.key && !o.returned && (o.cls = .sfu || o.cls = .matrix))).map (fun o =>
    match laneParts o.instr with
    | some (_, f) => if pushOf f = some n then popcount o.mask else 0
    | none => 0)).sum

/-- Room for pushes. -/
def pushRoom (s : State) (g : Group) (n : Nat) : Nat :=
  match bindOf g n with
  | some b => 64 - b.pushb.length - pushesComing s g n
  | none => 0

/-- What the clause waits for at its queue registers: elements to pop, which is a blocking point (05, R112), else room for its
pushes, which is a stall. -/
def elementsShort (s : State) (g : Group) (gfmt : W64) (e : CEnt) : Option Wait :=
  let l := restOf e
  let m := popcount e.mask
  match [2, 3, 4, 5, 6, 7].find? (fun n => popable g n < m * queueReads (cxOf g gfmt) n l) with
  | some n => some (.elements n)
  | none => ([4, 5, 6, 7].find? (fun n => queueWrites n l != 0 && pushRoom s g n < m * queueWrites n l)).map Wait.queueFull

/-! ## Waits (07, R199) -/

/-- Only waits of `ltkld` and `ltkred` hold one of the flags up: every clause that holds one waits at such an instruction, and no
other operation that the flag covers is outstanding (05, R112). -/
def flagsByTickets (s : State) (g : Group) (m : BitVec 12) : Bool :=
  let up : Option Nat → Bool := fun f => f.elim false (fun i => m.getLsbD i)
  let holders := s.clauses.filter (fun c => c.g = g.key && (up c.fa || up c.fb))
  holders != [] && holders.all (fun c =>
    !(up c.fa && clauseBusy s c false (c.fa = c.fb)) && !(up c.fb && clauseBusy s c true (c.fa = c.fb))
      && [g.p0, g.p1].any (fun p => match p.cq with
        | e :: _ => e.id = c.id && (match e.wait with
          | some (.ticket _ _) => true
          | some (.fetching _ _) => true
          | _ => false)
        | [] => false))

/-- The wait of a path is a blocking point; `lane` tells a clause's wait from the scalar stream's. -/
def isPoint (s : State) (g : Group) (lane : Bool) (w : Wait) : Bool :=
  match w with
  | .sreg _ peer => peer
  | .counter p _ => p = 2
  | .flags m => lane && flagsByTickets s g m
  | .ticket _ _ => true
  | .fetching _ _ => true
  | .queueEmpty _ => true
  | .queueFull _ => false
  | .elements _ => true
  | .stashLine _ => true
  | .mappedFill _ peer => peer
  | .barrier _ _ => true
  | .stepEntry => true
  | .cutHold => true
  | .tag _ _ _ _ => true
  | .page _ _ _ => true
  | .cont => true
  | .yield => true
  | .launchSlot => true
  | .record _ _ => true
  | .reduction => true
  | _ => false

/-- The fill of the mapped line that caches a global address has landed. -/
def fillLanded (s : State) (g : Group) (ga : Nat) : Bool :=
  match parcelOf s (parcelKey g) with
  | none => true
  | some p => p.maps.all (fun m => match m with
    | some e => !(e.ga ≤ ga && ga < e.ga + e.len) || !p.mfill.contains ((e.off + (ga - e.ga)) / 128)
    | none => true)

/-- The wake condition of a wait. -/
def wakes (s : State) (g : Group) (slot : Bool) (w : Wait) : Bool :=
  match w with
  | .sreg r _ => !s.ops.any (fun o => o.g = g.key && !o.returned && (match o.land with
      | .sreg d _ _ => d = r
      | _ => false))
  | .counter p n => pathCount s g.key p ≤ n
  | .flags m => !flagsUp g m
  | .ticket c n => ticketRoom s g.pid (coreSlice g.core) c n
  | .fetching sl i => (entryOf s sl i).st != .fetching
  | .queueEmpty n =>
    if n = 1 then (match parcelOf s (parcelKey g) with
      | some p => p.q1 != []
      | none => true)
    else popable g n != 0 || (4 ≤ n && (match bindOf g n with
      | some b => (match ctxOf s b.desc with
        | some q => ctxCount q != 0 && (match popFirst s q with
          | some x => x.g = g.key
          | none => true)
        | none => true)
      | none => true))
  | .elements _ => match (pathOf g slot).cq with
    | e :: _ => match elementsShort s g (pathOf g slot).gfmt e with
      | some (.elements _) => false
      | _ => true
    | [] => true
  | .stashLine l => !s.emptyLines.contains (lineKey g.core l)
  | .mappedFill a _ => fillLanded s g a
  | .barrier off ph => (barRead s g.core off).phase != ph
  | .stepEntry => mayEnter s g
  | .cutHold => mayEnter s g || (cutOf s g.key.launch).isNone
  | .tag c r st _ => (copyAt s g c r st).isSome || !cellReachable s g.d c || cellGone s g c || g.lost.contains (c, st)
  | .page pid page acc => match xlate s g.core pid (page * 4096) acc with
    | .ok _ => true
    | .error e => causeKind e.1 != .serviceable
  | .cont => g.contDone.isSome
  | .yield => true
  | .launchSlot => (s.launches.filter (fun l => sheetOf l.pid = sheetOf g.pid && l.st != .ended)).length < 1024
  | .record lvl h => !s.recs.any (fun r => r.sheet = sheetOf g.pid && r.lvl = lvl && r.h = h && r.out != 0)
  | .reduction => s.net.rreqs.any (fun r => r.g = some (g.key, (pathOf g slot).tag) && r.ans.isSome)
  | _ => false

/-- How a path slot stands: it runs, it stalls, it waits at a `join`, or it waits at blocking points. -/
inductive SlotState where
  | runs
  | stalls
  | joins
  | blocked (wake : Bool)
  deriving DecidableEq, Repr

/-- The reasons of a slot: the scalar stream's, then the head clause's. -/
def slotReasons (p : Path) : List (Bool × Wait) :=
  (p.wait.toList.map (fun w => (false, w))) ++ (match p.cq with
    | e :: _ => e.wait.toList.map (fun w => (true, w))
    | [] => [])

/-- Both streams of the slot are held up. -/
def slotStuck (p : Path) : Bool :=
  (p.wait.isSome || p.waiting || p.pc = 0#64) && (match p.cq with
    | e :: _ => e.wait.isSome
    | [] => true)

def slotState (s : State) (g : Group) (slot : Bool) : SlotState :=
  let p := pathOf g slot
  if !slotStuck p then .runs
  else match (slotReasons p).filter (fun r => isPoint s g r.1 r.2) with
    | [] => if p.waiting then .joins else .stalls
    | l => .blocked (l.any (fun r => wakes s g slot r.2))

def slotStates (s : State) (g : Group) : List SlotState :=
  (if g.p0.occ then [slotState s g false] else []) ++ (if g.p1.occ then [slotState s g true] else [])

/-- The group waits in a page-fault wait of 19, R362. -/
def inPageWait (g : Group) : Bool :=
  match g.stop with
  | .pageWait _ => true
  | _ => false

/-- A path of the group is in a `yield`, and none runs or stalls: it counts as blocked for one decision (19, R365). -/
def yielding (s : State) (g : Group) : Bool :=
  g.stop = .running && [g.p0, g.p1].any (fun p => p.occ && p.wait = some .yield) && !spillReady s g
    && (slotStates s g).all (fun x => x != .runs && x != .stalls)

/-- The group is blocked (07, R199). -/
def blocked (s : State) (g : Group) : Bool :=
  let l := slotStates s g
  inPageWait g ||
    (g.stop = .running && l.all (fun x => x = .joins || x = .blocked false) && l.contains (.blocked false)
      && !spillReady s g)

/-- The wake condition of one of its paths holds. -/
def wakeHolds (s : State) (g : Group) : Bool := (slotStates s g).contains (.blocked true)

/-- A non-resident group is eligible: one that waits at no blocking point, a group that has never run among them, or one
whose wake condition holds (07, R199). -/
def eligible (s : State) (g : Group) : Bool :=
  g.live && !g.resident && (isHeld g || g.stop = .running)
    && (wakeHolds s g || !(slotStates s g).contains (.blocked false))

/-- The slot's scalar PC at the blocking point, for EVT 3 and 8. -/
def blockPc (s : State) (g : Group) : W64 :=
  if g.p0.occ && (match slotState s g false with
    | .blocked _ => true
    | _ => false) then g.p0.pc else if g.p1.occ then g.p1.pc else g.p0.pc

end Sys2Proof.Machine
end

