-- ==== Sys2Proof/Machine/Clause.lean ====
section
/-!
DEFINITION. Illegal words, the decode and the issue of clauses, the completion of long-latency work (01, R14, R24-R28; 03,
R76; 08, R209; 10, R246; 17, R339).
-/

namespace Sys2Proof.Machine

/-- ILLEGAL_ENCODING: a scalar word that no row of the table gives (01, R14). -/
def execIllegalEncoding (_w : W32) (s : State) : Res := trapS s .illEnc

/-! ## Fetching a clause (01, R25) -/

/-- How the fetch of a clause's words ends. -/
inductive Fetched where
  | words (l : List W96)
  | structure_                        -- ILL_HDR
  | fault (c : Cause × Bool) (addr : Nat)
  deriving DecidableEq, Repr

/-- The words after the header, up to the one that carries E. -/
def fetchRest (s : State) (g : Group) : Nat → Nat → Fetched
  | 0, _ => .structure_
  | n + 1, ga =>
    match fetchLane s g ga with
    | .error c => .fault c ga
    | .ok w =>
      if laneOp w = hdrOp then .structure_
      else if (laneFields w).e then .words [w]
      else match fetchRest s g n (ga + 12) with
        | .words l => .words (w :: l)
        | r => r

/-- The flag fields of a header are sound (01, R25). -/
def hdrOk (h : Hdr) : Bool :=
  h.aflag.toNat < 12 && h.bflag.toNat < 12 && (h.av || h.aflag = 0#4) && (h.bv || h.bflag = 0#4)

/-- A word of a long-latency instruction (01, R27). -/
def longWord (w : W96) : Bool := memWord w || workWord w

/-- The first word that is no instruction, with its place and cause. -/
def wordsBad (cx : LaneCx) : Nat → List W96 → Option (Nat × Cause)
  | _, [] => none
  | n, w :: ws =>
    match decodeLane w with
    | .error c => some (n, c)
    | .ok i => match laneCheck cx i with
      | some c => some (n, c)
      | none => wordsBad cx (n + 1) ws

/-! ## Hazards (01, R28) -/

/-- Registers read or written by the words after a long-latency one that writes them. -/
def innerHazard (cx : LaneCx) : List Nat → List W96 → Bool
  | _, [] => false
  | ws, w :: r =>
    match decodeLane w with
    | .error _ => false
    | .ok i =>
      (laneReads cx i ++ laneWrites cx i).any (fun c => ws.contains c)
        || innerHazard cx (if longWord w then ws ++ laneWrites cx i else ws) r

/-- The covering flag of an outstanding operation. -/
def coverOf (s : State) (o : Op) : Option Nat :=
  match s.clauses.find? (fun c => c.id = o.clause) with
  | some c => if o.setB then c.fb else c.fa
  | none => none

/-- A register of the clause `id` has a pending write of another clause whose covering flag the wait mask omits. -/
def outerHazard (s : State) (g : Group) (cx : LaneCx) (id : Nat) (h : Hdr) (ws : List W96) : Bool :=
  let regs := (ws.map (fun w => match decodeLane w with
    | .ok i => laneReads cx i ++ laneWrites cx i
    | .error _ => [])).flatten
  s.ops.any (fun o => o.g = g.key && !o.returned && o.clause != 0 && o.clause != id && (opWrites g o).any (fun c => regs.contains c)
    && (match coverOf s o with
      | some f => !h.wait.getLsbD f
      | none => false))

/-- The queue need of a clause that traps with QREG_BAD (05, R144), and the misuse of a queue register by a lane instruction (05,
R138), which is found at the clause's decode too and removes the clause (DESIGN CHOICE, log 74). -/
def queueNeedBad (g : Group) (cx : LaneCx) (m : W32) (ws : List W96) : Bool :=
  let l := ws.filterMap (fun w => (decodeLane w).toOption)
  let c := popcount m
  l.any (fun i => match laneParts i with
      | some (op, f) => queueBad g (laneSpec cx op.toNat f) op.toNat f
      | none => false)
    || [4, 5, 6, 7].any (fun n => 64 < c * queueReads cx n l || 64 < c * queueWrites n l)
    || 256 < c * queueReads cx 2 l || 16 < c * queueReads cx 3 l

/-- What the decode of a clause finds: its words, a failure that removes it, or a fault of its fetch. -/
inductive Decoded where
  | ok (h : Hdr) (l : List W96)
  | bad (c : Cause) (addr : Nat)
  | fault (c : Cause × Bool) (addr : Nat)
  deriving DecidableEq, Repr

def decodeClause (s : State) (g : Group) (p : Path) (e : CEnt) : Decoded :=
  match fetchLane s g e.addr with
  | .error c => .fault c e.addr
  | .ok w =>
    if laneOp w != hdrOp then .bad .illHdr e.addr
    else match fetchRest s g 24 (e.addr + 12) with
      | .fault c a => .fault c a
      | .structure_ => .bad .illHdr e.addr
      | .words l =>
        let h := hdrFields w
        let cx := { cxOf g p.gfmt with noSpec := !featOn s g.pid 2, noStoch := !featOn s g.pid 3 }
        if !hdrOk h || (l.any memWord && !h.av) || (l.any workWord && !h.bv) then .bad .illHdr e.addr
        else match wordsBad cx 0 l with
          | some (n, c) => .bad c (e.addr + 12 * (n + 1))
          | none =>
            if innerHazard cx [] l || outerHazard s g cx e.id h l then .bad .clauseHaz e.addr
            else if queueNeedBad g cx e.mask l then .bad .qregBad e.addr
            else .ok h l

/-- The slot's group runs and is on its core. -/
def active (g : Group) : Bool := g.live && g.resident && g.stop = .running

/-- The fetch of a clause's words missed, on the page of its first byte or on that of its last, `n` bytes on; of a clause that fails its
decoding they are those up to the word that fails (21, R394). -/
def clauseMisses (s : State) (e : CEnt) (n : Nat) : State :=
  [e.addr, e.addr + n].foldl (fun t a => if inStashWindow a then t else noteMiss t (some t.g) t.g.core t.g.pid a .fetch (BitVec.ofNat 64 e.addr)) s

/-- The focused slot's head clause is decoded (01, R25; 03, R76). -/
def decodeHead (s : State) : State :=
  match (cur s).cq with
  | [] => s
  | e :: r =>
    if e.hdr.isSome || !(cur s).occ then s
    else match decodeClause s s.g (cur s) e with
      | .ok h l => clauseMisses (setCur s { cur s with cq := { e with hdr := some h, code := l } :: r }) e (12 * l.length + 11)
      | .bad c a => takeTrap (clauseMisses (setCur s { cur s with cq := r }) e (a - e.addr + 11)) { cause := c, slot := s.slot, addr := a }
      | .fault (c, stg) a => takeTrap s { cause := c, stg := stg, acc := .fetch, slot := s.slot, addr := a }

/-- CLAUSE_DECODE: the clause at the head of a slot's queue is fetched and decoded whole (01, R25). -/
def execClauseDecode (k : GKey) (slot : Bool) (s : State) : Res :=
  match getG s k with
  | some g => if active g then .next (withFocus s k slot decodeHead) else .next s
  | none => .next s

/-! ## Groups that must leave their core (18, R346, R351; 22, R415) -/

/-- One occupied slot, an empty spill stack, the scalar stream between instructions and the lane stream between clauses. -/
def atBoundary (g : Group) : Bool :=
  g.p0.occ != g.p1.occ && g.spillCnt = 0 && (match (pathOf g g.p1.occ).cq with
    | e :: _ => !e.running && (e.id = 0 || e.idx = 0)
    | [] => true)

/-- The group may not stay on its core: its partition has lost it or has no slice of it, the core is isolated, or the package powers
down (18, R346; 22, R415, R420). -/
def mayNotStay (s : State) (g : Group) : Bool :=
  let r := coreOf s g.core
  s.svc.hot || !mayUse s g.pid g.core || (r.mode = 2 && r.running != some g.pid) || coreIsolated s g.core

/-- The group must leave its core: its slice has ended, or it may not stay (18, R351). -/
def mustLeave (s : State) (g : Group) : Bool :=
  let r := coreOf s g.core
  (r.stopping && r.running = some g.pid) || mayNotStay s g

/-- The group issues nothing more: it must leave and stands at such a boundary. -/
def sliceHold (s : State) (g : Group) : Bool := mustLeave s g && atBoundary g

/-! ## Issue (01, R26-R27; 17, R339) -/

/-- The set flags of a header. -/
def setFlags (h : Hdr) : List Nat :=
  (if h.av then [h.aflag.toNat] else []) ++ (if h.bv && !(h.av && h.aflag = h.bflag) then [h.bflag.toNat] else [])

/-- A pipe of a core runs a clause. -/
def pipeBusy (s : State) (core pipe : Nat) : Bool :=
  (groups s).any (fun g => g.core = core && [g.p0, g.p1].any (fun p => match p.cq with
    | e :: _ => e.running && e.pipe = pipe
    | [] => false))

/-- The clause reason for not being eligible, if any (01, R26; 05, R144). The rest of a clause that has issued before
waits for what its next instruction waits for. -/
def notEligible (s : State) (g : Group) (slot : Bool) (e : CEnt) : Option Wait :=
  match e.hdr with
  | none => some .earlier
  | some h =>
    if e.id != 0 then (match e.wait with
      | some w => if wakes s g slot w || !pointInClause w then none else some w
      | none => none)
    else if flagsUp g h.wait then some (.flags h.wait)
    else if (setFlags h).any (fun f => 63 ≤ g.flags.getD f 0) then some .room
    else elementsShort s g (pathOf g slot).gfmt e

/-! ### Arbitration (17, R339) -/

/-- The path in the slot has a scalar instruction to run: its group runs on its core and need not leave it. -/
def mayRun (s : State) (g : Group) (slot : Bool) : Bool :=
  active g && (pathOf g slot).occ && (pathOf g slot).pc != 0#64 && !sliceHold s g

/-- The turn in which the slot's next scalar instruction became eligible is kept while it stays so. One that has issued and waits
is past arbitration. -/
def noteDue (s : State) (g : Group) (slot : Bool) (p : Path) : Path :=
  if mayRun s g slot && p.wait.isNone then (if p.due.isSome then p else { p with due := some s.turns })
  else { p with due := none }

/-- The turn in which the slot's head clause became eligible is kept while it stays eligible. -/
def noteSlot (s : State) (g : Group) (slot : Bool) : Path :=
  let p := pathOf g slot
  match p.cq with
  | [] => p
  | e :: r =>
    if active g && p.occ && e.hdr.isSome && !e.running && (notEligible s g slot e).isNone && !sliceHold s g then
      (if e.since.isSome then p else { p with cq := { e with since := some s.turns } :: r })
    else if e.since.isSome then { p with cq := { e with since := none } :: r }
    else p

/-- Since when a resident group has been blocked, or counted as blocked by its `yield` (07, R199-R200; 19, R365). -/
def blockedNote (s : State) (g : Group) : Option Nat :=
  if g.live && g.resident && (blocked s g || yielding s g) then some (g.blockedAt.getD s.time) else none

def noteGroup (s : State) (g : Group) : Group :=
  { g with p0 := noteDue s g false (noteSlot s g false), p1 := noteDue s g true (noteSlot s g true), blockedAt := blockedNote s g }

/-- A turn has passed: clauses and scalar instructions that have become eligible and groups that have become blocked are noted. -/
def noteEligible (s : State) : State :=
  { s with g := noteGroup s s.g, others := s.others.map (noteGroup s), turns := s.turns + 1 }

/-- A waiting, eligible clause or scalar instruction: its group, its slot, and since when. -/
structure Waiter where
  key : GKey
  slot : Bool
  prio : Nat
  since : Nat
  deriving DecidableEq, Repr

/-- The number of a core's scalar unit among its units: the lane pipes come first. -/
def scalarUnit : Nat := Config.pipes

def waiterOf (g : Group) (slot : Bool) (unit : Nat) : List Waiter :=
  let at_ : Option Nat := if unit = scalarUnit then (pathOf g slot).due else match (pathOf g slot).cq with
    | e :: _ => if e.running then none else e.since
    | [] => none
  at_.toList.map (fun n => ⟨g.key, slot, g.d.prio, n⟩)

/-- What the core's resident groups have eligible for a unit. -/
def waiters (s : State) (core unit : Nat) : List Waiter :=
  (((groups s).filter (fun g => active g && g.core = core)).map (fun g => waiterOf g false unit ++ waiterOf g true unit)).flatten

/-- Earlier, then the lower `%groupid`, then slot 0. -/
def olderWaiter (a b : Waiter) : Bool :=
  a.since < b.since || (a.since = b.since && (a.key.gid < b.key.gid || (a.key.gid = b.key.gid && !a.slot && b.slot)))

def passedOn (s : State) (core unit prio : Nat) : Nat := assocD 0 (coreOf s core).passed (8 * unit + prio)

/-- The first of a list under an order. -/
def bestOf {α : Type} (better : α → α → Bool) : List α → Option α
  | [] => none
  | x :: xs => some (xs.foldl (fun m y => if better y m then y else m) x)

/-- What a unit takes next: of a class that has been passed over 15 times, else of the highest class. -/
def winner (s : State) (core unit : Nat) : Option Waiter :=
  let l := waiters s core unit
  let old := l.filter (fun w => 15 ≤ passedOn s core unit w.prio)
  if old != [] then bestOf olderWaiter old
  else bestOf (fun a b => b.prio < a.prio || (a.prio = b.prio && olderWaiter a b)) l

/-- Issues that other classes have waited through are counted. -/
def countPassed (s : State) (core unit prio : Nat) : State :=
  let l := waiters s core unit
  let r := coreOf s core
  setCore s { r with passed := (List.range 8).foldl (fun m c =>
    assocSet m (8 * unit + c) (if c != prio && l.any (fun w => w.prio = c) then passedOn s core unit c + 1 else 0)) r.passed }

/-- The focused slot's head clause takes a pipe: its set flags rise, and it counts (01, R26-R27; 03, R72). -/
def startClause (s : State) (pipe : Nat) (e : CEnt) (h : Hdr) : State :=
  if e.id != 0 then setHead s { e with running := true, pipe := pipe, since := none }
  else
    let id := s.nextId
    let fl := setFlags h
    let g1 := { s.g with flags := fl.foldl (fun l f => l.set f (l.getD f 0 + 1)) s.g.flags }
    let c : Clause := { id := id, g := s.g.key, fa := if h.av then some h.aflag.toNat else none
                        fb := if h.bv then some h.bflag.toNat else none }
    let s1 := { s with g := g1, nextId := id + 1, clauses := if fl = [] then s.clauses else s.clauses ++ [c] }
    let s2 := setHead s1 { e with running := true, pipe := pipe, id := id, wait := none, since := none }
    rotate (noteEvent s2 s2.g 0 (BitVec.ofNat 64 e.addr) 1) s2.g.key s.slot

/-- The focused slot's head clause takes a pipe if it is eligible and its turn has come, and otherwise waits in arbitration. -/
def issueHead (s : State) (pipe : Nat) : State :=
  match (cur s).cq with
  | [] => s
  | e :: _ =>
    match e.hdr with
    | none => s
    | some h =>
      if e.running then s
      else match notEligible s s.g s.slot e with
        | some w => setHead s { e with wait := some w }
        | none =>
          if (winner s s.g.core pipe).any (fun w => w.key = s.g.key && w.slot = s.slot) then
            startClause (countPassed s s.g.core pipe s.g.d.prio) pipe e h
          else s

/-- CLAUSE_ISSUE: the clause wins a free lane pipe (01, R26; 17, R339). -/
def execClauseIssue (k : GKey) (slot : Bool) (pipe : Nat) (s : State) : Res :=
  match getG s k with
  | some g =>
    if active g && (pathOf g slot).occ && pipe < Config.pipes && !pipeBusy s g.core pipe && !sliceHold s g then
      .next (withFocus s k slot (fun t => issueHead t pipe))
    else .next s
  | none => .next s

/-! ## Long-latency completion (01, R27; 08, R209; 10, R246) -/

/-- An operation has returned: it retires when its turn comes, and flags that it held fall. -/
def returnOp (s : State) (id : Nat) : State :=
  settleFlags (pruneOps { s with ops := s.ops.map (fun o => if o.id = id then { o with returned := true } else o) })

/-- LONG_LATENCY_COMPLETE: a special-function operation lands; a matrix instruction is performed in its turn. -/
def execLongLatencyComplete (id : Nat) (s : State) : Res :=
  match opOf s id with
  | none => .next s
  | some o =>
    if o.returned then .next s
    else match o.cls with
      | .sfu => .next (returnOp (withFocus s o.g o.slot (fun t => landSfu t o)) id)
      | .matrix =>
        if !matTurn s o || o.parts.any (fun p => p.st != .done) then .next s
        else
          let t := focusOn s o.g o.slot
          match doMatrix t o with
          | none => .next s
          | some t' => .next (returnOp (if s.g.live then focusOn t' s.g.key s.slot else t') id)
      | _ => .next s

end Sys2Proof.Machine
end

