-- ==== Sys2Proof/Machine/Fabric.lean ====
section
/-!
DEFINITION. The fabric as the package's own requests see it: peers, tags, packets (14, R287-R305). The contents of ARGS
and of the data bytes are the model's (log 19).
-/

namespace Sys2Proof.Machine

/-! ## Requester tags (14, R304-R305) -/

def tagOfDie (s : State) (die tag : Nat) : Tag :=
  (s.net.tags.find? (fun t => t.die = die && t.tag = tag)).getD ⟨die, tag, 0, 0, 0, 0, 0, 0, 0, 0⟩

def setTag (s : State) (t : Tag) : State :=
  let l := if s.net.tags.any (fun x => x.die = t.die && x.tag = t.tag)
    then s.net.tags.map (fun x => if x.die = t.die && x.tag = t.tag then t else x)
    else s.net.tags ++ [t]
  { s with net := { s.net with tags := l } }

/-- The lowest free tag of a die. -/
def freeTag (s : State) (die : Nat) : Option Nat :=
  (List.range 4096).find? (fun i => !s.net.tags.any (fun t => t.die = die && t.tag = i && t.st != 0))

/-- A tag's request ends; its generation advances and it is free at once, or quarantined (14, R305). -/
def endTag (s : State) (t : Tag) (quarantine : Bool) : State :=
  setTag s { t with st := if quarantine then 2 else 0, gen := (t.gen + 1) % 16, since := s.time }

def aopCode (o : AtomOp) : Nat :=
  match o with
  | .add => 0 | .swap => 1 | .cas => 2 | .min => 3 | .max => 4 | .and => 5 | .or => 6 | .xor => 7 | .minu => 8
  | .maxu => 9 | .fadd => 10

def aopOfCode (n : Nat) : AtomOp :=
  match n with
  | 0 => .add | 1 => .swap | 2 => .cas | 3 => .min | 4 => .max | 5 => .and | 6 => .or | 7 => .xor | 8 => .minu
  | 9 => .maxu | _ => .fadd

/-- The kind of the request that a part makes. -/
def partKind (o : Op) (p : Part) : Nat :=
  if o.cls = .rsta then 6 else if o.aop.isSome then 2 else if p.wr then 1 else 0

/-- ARGS of a request: bytes, atomic operation, speculative window and slot. -/
def partArgs (o : Op) (p : Part) : Nat :=
  p.size + 2 ^ 16 * (match o.aop with
    | some a => aopCode a
    | none => 0)
  + 2 ^ 24 * (match p.spec with
    | some (w, sl) => 1 + 2 * w + 2 ^ 33 * sl
    | none => 0)

def partData (o : Op) (p : Part) : List Byte :=
  if p.size = 0 then leBytes 32 p.data
  else (if p.wr then leBytes p.size p.data ++ (if o.aop = some .cas then leBytes p.size p.cmp else []) else [])
    ++ (if p.spec.isSome then leBytes 4 o.g.launch else [])

/-- What the peer's slice holds of a store that has been sent (12, R263). -/
def noteAway (s : State) (o : Op) (p : Part) (peer : Nat) : State :=
  let a : Away := ⟨o.core, o.g, peer, homeSlice p.fa, p.spec.map Prod.fst⟩
  if partKind o p != 1 || p.size = 0 || s.away.contains a then s else { s with away := s.away ++ [a] }

/-- Sends part `j` to its peer under a tag: held where none is free, ended where the peer is not UP, the tag then freed at once, and
held at the limit of the pair (14, R296, R300, R304-R305). -/
def sendPart (s : State) (o : Op) (j : Nat) (p : Part) (peer : Nat) : State :=
  let die := dieOfCore o.core
  let sl := homeSlice p.fa
  match freeTag s die with
  | none => s
  | some n =>
    let t := tagOfDie s die n
    if !peerUp s peer then sampleDone (putPart (endTag s t false) o j { p with st := .done, err := some (.fabUnreach, p.ga) }) o.id j
    else
      let s0 := settlePair s peer sl
      if 512 ≤ pairOut s0 peer sl then s0
      else
        let s1 := setTag s0 { t with st := 1, op := o.id, part := j, peer := peer, since := s.time, slice := sl
                                     seq := (nextSeqTo s0 peer sl).2 }
        let pkt : Packet := { mkPacket s (partKind o p) peer sl p.fa (partArgs o p) (partData o p) with
          tag := n, gen := t.gen, die := die, core := o.core, g := o.g, job := jobOf s o.g.launch, lane := atomLane o p
          acq := (getG s o.g).elim 0 Group.acqAt }
        putPart (noteAway (enterRouter s1 pkt) o p peer) o j { p with st := .sent die n }

end Sys2Proof.Machine
end

