-- ==== Sys2Proof/Machine/AccessEv.lean ====
section
/-!
DEFINITION. Accesses performed, held, retried, answered and landed (04, R88-R94; 05, R108, R127; 12, R262, R268; 19, R432).
-/

namespace Sys2Proof.Machine

/-! ## Order of arrival (04, R89, R102; 12, R270) -/

/-- The target slice of a part: a local one, or a peer's. -/
def targetOf (p : Part) : Option Nat :=
  match p.kind with
  | .dev sl => some sl
  | .host sl => some sl
  | .peer n => some (256 * (n + 1) + homeSlice p.fa)
  | _ => none

/-- The part as it is performed: a `tst` takes its bytes from the tile in its turn (10, R246-R247); none before that. -/
def readyPart (s : State) (o : Op) (p : Part) : Option Part :=
  match o.instr with
  | .tst f =>
    if !matTurn s o then none
    else match getG s o.g with
      | some g => some { p with data := tstData g o f p }
      | none => none
  | _ => some p

/-- The request could arrive now: nothing of its own holds it back. -/
def couldArrive (s : State) (o : Op) (p : Part) : Bool :=
  (readyPart s o p).isSome && (match p.kind with
  | .peer n => (freeTag s (dieOfCore o.core)).isSome && (!peerUp s n || pairOut s n (homeSlice p.fa) < 512)
  | _ => couldLand s o p)

/-- A load of the host window: once it has arrived, the group's later requests there wait until it is answered, so that no store of the
group passes it on the way to the host (04, R94; 12, R272). -/
def hostLoad (p : Part) : Bool :=
  match p.kind with
  | .host _ => !p.wr
  | _ => false

/-- An earlier request to the same target has not arrived: the group's own, or one of another group of its core that could arrive
now (04, R102; 12, R270). -/
def earlierTodo (s : State) (o : Op) (j : Nat) (p : Part) : Bool :=
  let same : Part → Bool := fun q => targetOf q = targetOf p && targetOf p != none
  let own : Part → Bool := fun q => same q && (q.st = .todo || (q.st = .held && hostLoad q))
  (s.ops.takeWhile (fun q => q.id != o.id)).any (fun q => q.parts.any (fun r => (q.g = o.g && own r)
    || (q.core = o.core && same r && r.st = .todo && couldArrive s q r))) || (o.parts.take j).any own

/-- An earlier access of the group to bytes of the stash range is still to be made. -/
def earlierStash (s : State) (o : Op) (j : Nat) (p : Part) : Bool :=
  let hit : Part → Bool := fun q =>
    stashTodo q && (q.wr || p.wr) && q.fa < p.fa + p.size && p.fa < q.fa + q.size
  (s.ops.takeWhile (fun q => q.id != o.id)).any (fun q => q.g = o.g && q.parts.any hit) || (o.parts.take j).any hit

/-! ## At the home slice (04, R90) -/

/-- A miss is counted against the issuing group (21, R394). -/
def countMiss (s : State) (o : Op) : State :=
  match getG s o.g with
  | some g => noteEvent s g 5 (BitVec.ofNat 64 o.pc) 1
  | none => s

/-- Part `j` is performed in a line that is present and has no fill outstanding, or starts one and is held. -/
def useLine (s : State) (l : Line) (o : Op) (j : Nat) (p : Part) (fresh : Bool) : State :=
  let w := wordBits p.fa p.size
  let store := p.wr && o.aop = none
  if p.spec.isSome && (wholeWords p.fa p.size || l.valid &&& w = w) then
    sampleDone (performDev (touchLine s l) o j p l.slice) o.id j
  else if store && p.spec.isNone && wholeWords p.fa p.size then
    sampleDone (performDev (touchLine s { l with valid := l.valid ||| w, dirty := l.dirty ||| w }) o j p l.slice) o.id j
  else if l.valid &&& w = w then
    sampleDone (performDev (touchLine s { l with dirty := if p.wr then l.dirty ||| w else l.dirty }) o j p l.slice) o.id j
  else
    let s1 := touchLine s { l with fill := true, held := l.held ++ [(o.id, j)] }
    putPart (if fresh then s1 else countMiss s1 o) o j { p with st := .held, missed := true }

/-- Part `j` of an operation arrives at its home slice (04, R88-R90; 12, R268; 16, R323; 20, R384; 21, R405). -/
def sliceDev (s : State) (o : Op) (j : Nat) (p : Part) (sl : Nat) : State :=
  if sliceIsolated s sl || pinnedAgainst s o.core p.fa p.size then s
  else if isDoor s p.fa p.size then sampleDone (putPart s o j { p with st := .done, err := some (.prot, p.ga) }) o.id j
  else if p.wr && copyPending s p.fa p.size then holdCopy s p.fa p.size
  else if o.aop.isSome && replayHolds s (jobOf s o.g.launch) 2 (fabricAddr s p.fa) o.g.launch o.g.gid (atomLane o p) then s
  else match lineOf s sl p.fa with
    | some l =>
      if l.fill then putPart (setLine s { l with held := l.held ++ [(o.id, j)] }) o j { p with st := .held }
      else useLine s l o j p false
    | none =>
      match allocLine s sl p.fa o.pid with
      | none => s
      | some (s1, l) => useLine (countMiss s1 o) l o j p true

/-! ## The host window (04, R94) -/

/-- A byte that a core holds at the target, of one sheet's port (04, R82, R94). -/
def heldByte (s : State) (core a : Nat) : Option Byte :=
  (s.hostHeld.find? (fun u => u.core = core && u.addr = a)).map (fun u => u.val)

/-- `n` bytes that the core's held stores give, 0 where none does. -/
def heldBytes (s : State) (core a : Nat) : Nat → Nat
  | 0 => 0
  | n + 1 => ((heldByte s core a).getD 0#8).toNat + 256 * heldBytes s core (a + 1) n

/-- Which of `n` bytes they give, a bit for each. -/
def heldMask (s : State) (core a : Nat) : Nat → Nat
  | 0 => 0
  | n + 1 => b2n (heldByte s core a).isSome + 2 * heldMask s core (a + 1) n

/-- `n` bytes of the host's answer, those that a mask names taken from the held stores. -/
def hostMerge (mask held data : Nat) : Nat → Nat
  | 0 => 0
  | n + 1 => (if mask % 2 = 1 then held % 256 else data % 256) + 256 * hostMerge (mask / 2) (held / 256) (data / 256) n

/-- A host-window part at its target: a store is held; a load is answered there if held stores give all of it, and goes on to the I/O
die otherwise, with what they give of it as it arrives: in `data` their bytes, in `cmp` which. -/
def sliceHost (s : State) (o : Op) (j : Nat) (p : Part) : State :=
  let a := hostKey o.pid p.fa
  let m := heldMask s o.core a p.size
  if p.wr then sampleDone (holdHost s o j p) o.id j
  else if m = 2 ^ p.size - 1 then sampleDone (putPart s o j { p with st := .done, res := heldBytes s o.core a p.size, onSlice := true }) o.id j
  else putPart s o j { p with st := .held, data := heldBytes s o.core a p.size, cmp := m }

/-! ## The stash, later than its issue (06, R158-R159; 19, R361) -/

/-- A stash part that a stop captured, or a tile row to be stored, is performed once its lines are full and filled. -/
def sliceStash (s : State) (o : Op) (j : Nat) (p : Part) : State :=
  match getG s o.g with
  | none => s
  | some g =>
    if earlierStash s o j p || (emptyLine s g.core p.fa p.size).isSome then s
    else match mapNeed s g p.fa p.size p.wr with
      | some (w, e) => match mapBad s g w with
        | some c => putPart (dropBad s g w) o j { p with st := .done, err := some (c, mapGa e w) }
        | none => startFill s g (w / 128)
      | none =>
        if p.wr then putPart (stashStore s g p.fa (leBytes p.size p.data)) o j { p with st := .done }
        else putPart s o j { p with st := .done, res := stashRead s g.core p.fa p.size }

/-- A redeem's bytes land, and their line is full (05, R134). -/
def sliceRedeem (s : State) (o : Op) (j : Nat) (p : Part) : State :=
  let s1 := match getG s o.g with
    | some g => stashStore s g p.fa (leBytes p.size p.data)
    | none => stashWrite s o.core p.fa (leBytes p.size p.data)
  putPart (markFull s1 o.core (linesOf p.fa p.size)) o j { p with st := .done }

/-- SLICE_ACCESS: one part of an operation arrives where it goes (04, R90). -/
def execSliceAccess (id j : Nat) (s : State) : Res :=
  match opOf s id with
  | none => .next s
  | some o =>
    if o.cls = .rsta then .next s
    else match o.parts[j]? with
    | none => .next s
    | some q =>
      if q.st != .todo || earlierTodo s o j q then .next s
      else match readyPart s o q with
        | none => .next s
        | some p =>
          match p.kind with
          | .dev sl => .next (sliceDev s o j p sl)
          | .host sl => .next (if sliceIsolated s sl then s else sliceHost s o j p)
          | .peer n => .next (sendPart s o j p n)
          | .stash => .next (sliceStash s o j p)
          | .ticket _ _ => .next (sliceRedeem s o j p)
          | .nowhere => .next (if o.cls = .matrix then sliceStash s o j p else s)

/-- The fill of a line lands: every word is valid, and the poison of those that it brings comes with it (04, R85, R90). -/
def landLine (s : State) (l : Line) : State :=
  let new := lineWords l.addr (~~~l.valid)
  { setLine s { l with fill := false, valid := 0xFFFFFFFF#32, held := [] } with
    poison := s.poison.filter (fun w => !new.contains w) ++ s.memPoison.filter (fun w => new.contains w) }

/-- Something that came while the request was held turns it away at its line: a narrow scope that pins the line, a door, a block of a
checkpoint, the order of a log (12, R268; 16, R323; 20, R384; 21, R405). -/
def turnedAway (s : State) (o : Op) (p : Part) : Bool :=
  pinnedAgainst s o.core p.fa p.size || isDoor s p.fa p.size || (p.wr && copyPending s p.fa p.size)
    || (o.aop.isSome && replayHolds s (jobOf s o.g.launch) 2 (fabricAddr s p.fa) o.g.launch o.g.gid (atomLane o p))

/-- The held requests of a line are performed in arrival order (04, R90); one that is turned away arrives again. -/
def performHeld (s : State) (slice addr : Nat) : List (Nat × Nat) → State
  | [] => s
  | (id, j) :: r =>
    match opOf s id, lineOf s slice addr with
    | some o, some l =>
      match o.parts[j]? with
      | some p =>
        if p.st != .held then performHeld s slice addr r
        else if turnedAway s o p then performHeld (putPart s o j { p with st := .todo }) slice addr r
        else performHeld (useLine s l o j p true) slice addr r
      | none => performHeld s slice addr r
    | _, _ => performHeld s slice addr r

/-- MERGING_FILL_LANDS: every word of the line is valid, and what waited behind the fill is performed (04, R90). A pseudo-channel under
test brings no fill (22, R415). -/
def execMergingFillLands (slice addr : Nat) (s : State) : Res :=
  match lineOf s slice addr with
  | none => .next s
  | some l =>
    if !l.fill || chanTesting s addr then .next s
    else .next (performHeld (landLine s l) slice addr l.held)

/-- HOST_WINDOW_PASS: a load that has arrived goes to the I/O die and its reply comes back, or the oldest published store leaves (04,
R94). -/
def execHostWindowPass (load : Option (Nat × Nat)) (ok : Bool) (data : Nat) (s : State) : Res :=
  match load with
  | none => .next { s with hostOut := s.hostOut.drop 1 }
  | some (id, j) =>
    match opOf s id with
    | none => .next s
    | some o =>
      match o.parts[j]? with
      | none => .next s
      | some p =>
        match p.kind with
        | .host sl =>
          if p.wr || p.st != .held || sliceIsolated s sl then .next s
          else .next (sampleDone (putPart s o j
            (if ok then { p with st := .done, res := hostMerge p.cmp p.data data p.size }
             else { p with st := .done, err := some (.busErr, p.ga) })) id j)
        | _ => .next s

/-- FORCED_PUBLICATION: the device publishes the named words of a core at fabric scope (12, R262). -/
def execForcedPublication (core : Nat) (words : List Nat) (s : State) : Res :=
  let hit : Nat → Bool := fun a => words.contains (a / 4 * 4)
  .next (tickP (publishOver s 5 (fun n => n.core = core && hit n.addr) (fun u => u.core = core && hit u.addr)))

/-- SCOPE_RETRY: an access to a pinned line gets a retry response, counted at its slice (12, R268). -/
def execScopeRetry (id j : Nat) (s : State) : Res :=
  match opOf s id with
  | none => .next s
  | some o =>
    match o.parts[j]? with
    | none => .next s
    | some p =>
      match p.kind with
      | .dev sl =>
        if p.st = .todo && pinnedAgainst s o.core p.fa p.size then
          .next (countRetry s sl)
        else .next s
      | _ => .next s

/-! ## Returns (05, R108) and late faults (19, R432) -/

/-- The first part, in lane order, that a fault answered. -/
def firstErr (o : Op) : Option (Nat × Cause × Nat) :=
  o.parts.foldl (fun r p => match p.err with
    | none => r
    | some (c, a) => match r with
      | none => some (p.lane, c, a)
      | some x => if p.lane < x.1 then some (p.lane, c, a) else some x) none

/-- The lanes of an operation whose accesses did not fault. -/
def goodLanes (o : Op) : W32 :=
  let at_ := (o.vals.drop 1).headD []
  (lanesOf o.mask).foldl (fun m l => match o.parts[at_.getD l 0]? with
    | some p => if p.err.isNone then setBit m l true else m
    | none => m) 0#32

/-- What an operation writes when it returns, its group in focus; none while a `tld` waits for its turn. -/
def landOp (s : State) (o : Op) : Option State :=
  match o.land with
  | .none => some s
  | .sreg r n sg => some (match o.parts with
      | p :: _ => ws s r (extend64 n sg p.res)
      | [] => s)
  | .lane f => match o.instr with
      | .tld _ => if matTurn s o then some (landTld s o f) else none
      | _ => some (landLaneOp s o f)

/-- The operation leaves its group for the replay queue: its write-back is cancelled (19, R357, R432). -/
def captureOne (s : State) (o : Op) : State :=
  updG { s with ops := s.ops.filter (fun q => q.id != o.id) } o.g (fun g => { g with replay := insertOp (captured o) g.replay })

/-- A fault that an access ended with, after its instruction issued (19, R432). -/
def lateFault (s : State) (o : Op) (lane : Nat) (c : Cause) (a : Nat) : State :=
  let f : Frame := { cause := c, slot := o.slot, addr := a, lane := if o.clause = 0 then none else some lane
                     acc := if o.aop.isSome then .atomic else if o.cls = .store then .write else .read }
  let s1 : State :=
    if capturable o.cls then captureOne s o
    else
      let s2 := if o.cls = .atomic && o.clause != 0 then
          withFocus s o.g o.slot (fun t => (landOp t { o with mask := goodLanes o }).getD t)
        else s
      returnOp s2 o.id
  match getG s1 o.g with
  | some _ => withFocus s1 o.g o.slot (fun t => takeTrap t f)
  | none => s1

/-- An operation of the core whose last answer came from its slice before one of `o`: replies of a slice to a core arrive in the
order in which it sent them (04, R102). The rows that a `tld` loads have come, and wait for its turn (10, R246). -/
def replyBehind (s : State) (o : Op) : Bool :=
  s.ops.any (fun q => q.id != o.id && q.core = o.core && !q.returned
    && (q.cls = .load || q.cls = .store || q.cls = .atomic || q.cls = .halo) && !isTld q
    && q.parts.all (fun p => p.st = .done) && q.parts.any (fun p => (targetOf p).any (fun t => t < 256))
    && q.parts.all (fun p => match targetOf p with
      | some t => t < 256 && o.parts.any (fun r => targetOf r = some t && p.ord < r.ord)
      | none => true))

/-- ACCESS_RETURN: every part has been answered; the data land, and the access returns (05, R108). -/
def execAccessReturn (id : Nat) (s : State) : Res :=
  match opOf s id with
  | none => .next s
  | some o =>
    if replyBehind s o then .next s
    else if o.cls = .halo then
      .next (if o.parts = [] || o.parts.any (fun p => p.st != .done) then s else setOp s { o with returned := true })
    else if o.returned || o.cls = .sfu || o.cls = .matrix || o.cls = .fetch || o.cls = .engine || o.cls = .rsta
        || o.parts.any (fun p => p.st != .done) then .next s
    else match firstErr o, getG s o.g with
      | _, none => .next (returnOp s id)
      | some (l, c, a), some _ => .next (lateFault s o l c a)
      | none, some _ =>
        let t := focusOn s o.g o.slot
        match landOp t o with
        | none => .next s
        | some t' => .next (returnOp (if s.g.live then focusOn t' s.g.key s.slot else t') id)

/-! ## Segments of an `rsta` (14, R308-R310) -/

/-- What is left of an `rsta` once its last segment has been acknowledged or has ended. -/
def rstaSettle (s : State) (id : Nat) : State :=
  match opOf s id with
  | none => s
  | some o =>
    if o.cls != .rsta || o.returned || o.parts.any (fun p => p.st != .done) then s
    else
      let v := o.vals.headD []
      let bar := v.headD 0
      let arv := (v.drop 1).headD 0 = 1
      let bad := o.parts.filter (fun p => p.err.isSome)
      let s1 := match bad.head?.bind Part.err with
        | some (c, _) => barFail s o.core bar (if arv then 1 else (bad.map Part.size).sum) c
        | none => if arv then barCount s o.core bar 1 else s
      returnOp s1 id

/-- LATE_FAULT_ARRIVAL: the reply to an access reports a fault (19, R432). -/
def execLateFaultArrival (id j : Nat) (c : Cause) (s : State) : Res :=
  match opOf s id with
  | none => .next s
  | some o =>
    match o.parts[j]? with
    | none => .next s
    | some p =>
      if o.returned || p.st = .done || targetOf p = none then .next s
      else
        let p' : Part := { p with st := .done, err := some (c, p.ga) }
        let s0 := match p.st with
          | .sent die tag => endTag s (tagOfDie s die tag) false
          | _ => s
        let s1 := sampleDone (putPart s0 o j p') id j
        let o' : Op := { o with parts := o.parts.set j p' }
        if o'.cls = .rsta then .next (rstaSettle s1 id)
        else if o'.cls = .halo || o'.cls = .fetch || o'.cls = .engine || o'.parts.any (fun q => q.st != .done) then .next s1
        else match firstErr o', getG s1 o.g with
          | some (l, e, a), some _ => .next (lateFault s1 o' l e a)
          | _, _ => .next (returnOp s1 id)

end Sys2Proof.Machine
end

