-- ==== Sys2Proof/Machine/Amsg.lean ====
section
/-!
DEFINITION. Active messages sent by the scalar stream (05, R145-R150).
-/

namespace Sys2Proof.Machine

/-- Messages that the queue of a core holds (05, R147). -/
def queuedFor (s : State) (core : Nat) : List Msg :=
  s.msgs.filter (fun m => m.queued && (match parcelOf s m.p with
    | some p => p.core = core
    | none => false))

/-- An instruction that has read the stash and finished: counted on path 1 behind the earlier ones (05, R107-R108). -/
def countStash (s : State) (i : Instr) : State :=
  pruneOps (issue s { id := 0, g := s.g.key, slot := s.slot, tag := 0, cls := .amsg, instr := i, paths := 2#4
                      returned := true })

/-- amsg (05, R145-R147). A message of length 0 has its offset checked like any other (DESIGN CHOICE, log 38). -/
def execAmsg (d a h l : BitVec 6) (s : State) : Res :=
  needS s [d, a]
    (let off := (rs s a).toNat
     let n := 8 * l.toNat
     let k : PKey := ⟨s.g.key.launch, (rs s d).toNat⟩
     match parcelOf s k with
     | none => trapS s .qBaddesc
     | some p =>
       if s.g.d.hcnt ≤ h.toNat || s.g.d.hq = 0 || 32 < l.toNat then trapS s .qBaddesc
       else if off % 8 != 0 then trapS s .align (stashWindow + off % 2 ^ 20)
       else if !inAllot s s.g off n then trapS s .stashRange (stashWindow + off % 2 ^ 20)
       else if 32 ≤ (queuedFor s p.core).length then waitFor s .message
       else stashReady s off n false none (roomToIssue s .amsg 2#4
         (let m : Msg := ⟨k, h.toNat, s.g.key.gid, s.g.parcel, stashBytes s s.g.core off n, false, none⟩
          .next (advance (countStash { s with msgs := s.msgs ++ [m] } (.amsg d a h l))))))

/-- The words of a reply that q3 of the target has room for are pushed (05, R150): what is left. -/
def pushQ3 (s : State) (k : GKey) (data : List Byte) : State × List Byte :=
  match getG s k with
  | none => (s, [])
  | some g =>
    let n := min (16 - g.q3.length) (data.length / 8)
    (setG s { g with q3 := g.q3 ++ (List.range n).map (fun i => BitVec.ofNat 64 (leNat ((data.drop (8 * i)).take 8))) },
      data.drop (8 * n))

/-- A reply goes on: its path waits until every word has been pushed. -/
def replyGoesOn (s : State) (i : Instr) (target : GKey) (data : List Byte) : Res :=
  let me := some (target, s.g.key, s.slot)
  let rest : State := { s with msgs := s.msgs.filter (fun m => m.reply != me) }
  let (s1, left) := pushQ3 rest target data
  if left = [] then .next (advance (countStash s1 i))
  else waitFor { s1 with msgs := s1.msgs ++ [⟨⟨0, 0⟩, 0, 0, 0, left, true, me⟩] } .message

/-- amsg with R: a handler's reply into q3 of the sender (05, R150). -/
def execAmsgReply (a l : BitVec 6) (s : State) : Res :=
  needS s [a]
    (match s.g.reply with
     | none => trapS s .qregBad
     | some target =>
       match s.msgs.find? (fun m => m.reply = some (target, s.g.key, s.slot)) with
       | some m => replyGoesOn s (.amsgReply a l) target m.data
       | none =>
         let off := (rs s a).toNat
         let n := 8 * l.toNat
         if 8 < l.toNat then trapS s .qBaddesc
         else if off % 8 != 0 then trapS s .align (stashWindow + off % 2 ^ 20)
         else if !inAllot s s.g off n then trapS s .stashRange (stashWindow + off % 2 ^ 20)
         else stashReady s off n false none (roomToIssue s .amsg 2#4
           (replyGoesOn s (.amsgReply a l) target (stashBytes s s.g.core off n))))

end Sys2Proof.Machine
end

