-- ==== Sys2Proof/Machine/Work.lean ====
section
/-!
DEFINITION. Launches, counter records and the work family (17, R325-R338).
-/

namespace Sys2Proof.Machine

/-! ## Counter records (17, R325-R326) -/

def recOf (s : State) (sheet lvl h : Nat) : CRec :=
  (s.recs.find? (fun r => r.sheet = sheet && r.lvl = lvl && r.h = h)).getD { sheet := sheet, lvl := lvl, h := h, can := false, out := 0, done := 0, zeroAt := 0 }

def setRec (s : State) (r : CRec) : State :=
  if s.recs.any (fun x => x.sheet = r.sheet && x.lvl = r.lvl && x.h = r.h) then
    { s with recs := s.recs.map (fun x => if x.sheet = r.sheet && x.lvl = r.lvl && x.h = r.h then r else x) }
  else { s with recs := s.recs ++ [r] }

/-- The counter word (17, R326). -/
def counterWord (r : CRec) : W64 := BitVec.ofNat 64 (b2n r.can * 2 ^ 63 + r.out % 2 ^ 24 * 2 ^ 32 + r.done % 2 ^ 32)

/-- The records that count a launch: (level, handle). -/
def recsOf (h : Nat) (d : Desc) : List (Nat × Nat) :=
  [(0, h)] ++ (if d.graph = 0 then [] else [(1, d.graph)]) ++ (if d.stage = 0 then [] else [(2, d.stage)]) ++ [(3, d.job)]

/-- A launch of a partition is counted in its records (17, R326). -/
def countUp (s : State) (pid : Nat) (l : List (Nat × Nat)) : State :=
  l.foldl (fun t k =>
    let r := recOf t (sheetOf pid) k.1 k.2
    setRec t { r with out := r.out + 1, pids := if r.pids.contains pid then r.pids else r.pids ++ [pid] }) s

def countDown (s : State) (sheet : Nat) (l : List (Nat × Nat)) : State :=
  l.foldl (fun t k =>
    let r := recOf t sheet k.1 k.2
    setRec t { r with out := r.out - 1, done := (r.done + 1) % 2 ^ 32, zeroAt := if r.out ≤ 1 then t.time else r.zeroAt }) s

/-! ## Descriptors (17, R327) -/

/-- `n` bytes of memory as loads of a group read them, or the fault and its address. -/
def readGen (s : State) (g : Group) (ga n : Nat) : Except (Cause × Bool × Nat) (List Byte) :=
  (pieces ga n).foldl (fun r (o, k) => match r with
    | .error e => .error e
    | .ok bs =>
      match locate s g (ga + o) k .read with
      | .error (c, stg) => .error (c, stg, ga + o)
      | .ok (.stash, off) => .ok (bs ++ stashBytes s g.core off k)
      | .ok (.dev _, a) =>
        match poisoned s a k with
        | some w => .error (.busErr, false, ga + o + (w - a))
        | none => .ok (bs ++ viewBytes s g.core a k)
      | .ok (_, a) => .ok (bs ++ (List.range k).map (fun i => Config.outsideByte s.free (a + i)))) (.ok [])

def depOf (b : List Byte) (off : Nat) : Option (Nat × Nat × Nat) :=
  if imgRead b (off + 5) 1 % 2 = 1 then some (imgRead b (off + 4) 1, imgRead b off 4, imgRead b (off + 8) 4) else none

/-- The fields of a descriptor. -/
def descOf (b : List Byte) : Desc :=
  let r : Nat → Nat → Nat := imgRead b
  { gx := r 0 4, gy := r 4 4, gz := r 8 4, gw := r 12 1, regs := r 13 1, prio := r 14 1, prod := r 15 1
    pex := r 16 2, pey := r 18 2, pez := r 20 2, bnd := BitVec.ofNat 16 (r 22 2), bmask := BitVec.ofNat 16 (r 24 2)
    cmask := BitVec.ofNat 16 (r 26 2), btab := (List.range 12).map (fun i => intOf true 16 (r (28 + 2 * i) 2))
    frame := r 52 4, entry := BitVec.ofNat 64 (r 56 8), lcode := BitVec.ofNat 64 (r 64 8)
    argp := BitVec.ofNat 64 (r 72 8), halo := (List.range 6).map (fun i => r (80 + 8 * i) 8), tile := r 128 1
    accs := r 129 1, hq := r 130 1, hcnt := r 131 1, stash := r 132 4, spill := r 136 4, dcnt := r 140 1
    htab := r 144 8, doors := r 152 8, back := r 160 8, bsize := r 168 8, start := r 176 8, graph := r 184 4
    stage := r 188 4, job := r 192 4, deps := (depOf b 200).toList ++ (depOf b 216).toList
    span := BitVec.ofNat 32 (r 232 4), lkey := BitVec.ofNat 32 (r 236 4), raw := b }

/-- Fields that must be zero, and the V and level fields of the dependences (17, R327-R328). -/
def descZeros (b : List Byte) : Bool :=
  let z : Nat → Nat → Bool := fun o n => imgRead b o n = 0
  z 240 16 && z 196 4 && z 141 3 && imgRead b 232 4 / 2 ^ 16 = 0 && imgRead b 22 2 / 2 ^ 9 = 0 && imgRead b 14 1 / 8 = 0
    && [200, 216].all (fun o => z (o + 12) 4 && z (o + 6) 2 && imgRead b (o + 5) 1 ≤ 1)

/-! ## Parcels (17, R329) -/

/-- The extents meet 17, R329: at most 2,048 cells a parcel, every group inside one parcel. -/
def extentsOk (d : Desc) : Bool :=
  1 ≤ d.pex && 1 ≤ d.pey && 1 ≤ d.pez &&
    min d.pex d.gx * min d.pey d.gy * min d.pez d.gz ≤ 2048 &&
    (List.range (groupCount d)).all (fun g => match cellsOfGroup d g with
      | [] => true
      | c :: cs => cs.all (fun x => parcelOfCell d x = parcelOfCell d c))

def withExt (d : Desc) (x y z : Nat) : Desc := { d with pex := x, pey := y, pez := z }

/-- The largest value of a range, from the top, whose extents meet the rule. -/
def largest (f : Nat → Desc) : Nat → Option Desc
  | 0 => none
  | n + 1 => if extentsOk (f (n + 1)) then some (f (n + 1)) else largest f n

/-- The extents of a launch (17, R329). -/
def chooseExtents (d : Desc) : Option Desc :=
  if d.pex != 0 || d.pey != 0 || d.pez != 0 then (if extentsOk d then some d else none)
  else if gridCells d ≤ 2048 then some (withExt d d.gx d.gy d.gz)
  else match largest (fun k => withExt d d.gx d.gy k) (min d.gz 2048) with
    | some e => some e
    | none => match largest (fun j => withExt d d.gx j 1) (min d.gy 2048) with
      | some e => some e
      | none => largest (fun i => withExt d i 1 1) (min d.gx 2048)

/-- The largest number of groups in a parcel. -/
def maxGroups (d : Desc) : Nat := ((List.range (parcelCount d)).map (fun p => (parcelGroups d p).length)).foldl max 0

/-- The group at position PROD, or the last (17, R329). -/
def producerOf (d : Desc) (p : Nat) : Nat :=
  let l := parcelGroups d p
  l.getD (min d.prod (l.length - 1)) 0

/-! ## The dispatcher's checks (17, R331) -/

/-- The local device range of the doors (16, R322), when it is one. -/
def doorBase (s : State) (pid core : Nat) (d : Desc) : Option Nat :=
  if (addrFault d.doors).isSome || inStashWindow d.doors then none
  else match xlate s core pid d.doors .read with
  | .error _ => none
  | .ok fa => match classify s pid fa with
    | .ok (.dev _, a) => if a + 16 * d.dcnt ≤ 0xC000000000 then some a else none
    | _ => none

/-- S0 of 16, R322: the initial `%stashbase` of parcel 0's producer group, from the allotment's base. -/
def doorStash (d : Desc) : Nat := d.hq * 512 + min d.prod ((parcelGroups d 0).length - 1) * d.frame

def doorsOk (s : State) (pid core : Nat) (d : Desc) : Bool :=
  d.dcnt = 0 || (d.doors % 4096 = 0 && d.doors < 2 ^ 56 && (doorBase s pid core d).isSome
    && doorStash d + 16 * d.dcnt ≤ d.stash)

/-- SPAN lies in the domain and names this package (17, R331, R333). -/
def spanOk (s : State) (d : Desc) : Bool :=
  d.span = 0#32 ||
    ((List.range (spanCols d * spanRows d)).all (fun q => inDomain s (spanPkg d q)) && (d.span.extractLsb' 0 4).toNat + spanCols d ≤ 16 && (d.span.extractLsb' 4 4).toNat + spanRows d ≤ 16
      && (List.range (spanCols d * spanRows d)).any (fun q => spanPkg d q = pkgNo s))

/-- Limits of the fields (17, R327-R330; 07, R183-R184). -/
def descLimits (d : Desc) : Bool :=
  let w := d.gw
  1 ≤ d.gx && 1 ≤ d.gy && 1 ≤ d.gz && gridCells d < 2 ^ 32 && (w = 4 || w = 8 || w = 16 || w = 32)
    && 8 ≤ d.regs && d.regs ≤ 128 && d.regs % 8 = 0
    && (d.bmask &&& 0x8001#16) = 0#16 && (d.cmask &&& 0x8001#16) = 0#16 && (d.cmask &&& ~~~d.bmask) = 0#16
    && [0, 1, 2].all (fun i => bndMode d i ≤ 4 && (bndMode d i != 3 ||
      (d.halo.getD (2 * i) 0 % 32 = 0 && d.halo.getD (2 * i + 1) 0 % 32 = 0)))
    && d.frame % 64 = 0 && d.entry.toNat % 4 = 0 && d.entry != 0#64 && d.htab % 16 = 0 && d.dcnt ≤ 64
    && d.spill % 64 = 0 && 4096 ≤ d.stash && d.stash ≤ 2 ^ 20 && d.stash % 4096 = 0 && d.hcnt ≤ 64 && d.hq ≤ 32
    && d.accs ≤ 8 && d.tile ≤ 64 && d.back % 4096 = 0 && d.bsize % 4096 = 0 && d.deps.all (fun x => x.1 ≤ 3)

def layoutOk (d : Desc) : Bool := d.hq * 512 + maxGroups d * d.frame + maxGroups d * d.spill ≤ d.stash

/-- The allowance of a parcel not yet placed (07, R198). -/
def loneAllowance (s : State) (pid : Nat) (d : Desc) : Nat := ownQuads s pid - d.hq

def demand (d : Desc) (p : Nat) : Nat := (parcelGroups d p).length * (d.gw / 4)

/-- The partition's parcels on a core, in the order that the remainder follows. -/
def parcelsOn (s : State) (pid core : Nat) : List Parcel := s.parcels.filter (fun p => p.pid = pid && p.core = core)

def hqOf (s : State) (p : Parcel) : Nat :=
  match launchOf s p.key.launch with
  | some l => l.d.hq
  | none => 0

def parcelBefore (a b : PKey) : Bool := a.launch < b.launch || (a.launch = b.launch && a.idx < b.idx)

/-- The allowance of each of `n` parcels that share a grant, by rank. -/
def shareOf (total n rank : Nat) : Nat := if n = 0 then 0 else total / n + (if rank < total % n then 1 else 0)

/-- Quads that parcels of a partition on a core hold back for handler groups. -/
def heldQuads (s : State) (ps : List Parcel) : Nat := (ps.map (hqOf s)).sum

/-- The equal share of a parcel of some on a core (18, R349). -/
def equalShare (s : State) (p : Parcel) : Nat :=
  let l := parcelsOn s p.pid p.core
  shareOf (ownQuads s p.pid - heldQuads s l) l.length (l.filter (fun q => parcelBefore q.key p.key)).length

/-- The launch's demand is met on every parcel (07, R198, R202). -/
def demandMet (s : State) (l : Launch) : Bool :=
  (s.parcels.filter (fun p => p.key.launch = l.handle)).all (fun p => demand l.d p.key.idx ≤ equalShare s p)

/-- A partition's QUADS counts, unless that would leave a pinned launch oversubscribed: then the change is put off till its end (07, R202;
18, R353). -/
def applyQuad (s : State) (p : Prt) : State :=
  let t := setPrt s { prtOf s p.pid with quadsIn := p.quads }
  if (s.launches.filter (fun l => l.pinned && l.st = .placed)).all (demandMet t) then t else s

/-- Changes of QUADS are made where they may be: those that raise it first. -/
def applyQuads (s : State) : State :=
  let ps := s.prts.filter (fun p => p.quads != p.quadsIn)
  (ps.filter (fun p => p.quadsIn < p.quads) ++ ps.filter (fun p => p.quads < p.quadsIn)).foldl applyQuad s

def oversubscribed (s : State) (pid : Nat) (d : Desc) : Bool :=
  (List.range (parcelCount d)).any (fun p => loneAllowance s pid d < demand d p)

/-- The current-view graph's edges from a cell (07, R202). -/
def curEdges (d : Desc) (c : Nat) : List Nat :=
  (List.range 15).filterMap (fun b => if d.cmask.getLsbD b then (match resolve d c b with
      | .cell n => some n
      | _ => none)
    else none)

/-- Takes away, again and again, the cells that read no remaining cell. -/
def peel (d : Desc) : Nat → List Nat → List Nat
  | 0, l => l
  | n + 1, l =>
    let l' := l.filter (fun c => (curEdges d c).any (fun x => l.contains x))
    if l'.length = l.length then l else peel d n l'

/-- The current-view graph has a cycle (07, R202). -/
def hasCycle (d : Desc) : Bool :=
  d.cmask != 0#16 && peel d (gridCells d) (List.range (gridCells d)) != []

/-- The margin need of a parcel: 128 bytes for each cell outside it that it reads (07, R193). -/
def marginNeed (d : Desc) (p : Nat) : Nat :=
  let cs := ((parcelGroups d p).map (cellsOfGroup d)).flatten
  let src := (cs.map (cellReads d)).flatten.foldl
    (fun l n => if parcelOfCell d n = p || l.contains n then l else l ++ [n]) []
  128 * src.length

/-- A core could hold one group of the launch (17, R331 item 3). -/
def roomAnywhere (s : State) (pid : Nat) (d : Desc) : Bool :=
  (List.range Config.cores).any (mayUse s pid) && d.gw / 4 ≤ loneAllowance s pid d

def cancelled (s : State) (sheet : Nat) (d : Desc) : Bool :=
  (recsOf 0 d).any (fun k => k.1 != 0 && (recOf s sheet k.1 k.2).can)

/-- FEAT_ACCEPT has been written, and the features that the descriptor uses are accepted (22, R414). -/
def featsOk (s : State) (pid : Nat) (d : Desc) : Bool :=
  featOn s pid 0 && (d.span = 0#32 || featOn s pid 1) && (d.dcnt = 0 || featOn s pid 7)

/-- The descriptor with its extents, or the cause of its refusal (17, R331). -/
def checkDesc (s : State) (pid core : Nat) (b : List Byte) : Except Cause Desc :=
  let d0 := descOf b
  if !descZeros b || !descLimits d0 || !featsOk s pid d0 then .error .launchBad
  else match chooseExtents d0 with
    | none => .error .launchBad
    | some d =>
      if !spanOk s d || !layoutOk d || !doorsOk s pid core d then .error .launchBad
      else if cancelled s (sheetOf pid) d then .error .workCancelled
      else if !roomAnywhere s pid d then .error .launchNoroom
      else if hasCycle d && oversubscribed s pid d then .error .nbCycle
      else if (List.range (parcelCount d)).any (fun p => 131072 < marginNeed d p) then .error .marginFull
      else .ok d

/-! ## Acceptance -/

def liveLaunches (s : State) (sheet : Nat) : Nat :=
  (s.launches.filter (fun l => sheetOf l.pid = sheet && l.st != .ended)).length

/-- The next launch handle of a sheet (17, R325). -/
def nextSeq (s : State) (sheet : Nat) : Nat := assocD 1 s.seqs sheet

/-- The doors exist from acceptance (16, R322); the same range named again is taken over. -/
def openDoors (s : State) (pid core handle : Nat) (d : Desc) : State :=
  match doorBase s pid core d with
  | some a => if d.dcnt = 0 then s
    else { s with doors := ⟨a, d.dcnt, handle, sheetOf pid, d.job, true⟩ :: s.doors.filter (fun x => x.base != a || x.count != d.dcnt) }
  | none => s

/-- A launch is accepted: its handle (17, R326, R331). -/
def accept (s : State) (pid core : Nat) (d : Desc) : State × Nat :=
  let sheet := sheetOf pid
  let q := nextSeq s sheet
  let h := q * 128 + sheet
  let l : Launch := { handle := h, pid := pid, d := d, st := .accepted, order := s.orders, can := false
                      pinned := hasCycle d, windows := 0#16, wgens := [], marks := [] }
  let s1 := { s with launches := s.launches ++ [l], orders := s.orders + 1
                     seqs := assocSet s.seqs sheet (if q = 2 ^ 25 - 1 then 1 else q + 1) }
  (openDoors (countUp s1 pid (recsOf h d)) pid core h d, h)

/-- Submits a descriptor's bytes: the new state and the handle, or the refusal. -/
def submit (s : State) (pid core : Nat) (b : List Byte) : Except Cause (State × Nat) :=
  match checkDesc s pid core b with
  | .error c => .error c
  | .ok d => .ok (accept s pid core d)

/-- What `launch` does once its stores are published: the descriptor is read as loads of the group, and submitted (17, R335). -/
def launchRead (s : State) (i : Instr) (d : SReg) (ga : Nat) : Res :=
  withLoads s i ga 256 (fun t b => match submit t t.g.pid t.g.core b with
    | .error c => .next (advance (ws t d (BitVec.ofNat 64 (2 ^ 63 + causeCode c))))
    | .ok (u, h) => .next (advance (ws u d (BitVec.ofNat 64 h))))

/-- launch (17, R335): it waits for room before its stores are published, and again once the descriptor has been read. -/
def execLaunch (d a : BitVec 6) (s : State) : Res :=
  needS s [d, a]
    (let ga := (rs s a).toNat
     if ga % 64 != 0 then trapS s .align ga
     else if (descOp s (.launch d a)).any (fun o => o.parts.all (fun q => q.st = .done && q.err.isNone))
       && 1024 ≤ liveLaunches s (sheetOf s.g.pid) then waitFor s .launchSlot
     else if (descOp s (.launch d a)).isSome then launchRead s (.launch d a) d ga
     else if 1024 ≤ liveLaunches s (sheetOf s.g.pid) then waitFor s .launchSlot
     else pubThen s (.launch d a) 5 (fun t => launchRead t (.launch d a) d ga))

/-- The record that an operand names in the group's sheet. -/
def namedRec (s : State) (a : SReg) (v : BitVec 2) : CRec :=
  recOf s (sheetOf s.g.pid) v.toNat ((rs s a).toNat % 2 ^ 32)

/-- waitw (17, R336). -/
def execWaitw (d a : BitVec 6) (v : BitVec 2) (s : State) : Res :=
  needS s [d, a]
    (let r := namedRec s a v
     if r.out != 0 then waitFor s (.record v.toNat r.h)
     else if loadsOut s then waitFor s .drain
     else .next (advance (ws (snapshotPoint s s.g 5) d (counterWord r))))

/-- wcount (17, R336). -/
def execWcount (d a : BitVec 6) (v : BitVec 2) (s : State) : Res :=
  needS s [d, a] (.next (advance (ws s d (counterWord (namedRec s a v)))))

/-! ## Submission from the host (17, R338) -/

/-- What the dispatcher of a host's submission reads with: no core's view (log 24). -/
def hostReader (pid : Nat) : Group := { Group.nobody with pid := pid, core := Config.cores }

/-- The dispatcher reads and checks what LREQ names; with 1,024 live launches it stays busy. -/
def serveLreq (s : State) (pid : Nat) : State :=
  let p := prtOf s pid
  let answer : State → Nat → State := fun t v => setPrt t { prtOf t pid with lres := BitVec.ofNat 64 v }
  if 1024 ≤ liveLaunches s (sheetOf pid) then answer s (2 ^ 62)
  else match readGen s (hostReader pid) p.lreq.toNat 256 with
    | .error (c, _, _) => answer s (2 ^ 63 + causeCode c)
    | .ok b => match submit s pid Config.cores b with
      | .error c => answer s (2 ^ 63 + causeCode c)
      | .ok (t, h) => answer t h

/-- Host submissions that waited for a launch of the sheet to end. -/
def wakeLreq (s : State) (sheet : Nat) : State :=
  ((s.prts.filter (fun p => sheetOf p.pid = sheet && p.lres.getLsbD 62)).map Prt.pid).foldl serveLreq s

/-! ## Ends and cancellation (17, R326, R337; 05, R156; 16, R322) -/

/-- Releases the group's queue bindings as `qunbind` does, one after the other (13, R282). -/
def releaseBinds (s : State) (g : Group) : Except QFail State :=
  [4, 5, 6, 7].foldl (fun r n => match r, bindOf g n with
    | .ok t, some b => ctxRelease t g b.desc n
    | r, _ => r) (.ok s)

/-- A group inside a step close completes it before it is removed (17, R341). -/
def finishClose (s : State) (k : GKey) : State :=
  match getG s k with
  | some g => if insideClose g then withFocus s k g.p1.occ (fun t => closeStep t) else s
  | none => s

/-- An operation of the group's own that has not retired. -/
def groupBusy (s : State) (k : GKey) : Bool :=
  s.ops.any (fun o => o.g = k && !o.returned && o.cls != .fetch && o.cls != .engine)

/-- What a group leaves behind it is complete: its accesses, then the stores of the parcel's dirty mapped words, where it is the producer,
then what the peers are told; or a state in which the next of these is on its way (06, R160; 17, R337; log 98). -/
def leaveStores (s : State) (g : Group) : Except State State :=
  if groupBusy s g.key then .error s
  else match dirtyParts s g (fun _ => true) with
    | p :: ps => .error (addNumbered (cleanWords s g (fun _ => true)) (ownStore g (p :: ps)))
    | [] => if awayAt s (fun a => a.g = g.key && a.win = none) = [] then .ok s else .error (tellAway s g [])

/-- A group that is removed goes: what it stored is published at fabric scope, and its bindings are released (13, R282; 17, R337). A
release that faults has no one left to tell. -/
def leaveStep (s : State) (g : Group) : Except State State :=
  match leaveStores s g with
  | .error t => .error t
  | .ok t => match releaseBinds t g with
    | .error (.held u) => .error u
    | .error _ => .ok (dropGroup (publishGroup t g.core g.key 5) g.key)
    | .ok u => .ok (dropGroup (publishGroup u g.core g.key 5) g.key)

/-- The keys of a launch's groups, handlers among them. -/
def launchGroups (s : State) (h : Nat) : List GKey :=
  ((groups s).filter (fun g => g.key.launch = h)).map (fun g => g.key)

/-- What is left of a launch on the package goes, its groups having gone before: parcels, windows, margins, doors become retired
ones. -/
def clearLaunch (s0 : State) (h : Nat) : State :=
  let s1 : State := match notes .discard (awayAt s0 (fun a => a.g.launch = h && a.win.isSome)) with
    | [] => s0
    | ps => addOp s0 { id := 0, g := ⟨h, 0⟩, slot := false, tag := 0, core := (s0.away.find? (fun a => a.g.launch = h)).elim 0 Away.core
                       cls := .store, instr := .nop, parts := ps }
  { s1 with
    away := s1.away.filter (fun a => a.g.launch != h)
    parcels := s1.parcels.filter (fun p => p.key.launch != h)
    spec := s1.spec.filter (fun t => t.launch != h)
    margin := s1.margin.filter (fun m => m.launch != h)
    mbuf := s1.mbuf.filter (fun m => m.launch != h)
    anns := s1.anns.filter (fun a => a.src.launch != h)
    msgs := s1.msgs.filter (fun m => m.p.launch != h)
    doors := s1.doors.map (fun x => if x.launch = h then { x with live := false } else x) }

/-- The mailbox of a sender is changed (22, R409). -/
def setBox (s : State) (snd : Sender) (f : Mbox → Mbox) : State :=
  match snd.who with
  | .fmLd => { s with svc := { s.svc with fm := f s.svc.fm } }
  | .ld pid => let p := prtOf s pid
    setPrt s { p with mbox := f p.mbox }
  | _ => { s with svc := { s.svc with mgmt := f s.svc.mgmt } }

/-- The mailbox of a sender (22, R409). -/
def boxOf (s : State) (snd : Sender) : Mbox :=
  match snd.who with
  | .fmLd => s.svc.fm
  | .ld pid => (prtOf s pid).mbox
  | _ => s.svc.mgmt

/-- Where a sender's request block stands: the host memory of its LD; the fabric manager's LD has a space of its own. A request on the
management port comes and is answered in a datagram (22, R409, R411). -/
def boxHost (snd : Sender) : Option Nat :=
  match snd.who with
  | .ld pid => some pid
  | .fmLd => some 1024
  | _ => none

/-- Bytes that the device writes into a host's memory. -/
def hostWrite (s : State) (pid a : Nat) (bs : List Byte) : State :=
  { s with hostOut := s.hostOut ++ (List.range bs.length).map (fun i => (hostKey pid (a + i), bs.getD i 0#8)) }

/-- Returned values go into the request block: RET at byte 16 of the header, and the bytes of the block (22, R409, R412). -/
def fillBlock (s : State) (snd : Sender) (res ret : Nat) (block : List Byte) : State :=
  match boxHost snd with
  | some pid => if 0xFFFE ≤ res then s else hostWrite (hostWrite s pid ((boxOf s snd).addr + 16) (leBytes 8 ret)) pid ((boxOf s snd).addr + 64) block
  | none => s

/-- The request is answered: RES, and before BUSY clears RET and the block are written (22, R409, R412). -/
def answer (s : State) (snd : Sender) (cmd res ret : Nat) (block : List Byte) : State :=
  setBox (fillBlock s snd res ret block) snd (fun m =>
    { m with go := BitVec.ofNat 64 cmd, stat := BitVec.ofNat 64 res, reply := leBytes 8 ret ++ block })

/-- BUSY of BMSTAT: the sender's request is in progress (22, R409). -/
def boxBusy (s : State) (snd : Sender) : Bool := (boxOf s snd).stat.getLsbD 63

/-- A request that is not answered at once: BUSY (22, R409). -/
def markBusy (s : State) (snd : Sender) (cmd : Nat) : State :=
  setBox s snd (fun m => { m with go := BitVec.ofNat 64 cmd, stat := 0x8000000000000000#64 })

/-- The live launches of a job (17, R325). -/
def jobLaunches (s : State) (sheet job : Nat) : List Launch :=
  s.launches.filter (fun l => sheetOf l.pid = sheet && l.d.job = job && l.st != .ended)

/-- The job's record goes, and its retired doors become ordinary memory (17, R326; 16, R322). -/
def dropJob (s : State) (sheet job : Nat) : State :=
  { s with recs := s.recs.filter (fun r => !(r.sheet = sheet && r.lvl = 3 && r.h = job))
           doors := s.doors.filter (fun d => d.live || d.sheet != sheet || d.job != job)
           svc := { s.svc with logs := s.svc.logs.filter (fun l => l.job != job) } }

/-- The jobs that end and have no launch left go, and their END_JOB is answered (18, R347). -/
def endJobs (s : State) : State :=
  let due : Option Sender × Nat × Nat → Bool := fun e => (jobLaunches s e.2.1 e.2.2).isEmpty
  (s.svc.ending.filter due).foldl (fun t e => match e.1 with
    | some snd => answer (dropJob t e.2.1 e.2.2) snd 0x09 0 0 []
    | none => dropJob t e.2.1 e.2.2) { s with svc := { s.svc with ending := s.svc.ending.filter (fun e => !due e) } }

/-- A launch ends: OUT falls and DONE rises in the same act (17, R326). -/
def endLaunch (s : State) (h : Nat) : State :=
  match launchOf s h with
  | none => s
  | some l =>
    let s1 := countDown (clearLaunch s h) (sheetOf l.pid) (recsOf h l.d)
    endJobs (wakeLreq (applyQuads { s1 with launches := s1.launches.filter (fun x => x.handle != h) }) (sheetOf l.pid))

/-- The groups of a launch that is over go, each once nothing of it is outstanding; with the last one the launch ends (17, R326, R337). -/
def leaveLaunch (s : State) (h : Nat) : State :=
  let t := (launchGroups s h).foldl (fun t k => match getG t k with
    | some g => (match leaveStep t g with
      | .ok u => u
      | .error u => u)
    | none => t) s
  if launchGroups t h = [] then endLaunch t h else t

/-- A group is stopped for good: it waits for nothing but the accesses that it has outstanding. Of an instruction that waits to issue
nothing is left (17, R337). -/
def beginLeave (s : State) (k : GKey) : State :=
  let t := forgetWaits (finishClose s k) k
  let off : Path → Path := fun p => { p with cq := [], wait := none }
  updG { t with ops := t.ops.filter (fun o => !(o.g = k && (o.cls = .halo || o.cls = .sfu || (o.cls = .tkred && !o.begun)))) } k
    (fun g => { g with stop := .leaving, replay := [], p0 := off g.p0, p1 := off g.p1 })

/-- A placed launch is removed: its groups stop, the streamer's work and the messages go (17, R337). -/
def removeLaunch (s : State) (l : Launch) : State :=
  let t := (launchGroups s l.handle).foldl beginLeave s
  leaveLaunch (setLaunch { t with
    ops := t.ops.filter (fun o => !(o.cls = .engine && o.g.launch = l.handle))
    msgs := t.msgs.filter (fun m => m.p.launch != l.handle)
    parcels := t.parcels.map (fun p => if p.key.launch = l.handle then
      { p with cmds := [], started := [], partial_ := [], mfill := [] } else p) } { l with st := .leaving }) l.handle

/-- The launches that a record counts. -/
def launchesIn (s : State) (sheet lvl h : Nat) : List Launch :=
  s.launches.filter (fun l => sheetOf l.pid = sheet && (recsOf l.handle l.d).contains (lvl, h))

/-- A checkpoint that has not committed ends with a result of 20, R380: its holds and its pending blocks go. -/
def endCkpt (s : State) (c : Ckpt) (res ret : Nat) : State :=
  answer { s with svc := { s.svc with ckpts := s.svc.ckpts.filter (fun x => !(x.sheet = c.sheet && x.job = c.job)) } }
    c.snd 0x20 res ret []

/-- The keeper's cells that stand for mirrors hold the counter of before the checkpoint again (20, R380). -/
def backCtr (s : State) (c : Ckpt) : State :=
  if c.stage != 3 then s
  else { s with svc := { s.svc with ctrs := s.svc.ctrs.map (fun k =>
    if k.sheet = c.sheet && k.job = c.job then { k with cells := k.cells.map (fun _ => c.ctr - 1) } else k) } }

/-- The checkpoints that satisfy `p` are abandoned with FAILED, and the counter is as it was (20, R380, R390). -/
def failCkpts (s : State) (p : Ckpt → Bool) : State :=
  (s.svc.ckpts.filter p).foldl (fun t c => endCkpt (backCtr t c) c 6 0) s

/-- Sets CAN in a record. -/
def setCan (s : State) (sheet lvl h : Nat) : State :=
  let r := recOf s sheet lvl h
  setRec s { r with can := true, zeroAt := if r.out = 0 && r.done = 0 then s.time else r.zeroAt }

/-- CAN in the named record and in the records below it of every launch it counts; then the work goes (17, R337). A job's
checkpoint that has not committed fails (20, R390). -/
def cancelRec (s : State) (sheet lvl h : Nat) : State :=
  let ls := launchesIn s sheet lvl h
  let s0 := if lvl = 3 then failCkpts s (fun c => c.sheet = sheet && c.job = h) else s
  let s1 := setCan s0 sheet lvl h
  let s2 := ls.foldl (fun t l => (recsOf l.handle l.d).foldl (fun u k =>
    if k.1 < lvl then setCan u sheet k.1 k.2 else u) t) s1
  ls.foldl (fun t l => if l.st = .placed then removeLaunch t l else if l.st = .leaving then t else endLaunch t l.handle) s2

/-- The work of a job is cancelled, and its record goes with its last launch (18, R347); `snd` is answered then. -/
def endJob (s : State) (snd : Option Sender) (sheet job : Nat) : State :=
  let t := cancelRec s sheet 3 job
  let u := match snd with
    | some x => if (jobLaunches t sheet job).isEmpty then t else markBusy t x 0x09
    | none => t
  endJobs { u with svc := { u.svc with ending := u.svc.ending ++ [(snd, sheet, job)] } }

/-- cancel (17, R337): one that removes its own group does not return. -/
def execCancel (a : BitVec 6) (v : BitVec 2) (s : State) : Res :=
  needS s [a] (.next (cancelRec (advance s) (sheetOf s.g.pid) v.toNat ((rs s a).toNat % 2 ^ 32)))

end Sys2Proof.Machine
end

