-- ==== Sys2Proof/Machine/FabFam.lean ====
section
/-!
DEFINITION. Remote stores with acknowledgement and collective reductions (14, R307-R321).
-/

namespace Sys2Proof.Machine

/-! ## rsta (14, R307-R308) -/

/-- The segments of a destination, one per 256-byte granule: (offset, bytes). -/
def segsFrom (ga : Nat) : Nat → Nat → Nat → List (Nat × Nat)
  | 0, _, _ => []
  | fuel + 1, o, n =>
    if n ≤ o then []
    else
      let k := min (n - o) (256 - (ga + o) % 256)
      (o, k) :: segsFrom ga fuel (o + k) n

def segs (ga n : Nat) : List (Nat × Nat) := segsFrom ga 18 0 n

/-- Where a segment goes: device memory, local or peer, doors included (14, R308; 16, R323). -/
def segKind (s : State) (g : Group) (ga : Nat) : Except (Cause × Bool) (PKind × Nat) :=
  match addrFault ga with
  | some c => .error (c, false)
  | none =>
    match xlate s g.core g.pid ga .write with
    | .error e => .error e
    | .ok fa =>
      match classify s g.pid fa with
      | .ok (.host _, _) => .error (.busErr, false)
      | r => r

def segParts (s : State) (g : Group) (soff ga : Nat) : List (Nat × Nat) → Except (Cause × Bool × Nat) (List Part)
  | [] => .ok []
  | (o, k) :: r =>
    match segKind s g (ga + o) with
    | .error (c, stg) => .error (c, stg, ga + o)
    | .ok (kind, fa) =>
      match segParts s g soff ga r with
      | .error e => .error e
      | .ok ps => .ok ({ ga := ga + o, fa := fa, size := k, kind := kind, wr := true
                         data := stashRead s g.core (soff + o) k } :: ps)

/-- The fault of translation that the destination meets first: every page is translated before any is found to be no device
memory (14, R308). -/
def segXlate (s : State) (g : Group) (ga : Nat) : List (Nat × Nat) → Option (Cause × Bool × Nat)
  | [] => none
  | (o, _) :: r =>
    match addrFault (ga + o) with
    | some c => some (c, false, ga + o)
    | none =>
      match xlate s g.core g.pid (ga + o) .write with
      | .error (c, stg) => some (c, stg, ga + o)
      | .ok _ => segXlate s g ga r

/-- rsta (14, R307-R308). `vals` keeps the barrier's offset, ARV and the time of issue. -/
def execRsta (d a : BitVec 6) (l : BitVec 8) (s : State) : Res :=
  gated s 1 <| needS s [d, a]
    (let c := rs s a
     let ga := (rs s d).toNat
     let n := 16 * (l.toNat + 1)
     let soff := c.toNat % 2 ^ 20
     let bar := 16 * (c.toNat / 2 ^ 20 % 2 ^ 16)
     watched s [(0, .read, stashWindow + soff, n), (0, .write, ga, n)] false
      (if c.toNat / 2 ^ 37 != 0 then trapS s .qBaddesc
       else if soff % 16 != 0 || ga % 16 != 0 then trapS s .align ga
       else if !inAllot s s.g soff n || !inAllot s s.g bar 16 then trapS s .stashRange (stashWindow + soff)
       else if whereIs' ga n then trapS s .prot ga
       else match segXlate s s.g ga (segs ga n), segParts s s.g soff ga (segs ga n) with
        | some (e, stg, x), _ => trapAcc s (e, stg) .write x
        | none, .error (e, stg, x) => trapAcc s (e, stg) .write x
        | none, .ok ps =>
          roomToIssue s .rsta 4#4
            (stashReady s soff n false none
              (.next (advance (issueRsta (.rsta d a l) ps bar (c.getLsbD 36)))))))
where
  whereIs' (ga n : Nat) : Bool := ga < stashWindow + 2 ^ 20 && stashWindow < ga + n
  issueRsta (i : Instr) (ps : List Part) (bar : Nat) (arv : Bool) : State :=
    let s1 := issue s { id := 0, g := s.g.key, slot := s.slot, tag := 0, cls := .rsta, instr := i, pc := (cur s).pc.toNat
                        mask := (cur s).mask, parts := ps, vals := [[bar, b2n arv, s.time]] }
    { s1 with ops := s1.ops.map (fun o => if o.id = s.nextId then { o with paths := 4#4 } else o) }

/-! ## Reduction descriptors (14, R311-R312) -/

structure RDesc where
  parts : BitVec 256
  cid : Nat
  op : Nat
  ty : Nat
  timeout : Nat
  handle : W32
  rsvOk : Bool
  deriving DecidableEq, Repr

def rdescOf (b : List Byte) : RDesc :=
  { parts := BitVec.ofNat 256 (imgRead b 0 32), cid := imgRead b 32 4, op := imgRead b 37 1, ty := imgRead b 38 1
    timeout := imgRead b 40 4, handle := BitVec.ofNat 32 (imgRead b 80 4)
    rsvOk := imgRead b 36 1 = 0 && imgRead b 39 1 = 0 && imgRead b 44 36 = 0 }

/-- OP and TYPE go together (14, R312). -/
def redOpOk (op ty : Nat) : Bool :=
  if ty ≤ 1 then op = 0 || (6 ≤ op && op ≤ 9) else 8 ≤ ty && ty ≤ 11 && op ≤ 5

def partNums (p : BitVec 256) : List Nat := (List.range 256).filter (fun i => p.getLsbD i)

/-- The root: the participant with the lowest number (14, R313). -/
def rootOf (p : BitVec 256) : Nat := (partNums p).headD 0

/-! HANDLE (14, R311). -/

def hRoot (h : W32) : Nat := (h.extractLsb' 24 8).toNat
def hV (h : W32) : Bool := h.getLsbD 23
def hSlot (h : W32) : Nat := (h.extractLsb' 8 6).toNat
def hGen (h : W32) : Nat := (h.extractLsb' 0 8).toNat
def mkHandle (root slot gen : Nat) : W32 := BitVec.ofNat 32 (root * 2 ^ 24 + 2 ^ 23 + slot * 2 ^ 8 + gen)

/-- Writes into the descriptor as an ordinary store of the focused group, counted on its address's path, and goes on; `s'` is the state
without the answer (14, R315). -/
def descStore (s s' : State) (i : Instr) (ga : Nat) (bs : List Byte) (k : State → Res) : Res :=
  match locate s s.g ga bs.length .write with
  | .error (c, stg) => trapAcc s' (c, stg) .write ga
  | .ok (kind, fa) =>
    let part : Part := { ga := ga, fa := fa, size := bs.length, kind := kind, wr := true, data := leNat bs }
    let o : Op := { id := 0, g := s.g.key, slot := s.slot, tag := 0, cls := .store, instr := i }
    roomToIssue s .store (pathOfKind kind)
      (if kind = .stash then
         stashReady s fa bs.length true none (k (issue (stashStore s' s'.g fa bs) { o with parts := [{ part with st := .done }] }))
       else k (issue s' { o with parts := [part] }))

/-- The request of a path that waits for a root's answer. -/
def myReq (s : State) (kind : Nat) : Option RReq :=
  s.net.rreqs.find? (fun r => r.g = some (s.g.key, (cur s).tag) && r.kind = kind)

def dropReq (s : State) : State :=
  { s with net := { s.net with rreqs := s.net.rreqs.filter (fun r => r.g != some (s.g.key, (cur s).tag)) } }

/-- The bytes of a reduction request and of its answer between packages (log 19). -/
def reqBytes (r : RReq) : List Byte :=
  leBytes 1 r.kind ++ leBytes 4 r.job ++ leBytes 4 r.cid ++ leBytes 32 r.parts.toNat ++ leBytes 1 r.op ++ leBytes 1 r.ty
    ++ leBytes 4 r.timeout ++ leBytes 1 r.slot ++ leBytes 1 r.gen ++ leBytes 8 r.val

def reqOfBytes (p : Packet) (root : Nat) : RReq :=
  let r : Nat → Nat → Nat := imgRead p.data
  { kind := r 0 1, pkg := p.spkg, tag := p.tag + 4096 * p.die, tgen := p.gen, root := root, job := r 1 4, cid := r 5 4
    parts := BitVec.ofNat 256 (r 9 32), op := r 41 1, ty := r 42 1, timeout := r 43 4, slot := r 47 1, gen := r 48 1
    val := r 49 8 }

/-- The descriptor of a reduction instruction, read as loads of the group (14, R315). -/
def withDesc (s : State) (i : Instr) (a : SReg) (n off : Nat) (k : State → List Byte → Res) : Res :=
  let ga := (rs s a).toNat
  if ga % 128 != 0 then trapS s .align ga
  else withLoads s i (ga + off) n k

/-- Hands a request to its root and waits for the answer: to this package's router, or as a packet with a tag, for which it stalls in
`s`; a root that is not UP refuses it (14, R300, R304-R305, R313). -/
def request (s t : State) (r : RReq) : Res :=
  if r.root = pkgNo s then waitFor { t with net := { t.net with rreqs := t.net.rreqs ++ [r] } } .reduction
  else
    let die := dieOfCore s.g.core
    match freeTag t die with
    | none => waitFor s .room
    | some n =>
      let tg := tagOfDie t die n
      if !peerUp t r.root then trapS (endTag t tg false) .fabUnreach
      else
        let s1 := setTag t { tg with st := 1, op := 0, part := 0, peer := r.root, since := s.time }
        let s2 := enterRouter s1 { mkPacket t 10 r.root 0 0 0 (reqBytes r) with tag := n, gen := tg.gen, die := die }
        waitFor { s2 with net := { s2.net with rreqs := s2.net.rreqs ++ [{ r with tag := n + 4096 * die, tgen := tg.gen }] } } .reduction

/-- fralloc (14, R316). -/
def execFralloc (d a : BitVec 6) (s : State) : Res :=
  gated s 1 <| needS s [d, a]
    (match myReq s 0 with
     | some r =>
       match r.ans with
       | some (.handle h) =>
         let v := mkHandle r.root (h / 256) (h % 256)
         descStore s (dropReq s) (.fralloc d a) ((rs s a).toNat + 80) (leBytes 4 v.toNat)
           (fun s1 => .next (advance (ws s1 d (v.zeroExtend 64))))
       | some (.refused c) => trapS (dropReq s) c
       | some _ => trapS (dropReq s) .qBaddesc
       | none => waitFor s .reduction
     | none =>
       withDesc s (.fralloc d a) a 128 0 (fun t b =>
        let r := rdescOf b
        if !r.rsvOk || !redOpOk r.op r.ty || r.timeout = 0 || 1000000 < r.timeout || !r.parts.getLsbD (pkgNo s) then
          trapS t .qBaddesc
        else if (partNums r.parts).any (fun n => !peerUp s n) then trapS t .fabUnreach
        else request s t { kind := 0, pkg := pkgNo s, g := some (s.g.key, (cur s).tag), root := rootOf r.parts
                           job := s.g.d.job, cid := r.cid, parts := r.parts, op := r.op, ty := r.ty, timeout := r.timeout }))

/-- frcontrib, with and without Q (14, R316). -/
def contribute (s : State) (i : Instr) (d a : SReg) (t : Option SReg) : Res :=
  gated s 1 <| needS s (d :: a :: t.toList)
    (let status : Nat → State → State := fun v s' => match t with
       | some r => ws s' r (BitVec.ofNat 64 v)
       | none => s'
     match myReq s 1 with
     | some r =>
       match r.ans with
       | some .taken => .next (advance (status 0 (dropReq s)))
       | some .late => if t.isSome then .next (advance (status 1 (dropReq s))) else trapS (dropReq s) .fredClosed
       | some (.refused c) => trapS (dropReq s) c
       | some _ => trapS (dropReq s) .qBaddesc
       | none => waitFor s .reduction
     | none =>
       withDesc s i a 4 80 (fun u b =>
        let h : W32 := BitVec.ofNat 32 (leNat b)
        if !hV h then trapS u .qBaddesc
        else request s u { kind := 1, pkg := pkgNo s, g := some (s.g.key, (cur s).tag), root := hRoot h, slot := hSlot h
                           gen := hGen h, val := (rs s d).toNat }))

/-- frcontrib (14, R316). -/
def execFrcontrib (d a : BitVec 6) (s : State) : Res := contribute s (.frcontrib d a) d a none

/-- frcontrib.q (14, R316). -/
def execFrcontribQ (d a t : BitVec 6) (s : State) : Res := contribute s (.frcontribQ d a t) d a (some t)

/-- frwait (14, R316, R318): s[st] is written after sd. -/
def execFrwait (d a t : BitVec 6) (s : State) : Res :=
  gated s 1 <| needS s [d, a, t]
    (match myReq s 2 with
     | some r =>
       match r.ans with
       | some (.result v st m) =>
         descStore s (dropReq s) (.frwait d a t) ((rs s a).toNat + 84) (leBytes 4 st ++ leBytes 8 v ++ leBytes 32 m.toNat)
           (fun s1 => .next (advance (ws (ws s1 d (BitVec.ofNat 64 v)) t (BitVec.ofNat 64 st))))
       | some (.refused c) => trapS (dropReq s) c
       | some _ => trapS (dropReq s) .qBaddesc
       | none => waitFor s .reduction
     | none =>
       withDesc s (.frwait d a t) a 4 80 (fun u b =>
        let h : W32 := BitVec.ofNat 32 (leNat b)
        if !hV h then trapS u .qBaddesc
        else request s u { kind := 2, pkg := pkgNo s, g := some (s.g.key, (cur s).tag), root := hRoot h, slot := hSlot h
                           gen := hGen h }))

/-! ## The root's slots (14, R313-R314, R320) -/

def redHash (job cid : Nat) : Nat :=
  (((BitVec.ofNat 32 job ^^^ BitVec.ofNat 32 cid) * 0x9E3779B1#32) >>> 26).toNat

def slotAt (s : State) (i : Nat) : RSlot := s.net.slots.getD i {}

def setSlot (s : State) (i : Nat) (r : RSlot) : State := { s with net := { s.net with slots := s.net.slots.set i r } }

/-- The slot that holds the key, or the first free one of the probe (14, R313, R320). -/
def findSlot (s : State) (job cid : Nat) : Option Nat :=
  match (List.range 64).find? (fun i => (slotAt s i).st != 0 && (slotAt s i).job = job && (slotAt s i).cid = cid) with
  | some i => some i
  | none => ((List.range 64).map (fun i => (redHash job cid + i) % 64)).find? (fun i => (slotAt s i).st = 0)

/-- `fralloc` at the root. -/
def rootAlloc (s : State) (r : RReq) : State × RAns :=
  match findSlot s (r.job % 2 ^ 32) r.cid with
  | none => (s, .refused .fredNoslot)
  | some i =>
    let e := slotAt s i
    if e.st = 0 then
      (setSlot s i { e with st := 1, job := r.job % 2 ^ 32, cid := r.cid, parts := r.parts, op := r.op, ty := r.ty
                            timeout := r.timeout, deadline := s.time + 1000 * r.timeout, vals := [], waited := [] },
        .handle (256 * i + e.gen))
    else if e.parts != r.parts || e.op != r.op || e.ty != r.ty || e.timeout != r.timeout then (s, .refused .qBaddesc)
    else (s, .handle (256 * i + e.gen))

/-- `frcontrib` at the root. -/
def rootContrib (s : State) (r : RReq) : State × RAns :=
  let e := slotAt s r.slot
  if e.st != 0 && e.gen = r.gen && !e.parts.getLsbD r.pkg then (s, .refused .qBaddesc)
  else if e.st != 1 || e.gen != r.gen || e.vals.any (fun v => v.1 = r.pkg) then (s, .late)
  else
    let vs := e.vals ++ [(r.pkg, r.val)]
    let full := (partNums e.parts).all (fun n => vs.any (fun v => v.1 = n))
    (setSlot s r.slot { e with vals := vs, st := if full then 2 else 1
                               deadline := if full then s.time + 1000 * e.timeout else e.deadline }, .taken)

def redFmt (ty : Nat) : Fmt := if ty = 0 then fmtF64 else fmtF32

/-- The result of a list of contributions (14, R312). -/
def redResult (op ty : Nat) (vs : List Nat) : Nat :=
  let w := if ty = 0 || ty = 10 || ty = 11 then 64 else 32
  let us := vs.map (fun v => v % 2 ^ w)
  let sg := ty = 8 || ty = 10
  if ty ≤ 1 then
    let f := redFmt ty
    let xs := us.map (fmtRead f false)
    let nums := xs.filter (fun x => !xisNan x)
    let pick : (XVal → XVal → Bool) → List XVal → XVal := fun lt l => match l with
      | [] => .nan false
      | y :: ys => ys.foldl (fun m x => if lt x m then x else m) y
    let r : XVal :=
      match op with
      | 0 => (match xs with
        | [] => xzero false
        | y :: ys => ys.foldl (fun m x => xadd false m x) y)
      | 6 => if nums.length != xs.length then .nan false else pick xless xs
      | 7 => if nums.length != xs.length then .nan false else pick (fun a b => xless b a) xs
      | 8 => pick xless nums
      | _ => pick (fun a b => xless b a) nums
    if vs = [] then 0 else (roundTo f .ne false false 0 r).1
  else match us with
    | [] => 0
    | y :: ys =>
      match op with
      | 0 => us.foldl (fun m x => m + x) 0 % 2 ^ w
      | 1 => ys.foldl (fun m x => if intOf sg w x < intOf sg w m then x else m) y
      | 2 => ys.foldl (fun m x => if intOf sg w m < intOf sg w x then x else m) y
      | 3 => ys.foldl (fun m x => m &&& x) y
      | 4 => ys.foldl (fun m x => m ||| x) y
      | _ => ys.foldl (fun m x => m ^^^ x) y

/-- STATUS (14, R316). -/
def redStatus (e : RSlot) : Nat :=
  let nan := e.ty ≤ 1 && e.vals.any (fun v => xisNan (fmtRead (redFmt e.ty) false (v.2 % 2 ^ fmtWidth (redFmt e.ty))))
  e.vals.length * 2 ^ 16 + 2 * b2n nan
    + b2n ((partNums e.parts).any (fun n => !e.vals.any (fun v => v.1 = n)))

/-- `frwait` at the root: none while the slot is OPEN. -/
def rootWait (s : State) (r : RReq) : Option (State × RAns) :=
  let e := slotAt s r.slot
  if e.st = 0 || e.gen != r.gen then some (s, .result 0 4 0#256)
  else if e.st = 1 then none
  else
    let m := (partNums e.parts).foldl (fun m n =>
      if e.vals.any (fun v => v.1 = n) then m else m ||| (1#256 <<< n)) 0#256
    let w := if e.waited.contains r.pkg then e.waited else e.waited ++ [r.pkg]
    let all_ := e.vals != [] && e.vals.all (fun v => w.contains v.1)
    let e' := if all_ then { gen := (e.gen + 1) % 256 } else { e with waited := w }
    some (setSlot s r.slot e', .result (redResult e.op e.ty (e.vals.map (·.2))) (redStatus e) m)

end Sys2Proof.Machine
end

