-- ==== Sys2Proof/Machine/Branch.lean ====
section
/-!
DEFINITION. Branches and jumps (03, R65-R67), a transfer to address 0 ending the group (09, R237).
-/

namespace Sys2Proof.Machine

/-- The focused group is reconverged: one occupied slot, an empty spill stack (09, R237). -/
def reconverged (s : State) : Bool := !(pathOf s.g (!s.slot)).occ && s.g.spillCnt = 0

/-- The path transfers control; to address 0 only when the group is reconverged, else nothing changes (09, R237). -/
def transfer (s s' : State) (t : W64) : Res :=
  if t = 0#64 && !reconverged s then trapS s .stepDiv else .next (goTo s' t)

/-- The target of an offset in words (01, R10). -/
def target {n : Nat} (s : State) (o : BitVec n) : W64 := (cur s).pc + (o.signExtend 64 <<< 2)

/-- A conditional branch (03, R65). -/
def branch (s : State) (c a : SReg) (o : BitVec 14) (p : W64 → W64 → Bool) : Res :=
  needS s [c, a] (if p (rs s c) (rs s a) then transfer s s (target s o) else .next (advance s))

/-- beq (03, R65). -/
def execBeq (c a : BitVec 6) (o : BitVec 14) (s : State) : Res := branch s c a o (fun x y => x == y)

/-- bne (03, R65). -/
def execBne (c a : BitVec 6) (o : BitVec 14) (s : State) : Res := branch s c a o (fun x y => x != y)

/-- blt (03, R65). -/
def execBlt (c a : BitVec 6) (o : BitVec 14) (s : State) : Res := branch s c a o (fun x y => x.slt y)

/-- bge (03, R65). -/
def execBge (c a : BitVec 6) (o : BitVec 14) (s : State) : Res := branch s c a o (fun x y => !(x.slt y))

/-- bltu (03, R65). -/
def execBltu (c a : BitVec 6) (o : BitVec 14) (s : State) : Res := branch s c a o (fun x y => x.ult y)

/-- bgeu (03, R65). -/
def execBgeu (c a : BitVec 6) (o : BitVec 14) (s : State) : Res := branch s c a o (fun x y => !(x.ult y))

/-- jmp (03, R66). -/
def execJmp (o : BitVec 26) (s : State) : Res := transfer s s (target s o)

/-- call (03, R66). -/
def execCall (o : BitVec 26) (s : State) : Res :=
  needS s [62#6] (transfer s (ws s 62#6 ((cur s).pc + 4#64)) (target s o))

/-- jmpr: the source is read before the link is written (03, R67). -/
def execJmpr (d a : BitVec 6) (s : State) : Res :=
  needS s [d, a]
    (let t := rs s a
     if t.extractLsb' 0 2 != 0#2 then trapS s .align t.toNat else transfer s (ws s d ((cur s).pc + 4#64)) t)

end Sys2Proof.Machine
end

