-- ==== Sys2Proof/Machine/Path.lean ====
section
/-!
DEFINITION. Divergence, predicates read by the scalar stream, clauses enqueued (03, R68-R75).
-/

namespace Sys2Proof.Machine

/-- The predicate's bits of the lanes of the path's active mask (03, R68, R73). -/
def predMask (s : State) (k : BitVec 3) (inv : BitVec 1) : W32 :=
  let b := s.g.k.getD k.toNat 0#32
  (if inv = 1#1 then ~~~b else b) &&& (cur s).mask

/-- `split` and the pred family wait until every clause the path enqueued has issued and no write to the predicate is
pending (03, R68). -/
def needPred (s : State) (k : BitVec 3) (r : Res) : Res :=
  if !clausesIssued (cur s) || pendingReg s (0x88 + k.toNat) then waitFor s .earlier else r

/-- Entries that the spill stack holds at most: the descriptor's SPILL divided by 64 (03, R69). -/
def spillCap (g : Group) : Nat := if g.handler.isSome then 0 else g.d.spill / 64

/-- The path that a mixed `split` makes (03, R68); it takes a name of its own for 02, R47. -/
def splitPath (s : State) (t : W64) (p : W32) : Path :=
  { cur s with occ := true, pc := t, mask := p, depth := (cur s).depth + 1, waiting := false, rot := 0, scnt := 0
               cq := [], wait := none, exempt := false, tag := s.nextId }

/-- The mixed case: the other slot is free. -/
def splitInto (s : State) (t : W64) (p : W32) : State :=
  let g1 := setPath s.g (!s.slot) (splitPath s t p)
  let s1 := { s with g := g1, nextId := s.nextId + 1 }
  advance (setCur s1 { cur s1 with depth := (cur s).depth + 1, mask := (cur s).mask &&& ~~~p })

/-- split (03, R68; 09, R237). -/
def execSplit (k : BitVec 3) (i : BitVec 1) (o : BitVec 14) (s : State) : Res :=
  needPred s k
    (let c := cur s
     let p := predMask s k i
     let t := c.pc + (o.signExtend 64 <<< 2)
     if c.depth = 255 then trapS s .divStack
     else if t = 0#64 && p != 0#32 then trapS s .stepDiv
     else if p = 0#32 then .next (advance (setCur s { c with depth := c.depth + 1 }))
     else if p = c.mask then .next (goTo (setCur s { c with depth := c.depth + 1 }) t)
     else if (pathOf s.g (!s.slot)).occ then
       if !clausesIssued (pathOf s.g (!s.slot)) then waitFor s .otherPath
       else if spillCap s.g ≤ s.g.spillCnt then trapS s .divStack
       else .next (splitInto (spillPush s (pathOf s.g (!s.slot))) t p)
     else .next (splitInto s t p))

/-- The path meets a waiting path at its address and depth (03, R70). -/
def meets (c w : Path) : Bool := w.waiting && w.pc = c.pc && w.depth = c.depth

/-- Some other path of the group has at least the depth (03, R70). -/
def otherDeep (s : State) (d : Nat) : Bool :=
  let o := pathOf s.g (!s.slot)
  (o.occ && d ≤ o.depth) || (spillPaths s s.g).any (fun p => d ≤ p.depth)

/-- The slot's path is taken away. -/
def freeSlot (g : Group) (slot : Bool) : Group :=
  setPath g slot { pathOf g slot with occ := false, mask := 0#32, depth := 0, waiting := false, rot := 0, scnt := 0
                                      cq := [], wait := none, exempt := false, tag := 0 }

/-- A path passes its `join`: one depth lower. -/
def passJoin (s : State) (m : W32) : State :=
  advance (setCur s { cur s with mask := m, depth := (cur s).depth - 1, waiting := false })

/-- join (03, R70). -/
def execJoin (s : State) : Res :=
  let c := cur s
  let w := pathOf s.g (!s.slot)
  if !clausesIssued c then waitFor s .earlier
  else if c.depth = 0 then .next (advance s)
  else if w.occ && meets c w then
    .next (passJoin { s with g := freeSlot s.g (!s.slot) } (c.mask ||| w.mask))
  else match indexWhere (meets c) (spillPaths s s.g) with
    | some i => .next (passJoin (spillRemove s i) (c.mask ||| (spillPath s s.g i).mask))
    | none =>
      if otherDeep s c.depth then .next (setCur s { c with waiting := true, wait := some .join })
      else .next (passJoin s c.mask)

/-- The pred family (03, R73). -/
def predRead (s : State) (d : SReg) (i : BitVec 1) (k : BitVec 3) (f : W32 → W32 → W64) : Res :=
  needS s [d] (needPred s k (.next (advance (ws s d (f (predMask s k i) (cur s).mask)))))

/-- pany (03, R73). -/
def execPany (d : BitVec 6) (i : BitVec 1) (k : BitVec 3) (s : State) : Res :=
  predRead s d i k (fun p _ => if p != 0#32 then 1#64 else 0#64)

/-- pall (03, R73). -/
def execPall (d : BitVec 6) (i : BitVec 1) (k : BitVec 3) (s : State) : Res :=
  predRead s d i k (fun p m => if p = m then 1#64 else 0#64)

/-- pcnt (03, R73). -/
def execPcnt (d : BitVec 6) (i : BitVec 1) (k : BitVec 3) (s : State) : Res :=
  predRead s d i k (fun p _ => BitVec.ofNat 64 (popcount p))

/-- pmask (03, R73). -/
def execPmask (d : BitVec 6) (i : BitVec 1) (k : BitVec 3) (s : State) : Res :=
  predRead s d i k (fun p _ => p.zeroExtend 64)

/-- A clause is enqueued under the path's mask; a full queue stalls the path (03, R74-R75). -/
def enqueue (s : State) (units : Nat) : Res :=
  if 8 ≤ (cur s).cq.length then waitFor s .queueSlot
  else
    let e : CEnt := { addr := s.g.d.lcode.toNat + 12 * units, mask := (cur s).mask }
    .next (advance (setCur s { cur s with cq := (cur s).cq ++ [e] }))

/-- cls (03, R74). -/
def execCls (o : BitVec 26) (s : State) : Res := enqueue s o.toNat

/-- clsr (03, R74). -/
def execClsr (a : BitVec 6) (s : State) : Res := needS s [a] (enqueue s ((rs s a).toNat % 2 ^ 26))

end Sys2Proof.Machine
end

