-- ==== Sys2Proof/Machine/QueueEv.lean ====
section
/-!
DEFINITION. What the slices do by themselves for tickets, queues and active messages (05, R129-R130, R143-R149; 21, R403-R405).
-/

namespace Sys2Proof.Machine

/-! ## Tickets (05, R129-R130) -/

/-- The lease of a class, in nanoseconds. -/
def leaseOf (cls : Nat) : Option Nat :=
  match cls with
  | 0 => some 16000
  | 1 => some 256000
  | 2 => some 4000000
  | _ => none

/-- The reads of an entry. -/
def fetchOp (s : State) (slice idx : Nat) : Option Op :=
  s.ops.find? (fun o => o.cls = .fetch && o.vals = [[slice, idx]])

/-- TICKET_FETCH_LANDS: every byte has been read, or a read has faulted (05, R129). -/
def execTicketFetchLands (slice idx : Nat) (s : State) : Res :=
  match fetchOp s slice idx with
  | none => .next s
  | some o =>
    if o.parts.any (fun p => p.st != .done) then .next s
    else
      let e := entryOf s slice idx
      let s1 := { s with ops := s.ops.filter (fun q => q.id != o.id) }
      let lease := (leaseOf e.cls).map (fun d => s.time + d)
      match e.st with
      | .draining => .next (freeEntry s1 e)
      | .fetching =>
        match o.parts.find? (fun p => p.err.isSome) with
        | some p => .next (setEntry s1 { e with st := .faulted, fault := p.err, stg := p.stg, deadline := lease, fgroup := none, data := [] })
        | none => .next (setEntry s1 { e with
            st := .filled, deadline := lease, data := (o.parts.map (fun p => leBytes p.size p.res)).flatten })
      | _ => .next s1

/-- A replaying log makes the reclamations of a slice in its own order (21, R405). -/
def reclaimHeld (l : JobLog) (slice t : Nat) : Bool :=
  logMode l = 2 && (match l.recs.find? (fun r => r.kind = 3 && r.wher / 2 ^ 24 = slice && !l.replayed.contains r) with
    | some r => r.wher != t
    | none => false)

/-- A slice counts the entries it reclaims (05, R129). -/
def countReclaim (s : State) (slice : Nat) : State :=
  { s with reclaimed := assocSet s.reclaimed slice (assocD 0 s.reclaimed slice + 1) }

/-- TICKET_LEASE_EXPIRY: a filled or faulted entry whose lease has ended frees (05, R129; 21, R403). -/
def execTicketLeaseExpiry (slice idx : Nat) (s : State) : Res :=
  let e := entryOf s slice idx
  match e.st, e.deadline with
  | .free, _ => .next s
  | .fetching, _ => .next s
  | .draining, _ => .next s
  | _, none => .next s
  | _, some d =>
    let job := jobOf s e.g.launch
    let t := (ticketOf { e with gen := (e.gen + 1) % 128 }).toNat
    if s.time < d || (match logOf s job with
      | some l => reclaimHeld l slice t
      | none => false) then .next s
    else .next (replayDone (logAppend (countReclaim (freeEntry s e) slice) job e.pid e.core ⟨3, t, s.time, 0, 0, 0⟩) job 3 t)

/-! ## Slice queues (05, R143-R144) -/

/-- Elements of register `n` that the group's clauses at their queues' heads still lack. A clause behind the head is not decoded (01,
R25), so its need is not known and its pops have not begun (DESIGN CHOICE, log 75). -/
def shortfall (g : Group) (n : Nat) : Nat :=
  let need : Path → Nat := fun p => match p.cq with
    | e :: _ => popcount e.mask * queueReads (cxOf g p.gfmt) n (restOf e)
    | [] => 0
  min 64 ((if g.p0.occ then need g.p0 else 0) + (if g.p1.occ then need g.p1 else 0)) - popable g n

/-- The group is stopped with PROT, if it runs (05, R143; 19, R432). -/
def stopProt (s : State) (k : GKey) (addr : Nat) : State :=
  match getG s k with
  | some g => if active g then withFocus s k g.p1.occ (fun t => takeTrap t { cause := .prot, slot := t.slot, addr := addr }) else s
  | none => s

/-- The slot and the lane that will pop the next element of a buffer: the lanes of the head clause pop in ascending order, read by
read, those of slot 0 first (05, R144; log 22). -/
def popLane (g : Group) (n held : Nat) : Bool × Nat :=
  let need : Path → Nat := fun p => match p.cq with
    | e :: _ => popcount e.mask * queueReads (cxOf g p.gfmt) n (restOf e)
    | [] => 0
  let lane : Path → Nat → Nat := fun p i => match p.cq with
    | e :: _ => (lanesOf e.mask).getD (i % popcount e.mask) noLane
    | [] => noLane
  let n0 := if g.p0.occ then need g.p0 else 0
  if held < n0 then (false, lane g.p0 held) else (true, lane g.p1 (held - n0))

/-- One element goes from the slice to a pop buffer. -/
def fillOne (s : State) (g : Group) (n : Nat) : State :=
  match bindOf g n with
  | none => s
  | some b => match ctxOf s b.desc with
    | none => s
    | some q => match slicePop s q g (popLane g n b.popb.length).1 (popLane g n b.popb.length).2 with
      | .ok (s1, v) =>
        updG s1 g.key (fun h => match bindOf h n with
          | some c => setBind h n (some { c with popb := c.popb ++ [v] })
          | none => h)
      | .error .full => joinWaiters s q g.key false 0
      | .error .turn => joinWaiters s q g.key false 0
      | .error (.held t) => t
      | .error (.page pid f) => pageRequest s pid none f
      | .error .prot => stopProt s g.key (elemGa q q.head)

/-- POP_BUFFER_FILL: the core pops one element of a clause's shortfall (05, R144). -/
def execPopBufferFill (k : GKey) (n : Nat) (s : State) : Res :=
  match getG s k with
  | some g => if active g && 4 ≤ n && n < 8 && 0 < shortfall g n then .next (fillOne s g n) else .next s
  | none => .next s

/-- The oldest element of a push buffer goes to the slice. -/
def drainOne (s : State) (g : Group) (n : Nat) : State :=
  match bindOf g n with
  | none => s
  | some b => match b.pushb, ctxOf s b.desc with
    | v :: r, some q => match slicePush s q g g.p1.occ v with
      | .ok s1 => updG s1 g.key (fun h => setBind h n (some { b with pushb := r }))
      | .error .full => joinWaiters s q g.key false 1
      | .error .turn => joinWaiters s q g.key false 1
      | .error (.held t) => t
      | .error (.page pid f) => pageRequest s pid none f
      | .error .prot => stopProt s g.key (elemGa q q.tail)
    | _, _ => s

/-- PUSH_BUFFER_DRAIN: one element drains to the slice, in order (05, R144). -/
def execPushBufferDrain (k : GKey) (n : Nat) (s : State) : Res :=
  match getG s k with
  | some g => if 4 ≤ n && n < 8 && g.stop != .ended then .next (drainOne s g n) else .next s
  | none => .next s

/-- The path that waits in a `qpop` on a queue. -/
def popSlot (g : Group) (desc : Nat) : Option (Bool × Nat) :=
  [false, true].findSome? (fun sl =>
    match (pathOf g sl).occ, (pathOf g sl).wait with
    | true, some (.queueEmpty n) =>
      if 4 ≤ n && (bindOf g n).map (fun b => b.desc) = some desc then some (sl, n) else none
    | _, _ => none)

/-- The focused path's `qpop` is performed, now that an element is there. -/
def finishPop (s : State) : State :=
  match fetchScalar s with
  | .error _ => s
  | .ok w =>
    match decodeScalar w with
    | .qpop d n => (match execQpop d n s with
      | .next t => afterScalar t s.g.key s.slot (cur s).pc
      | _ => s)
    | _ => s

/-- QUEUE_ELEMENT_ACCESS: an element is there for the group that began to wait first (05, R143). -/
def execQueueElementAccess (desc : Nat) (s : State) : Res :=
  match ctxOf s desc with
  | none => .next s
  | some q =>
    match popFirst s q with
    | none => .next s
    | some w =>
      match getG s w.g with
      | none => .next (setCtx s { q with waiters := q.waiters.erase w })
      | some g =>
        if !active g || ctxCount q = 0 then .next s
        else match popSlot g desc with
          | some (sl, _) => .next (withFocus s w.g sl finishPop)
          | none =>
            match [4, 5, 6, 7].find? (fun n => (bindOf g n).map (fun b => b.desc) = some desc && 0 < shortfall g n) with
            | some n => .next (fillOne s g n)
            | none => .next (setCtx s { q with waiters := q.waiters.erase w })

/-! ## Active messages (05, R147-R149) -/

/-- AMSG_ENQUEUE: the n-th message reaches the queue of its target's core slice; those of one sender to one parcel keep
their order (05, R147). -/
def execAmsgEnqueue (n : Nat) (s : State) : Res :=
  match s.msgs[n]? with
  | none => .next s
  | some m =>
    match parcelOf s m.p with
    | none => .next s
    | some p =>
      if m.queued || m.reply.isSome || 32 ≤ (queuedFor s p.core).length
          || (s.msgs.take n).any (fun x => !x.queued && x.p = m.p && x.g = m.g) then .next s
      else .next { s with msgs := s.msgs.eraseIdx n ++ [{ m with queued := true }] }

/-- The reserved quads of a parcel that no handler group takes. -/
def freeQuads (s : State) (p : Parcel) (hq : Nat) : List Nat :=
  let used := (((groups s).filter (fun g => g.key.launch = p.key.launch && g.parcel = p.key.idx && g.handler.isSome)).map
    (fun g => g.hquads)).flatten
  (List.range hq).filter (fun q => !used.contains q)

/-- The entry address and width of a handler-table entry (17, R327), read through the parcel's core. -/
def handlerEntry (s : State) (p : Parcel) (d : Desc) (h : Nat) : Option (Nat × Nat) :=
  match readGen s { Group.nobody with pid := p.pid, core := p.core, parcel := p.key.idx, key := ⟨p.key.launch, 0⟩ }
      (d.htab + 16 * h) 16 with
  | .error _ => none
  | .ok b =>
    let w := imgRead b 8 1
    if w = 4 || w = 8 || w = 16 || w = 32 then some (imgRead b 0 8, w) else none

/-- A handler group (05, R148-R149). -/
def handlerGroup (s : State) (p : Parcel) (d : Desc) (m : Msg) (entry w : Nat) (qs : List Nat) : Group :=
  let d' : Desc := { d with entry := BitVec.ofNat 64 entry, tile := 0, accs := 0, spill := 0, gw := d.gw }
  let g := Group.start ⟨p.key.launch, 0x80000000 + m.h + 2 ^ 32 * s.nextId⟩ p.pid p.key.idx 0 p.core w w d'
  { g with handler := some m.h, hquads := qs, reply := some ⟨p.key.launch, m.g⟩
           stashbase := BitVec.ofNat 20 (p.base + 512 * qs.headD 0), everRan := true, ranAt := s.time }

/-- The message of a parcel that can have its handler group now, with its entry address and its quads: the oldest of the queue of the
parcel's core, if it is for that parcel. One whose table entry cannot be read, is of no width that a group has, or takes more quads than
HQ stays at the head of the queue, and those behind it wait (DESIGN CHOICE, log 65). -/
def spawnable (s : State) (p : Parcel) (l : Launch) : Option (Msg × Nat × List Nat) :=
  match (queuedFor s p.core).head? with
  | none => none
  | some m =>
    if m.p != p.key || cutPending s l || l.st != .placed then none
    else match handlerEntry s p l.d m.h with
      | none => none
      | some (entry, w) =>
        let qs := (freeQuads s p l.d.hq).take (w / 4)
        if qs.length < w / 4 then none else some (m, entry, qs)

end Sys2Proof.Machine
end

