-- ==== Sys2Proof/Machine/GroupEv.lean ====
section
/-!
DEFINITION. What happens to groups: slots refilled and rotated, the group's end, residency, stops that land (03, R71-R72; 07,
R198-R200; 09, R237-R238; 10, R239; 18, R349; 19, R356-R357).
-/

namespace Sys2Proof.Machine

/-! ## Slots (03, R71-R72) -/

/-- Entry `i` of the focused group's spill stack goes into a slot. -/
def restoreInto (s : State) (slot : Bool) (i : Nat) : State :=
  let p := spillPath s s.g i
  let s1 := spillRemove s i
  { s1 with g := setPath s1.g slot p }

/-- The newest entry that is not waiting. -/
def newestReady (s : State) (g : Group) : Option Nat :=
  ((List.range g.spillCnt).reverse).find? (fun i => !(spillPath s g i).waiting)

def oldestReady (s : State) (g : Group) : Option Nat :=
  (List.range g.spillCnt).find? (fun i => !(spillPath s g i).waiting)

/-- A slot's path and an entry change places. -/
def swapPath (s : State) (slot : Bool) (i : Nat) : State :=
  let p := spillPath s s.g i
  let out := pathOf s.g slot
  let s1 := spillPush (spillRemove s i) out
  { s1 with g := setPath s1.g slot p }

/-- The focused group's slots are refilled (03, R71). -/
def refill (s : State) : State :=
  let g := s.g
  if g.spillCnt = 0 then s
  else if !g.p0.occ then restoreInto s false (g.spillCnt - 1)
  else if !g.p1.occ then restoreInto s true (g.spillCnt - 1)
  else if g.p0.waiting && g.p1.waiting then
    match newestReady s g with
    | some i => swapPath s (!(g.p0.depth < g.p1.depth)) i
    | none => s
  else s

/-- SLOT_REFILL (03, R71). -/
def execSlotRefill (k : GKey) (s : State) : Res :=
  match getG s k with
  | some g => if active g then .next (withFocus s k s.slot refill) else .next s
  | none => .next s

/-- A path may leave its slot: its queued clauses have all issued (03, R72). -/
def mayLeave (p : Path) : Bool := p.occ && p.cq = []

/-- PATH_ROTATION: a slot whose rotation count has reached 64 takes the oldest entry that is not waiting (03, R72). -/
def execPathRotation (k : GKey) (slot : Bool) (s : State) : Res :=
  match getG s k with
  | some g =>
    if active g && 64 ≤ (pathOf g slot).rot && mayLeave (pathOf g slot) then
      match oldestReady s g with
      | some i => .next (withFocus s k slot (fun t => swapPath t slot i))
      | none => .next s
    else .next s
  | none => .next s

/-! ## The end of a group (09, R237) -/

/-- The group's path in the slot has gone to address 0 and nothing of the group is outstanding. -/
def mayEnd (s : State) (g : Group) (slot : Bool) : Bool :=
  let p := pathOf g slot
  active g && p.occ && p.pc = 0#64 && !(pathOf g (!slot)).occ && g.spillCnt = 0 && p.cq = []
    && !s.ops.any (fun o => o.g = g.key && !o.returned && o.cls != .fetch && o.cls != .engine)
    && (List.range 4).all (fun i => pathCount s g.key i = 0)
    && [4, 5, 6, 7].all (pushDrained g)

/-- GROUP_END: bindings are released, which may wait or fault as `qunbind` would; a group's published copies stay, a handler group goes
whole (09, R237; 13, R282). -/
def execGroupEnd (k : GKey) (slot : Bool) (s : State) : Res :=
  match getG s k with
  | some g =>
    if mayEnd s g slot then
      match releaseBinds s g with
      | .error (.held u) => .next u
      | .error _ => .next (withFocus s k slot (fun t => takeTrap t { cause := .prot, slot := slot }))
      | .ok s1 =>
      if g.handler.isSome then .next (dropGroup s1 k)
      else .next (updG s1 k (fun h => { h with
        stop := .ended, resident := false, qb := List.replicate 4 none, spw := none, ranAt := s.time
        p0 := { h.p0 with occ := false, mask := 0#32 }, p1 := { h.p1 with occ := false, mask := 0#32 } }))
    else .next s
  | none => .next s

/-! ## Residency (07, R198, R200; 10, R239; 18, R349) -/

/-- The launch is pinned: a change that would leave it oversubscribed takes effect when it ends (07, R202; 18, R353). -/
def isPinned (s : State) (p : Parcel) : Bool := (launchOf s p.key.launch).elim false Launch.pinned

/-- The allowance of a parcel in quads (18, R349). -/
def allowance (s : State) (p : Parcel) : Nat :=
  match launchOf s p.key.launch with
  | some l => if l.pinned then max (equalShare s p) (demand l.d p.key.idx) else equalShare s p
  | none => equalShare s p

/-- Groups of a parcel, handlers apart. -/
def parcelMembers (s : State) (k : PKey) : List Group :=
  (groups s).filter (fun g => g.live && g.key.launch = k.launch && g.parcel = k.idx && g.handler.isNone)

def residentQuads (s : State) (k : PKey) : Nat :=
  (((parcelMembers s k).filter (fun g => g.resident)).map (fun g => g.width / 4)).sum

/-- What a core's files hold: resident groups, and those whose state has stayed in place (18, R351). -/
def inFiles (s : State) (core : Nat) : List Group := (groups s).filter (fun h => h.live && (h.resident || h.inPlace) && h.core = core)

/-- A group of some width finds free quads among the 512 of a core, its own apart (00, R2). -/
def slotsFit (s : State) (core w : Nat) : Bool := ((inFiles s core).map (fun h => h.width / 4)).sum + w / 4 ≤ 512

/-- `n` more groups of a launch fit in a core's 512 KiB of tiles, 64 accumulators and 512 quads beside some groups and the quads held
back for the handlers of the partitions that run there (00, R2; 10, R239). -/
def filesFit (s : State) (core pid : Nat) (d : Desc) (n : Nat) (beside : List Group) : Bool :=
  let on := beside.filter (fun h => h.handler.isNone || h.inPlace)
  (on.map (fun h => h.d.tile)).sum + n * d.tile ≤ 512 && (on.map (fun h => h.d.accs)).sum + n * d.accs ≤ 64
    && (on.map (fun h => h.width / 4)).sum + n * (d.gw / 4)
      + heldQuads s (if (coreOf s core).mode = 1 then s.parcels.filter (fun p => p.core = core) else parcelsOn s pid core) ≤ 512

/-- The partition's grant on the core holds one more group: a pinned launch keeps its own part of it. -/
def grantFits (s : State) (p : Parcel) (g : Group) : Bool :=
  let l := parcelsOn s p.pid p.core
  isPinned s p || (l.map (fun q => residentQuads s q.key)).sum + g.width / 4 ≤ ownQuads s p.pid - heldQuads s l

/-- A group fits in what its parcel and its core have free. -/
def fits (s : State) (p : Parcel) (g : Group) : Bool :=
  residentQuads s p.key + g.width / 4 ≤ allowance s p && grantFits s p g && coreRuns s g.pid g.core
    && filesFit s g.core g.pid g.d 1 ((inFiles s g.core).filter (fun h => h.key != g.key))

/-- `a` ran less recently than `b` (07, R200). -/
def ranBefore (a b : Group) : Bool :=
  if a.everRan != b.everRan then b.everRan
  else if a.ranAt != b.ranAt && a.everRan then a.ranAt < b.ranAt
  else a.key.gid < b.key.gid

/-- A group that has never run starts: an acquire at fabric scope (17, R332); any other goes on as `rett` does. -/
def enterCore (s : State) (k : GKey) : State :=
  let s1 := updG s k (fun g => { g with resident := true, inPlace := false, everRan := true, ranAt := s.time })
  match getG s k with
  | some g =>
    if !g.everRan then (match getG s1 k with
      | some h => takeSnapshot s1 h 5
      | none => s1)
    else if isHeld g then resumeGroup s1 k
    else s1
  | none => s1

/-- The entrant (07, R200; 09, R238). -/
def entrantOf (s : State) (p : Parcel) : Option Group :=
  bestOf ranBefore ((parcelMembers s p.key).filter (fun g => eligible s g && fits s p g))

/-- A handler group of the parcel that had to leave its core comes back: its quads are held for it. -/
def handlerBack (s : State) (p : Parcel) : Option Group :=
  (groups s).find? (fun g => g.handler.isSome && g.key.launch = p.key.launch && g.parcel = p.key.idx && eligible s g
    && coreRuns s g.pid g.core)

/-- A group whose state has stayed in place leaves the files for its backing store (18, R351). -/
def leaveFiles (s : State) (k : GKey) : State :=
  match getG s k with
  | some g => if !g.inPlace then s else match g.stop with
    | .held f => leaveUnpub (saveImage (setG s { g with inPlace := false }) { g with inPlace := false } f) g
    | _ => setG s { g with inPlace := false }
  | none => s

/-- The groups that have stayed in place in a core's files leave them. -/
def makeRoom (s : State) (core : Nat) : State :=
  ((groups s).filter (fun g => g.inPlace && g.core = core)).foldl (fun t g => leaveFiles t g.key) s

/-- A state in which the parcel has an entrant, and it: groups in place leave the files where that is what it takes. -/
def entrantIn (s : State) (p : Parcel) : Option (State × Group) :=
  match handlerBack s p, entrantOf s p with
  | some g, _ => let t := if slotsFit s g.core g.width then s else makeRoom s g.core
    if slotsFit t g.core g.width then some (t, g) else none
  | none, some g => some (s, g)
  | none, none =>
    if !(groups s).any (fun g => g.inPlace && g.core = p.core) then none
    else
      let t := makeRoom s p.core
      (entrantOf t p).map (fun g => (t, g))

/-- HANDLER_SPAWN: a message gets its handler group, while its partition runs on the core (05, R147-R149); groups that have stayed in
place there leave the files where it takes their slots (00, R2; 18, R351). -/
def execHandlerSpawn (k : PKey) (s : State) : Res :=
  match parcelOf s k, launchOf s k.launch with
  | some p, some l =>
    if !coreRuns s p.pid p.core then .next s
    else match spawnable s p l with
      | none => .next s
      | some (m, entry, qs) =>
        let g := handlerGroup s p l.d m entry (4 * qs.length) qs
        let t := if slotsFit s p.core g.width then s else makeRoom s p.core
        let s1 := { t with msgs := t.msgs.erase m, nextId := s.nextId + 1, others := t.others ++ [g] }
        if !slotsFit t p.core g.width then .next s
        else .next (stashWrite s1 p.core (p.base + 512 * qs.headD 0)
          (leBytes 8 m.parcel ++ leBytes 4 (m.g % 2 ^ 32) ++ leBytes 4 m.data.length ++ m.data))
  | _, _ => .next s

/-- ENTRANT_ADMISSION (09, R238). -/
def execEntrantAdmission (k : PKey) (s : State) : Res :=
  match parcelOf s k with
  | some p => match entrantIn s p with
    | some (t, g) => .next (enterCore t g.key)
    | none => .next s
  | none => .next s

/-- Where the image of a group goes that is to stop, with the entries that its unfinished instructions add to the replay queue. -/
def stopRoom (s : State) (g : Group) : Option (Bool × Nat × Nat) :=
  let n := (imageOf { g with replay := g.replay ++ (toCapture s g).map captured } (frameOf g) []).length
  (imageRoom s g n).map (fun r => (r.1, r.2, n))

/-- A resident group that may be evicted: its image has room (17, R330). -/
def evictable (s : State) (g : Group) : Bool :=
  g.resident && !g.super && (blocked s g || yielding s g) && (stopRoom s g).isSome

/-- Blocked longer, or as long with a higher `%groupid`; the longest blocked is the victim (07, R200). -/
def blockedBefore (now : Nat) (a b : Group) : Bool :=
  let at_ : Group → Nat := fun g => g.blockedAt.getD now
  at_ a < at_ b || (at_ a = at_ b && b.key.gid < a.key.gid)

/-- After a decision a `yield` that was not chosen goes on. -/
def endYields (s : State) (k : PKey) : State :=
  let off : Path → Path := fun p => if p.wait = some .yield then { p with wait := none } else p
  let f : Group → Group := fun g =>
    if g.key.launch = k.launch && g.parcel = k.idx && g.stop = .running && g.resident then { g with p0 := off g.p0, p1 := off g.p1 }
    else g
  { s with g := f s.g, others := s.others.map f }

/-- The eviction of a group begins: a stop at its blocking point, the place of its image being kept for it; one already stopped for a
page has its image. -/
def evictGroup (s : State) (g : Group) : State :=
  let s1 := noteEvent s g 8 (blockPc s g) 1
  if inPageWait g then updG (leaveUnpub s1 g) g.key (fun h => { h with resident := false, ranAt := s.time })
  else withFocus s1 g.key s1.slot (fun t =>
    tryLand { t with g := { t.g with stop := .stopping { cause := .dbgStop }, why := .evict, image := stopRoom t t.g } })

/-- The parcel needs an eviction: an eligible group finds no room, or the parcel is above its allowance (18, R349). -/
def needsRoom (s : State) (p : Parcel) : Bool :=
  allowance s p < residentQuads s p.key
    || ((parcelMembers s p.key).any (fun g => eligible s g && coreRuns s g.pid g.core) && (entrantIn s p).isNone)

/-- A group of the parcel is leaving for an eviction, whose stop has not landed yet. -/
def evicting (s : State) (k : PKey) : Bool :=
  (parcelMembers s k).any (fun g => g.why = .evict && (match g.stop with
    | .stopping _ => true
    | _ => false))

/-- EVICTION (07, R200): one group for one entrant, so none while one is leaving; a pinned launch keeps its groups (07, R202). -/
def execEviction (k : PKey) (s : State) : Res :=
  match parcelOf s k, launchOf s k.launch with
  | some p, some l =>
    if l.pinned || !needsRoom s p || evicting s k then .next s
    else match bestOf (blockedBefore s.time) ((parcelMembers s k).filter (evictable s)) with
      | none => .next (endYields s k)
      | some v =>
        let s1 := endYields (evictGroup s v) k
        match entrantOf s1 p with
        | some g => if allowance s p < residentQuads s k then .next s1 else .next (enterCore s1 g.key)
        | none => .next s1
  | _, _ => .next s

/-! ## Stops that land (19, R356-R357) -/

/-- PRECISE_STOP: what the stop waited for has returned, and it lands. -/
def execPreciseStop (k : GKey) (s : State) : Res :=
  match getG s k with
  | some g =>
    match g.stop with
    | .stopping _ => .next (withFocus s k s.slot tryLand)
    | _ => .next s
  | none => .next s

end Sys2Proof.Machine
end

