-- ==== Sys2Proof/Machine/RouterEv.lean ====
section
/-!
DEFINITION. The router at work: hops, suspects, the compass token, sequenced packets applied, links (14, R284-R303).
-/

namespace Sys2Proof.Machine

/-! ## Ports and routes (14, R284-R285, R290) -/

/-- The package that port `p` joins. -/
def portPeer (s : State) (p : Nat) : Nat :=
  let a := s.net.row
  let c := s.net.col
  if p < 16 then 16 * a + (if p = c then c ^^^ 1 else p)
  else 16 * (if p - 16 = a then a ^^^ 1 else p - 16) + c

/-- A lane of the port's link takes traffic: one of those it runs at is not under test (14, R286; 22, R415; log 101). -/
def portLane (s : State) (p : Nat) : Bool :=
  (s.svc.testing.filter (fun t => match t.1 with
    | .tamly q _ => q = p
    | _ => false)).length < assocD 4 s.net.lanes p

/-- The port joins a package of the domain and has not failed. -/
def portUp (s : State) (p : Nat) : Bool :=
  p < 32 && portPeer s p < 256 && inDomain s (portPeer s p) && !s.net.deadPorts.contains p

/-- The port is up and has a lane that takes traffic. -/
def portUsed (s : State) (p : Nat) : Bool := portUp s p && portLane s p

/-- Hops of a minimal route. -/
def minHops (x y : Nat) : Nat := b2n (x / 16 != y / 16) + b2n (x % 16 != y % 16)

/-- The next package of the minimal route from `n`, row first and then column. -/
def routeHop (n d : Nat) : Nat := if n % 16 != d % 16 then n / 16 * 16 + d % 16 else d

/-- A packet may leave by the port: no route exceeds four hops, of which a detour takes one more in its dimension; a relief packet
goes minimally, row first and then column. -/
def mayHop (s : State) (k : Packet) (p : Nat) : Bool :=
  let q := portPeer s p
  let n := pkgNo s
  portUsed s p &&
    (if k.rl then q = routeHop n k.dpkg
     else k.hops + 1 + minHops q k.dpkg ≤ 4
      && k.rowHops + b2n (p < 16) + b2n (q % 16 != k.dpkg % 16) ≤ 2 && k.colHops + b2n (16 ≤ p) + b2n (q / 16 != k.dpkg / 16) ≤ 2)

/-! ## Checks (14, R287, R302) -/

/-- The packet is dropped and counted. -/
def staleDrop (s : State) (k : Packet) : Bool :=
  12 < k.kind || !k.zeroOk ||
    (k.kind != 12 && (!peerUp s k.spkg || k.sinc != (peerEnt s k.spkg).1 || k.dinc != (peerEnt s k.dpkg).1))

/-! ## Requests that end (14, R301, R305, R309-R310) -/

/-- Part `j` ends with a fault; of a poisoned word the peer has named the place (04, R93). -/
def failPart (s : State) (id j : Nat) (c : Cause) (w : Option Nat) : State :=
  match opOf s id with
  | none => s
  | some o =>
    match o.parts[j]? with
    | none => s
    | some p => rstaSettle (sampleDone (putPart s o j { p with st := .done, err := some (c, (w.map (wordGa p)).getD p.ga) }) id j) id

/-- The answer of a reduction request that carries a tag. -/
def answerTag (s : State) (t : Tag) (a : RAns) : State :=
  { s with net := { s.net with rreqs := s.net.rreqs.map (fun r =>
      if r.g.isSome && r.root != pkgNo s && r.tag = t.tag + 4096 * t.die && r.ans = none then { r with ans := some a } else r) } }

/-- The request of a tag ends with a fault. -/
def failTag (s : State) (t : Tag) (quarantine : Bool) (c : Cause) : State :=
  let s1 := endTag s t quarantine
  if t.op = 0 then answerTag s1 t (.refused c) else failPart s1 t.op t.part c none

/-! ## Reset notices (14, R301-R302) -/

def setPeer (s : State) (n pinc st : Nat) : State :=
  { s with net := { s.net with peers := s.net.peers.filter (fun p => p.1 != n) ++ [(n, pinc, st)] } }

/-- A packet as it leaves by a port: it has taken one hop more. -/
def hopped (p : Nat) (k : Packet) : Packet :=
  { k with hops := k.hops + 1, rowHops := k.rowHops + b2n (p < 16), colHops := k.colHops + b2n (16 ≤ p) }

/-- A notice goes out on every port in use, with the hops that it has taken. -/
def sendNotice (s : State) (spkg sinc hops : Nat) : State :=
  let k : Packet := { kind := 12, vl := 3, spkg := spkg, dpkg := 0, sinc := sinc, dinc := 0, hops := hops }
  { s with net := { s.net with sent := s.net.sent ++ ((List.range 32).filter (portUsed s)).map (fun p => (p, hopped p k)) } }

/-- The tags of a package that a group waits for: slot, cell, step, lane. -/
def lostTags (s : State) (n : Nat) (g : Group) : List (Bool × Nat × Nat × Nat) :=
  [false, true].filterMap (fun slot => match (pathOf g slot).cq with
    | e :: _ => (match e.wait with
      | some (.tag c _ st l) => if parcelPkg s g.d (parcelOfCell g.d c) = n then some (slot, c, st, l) else none
      | _ => none)
    | [] => none)

/-- The tags that the clauses of its interrupted paths wait for. -/
def parkedTags (s : State) (n : Nat) (g : Group) : List (Bool × Nat × Nat × Nat) :=
  (g.park.toList ++ g.sup.toList).flatMap (fun k => lostTags s n { g with p0 := k.p0, p1 := k.p1 })

/-- A clause that waits for a tag of a package that has been reset traps at the reading instruction: at once, or when its group, which
does not run now, or its interrupted path goes on (07, R194). -/
def marginReset (s : State) (n : Nat) (g : Group) : State :=
  let mark : List (Bool × Nat × Nat × Nat) → State := fun later =>
    updG s g.key (fun h => { h with lost := h.lost ++ later.map (fun x => (x.2.1, x.2.2.1)) })
  match lostTags s n g, active g with
  | (slot, _, _, l) :: r, true =>
    withFocus (mark (r ++ parkedTags s n g)) g.key slot (fun t => takeTrap t { cause := .fabPeerReset, slot := slot, lane := some l })
  | ts, _ => mark (ts ++ parkedTags s n g)

/-- The launches that span the package have lost what it held. -/
def markGone (s : State) (n : Nat) : State :=
  { s with launches := s.launches.map (fun l => if l.d.span != 0#32
      && (List.range (spanCols l.d * spanRows l.d)).any (fun q => spanPkg l.d q = n) then { l with gone := l.gone ++ [n] } else l) }

/-- The router acts on a notice that has taken some hops: once for each pair, and only where it tells of another incarnation. A
checkpoint of a job of the package fails (20, R390). -/
def actNotice (s : State) (spkg sinc hops : Nat) : State :=
  let pinc := (peerEnt s spkg).1
  if spkg = pkgNo s || sinc = pinc || s.net.noticed.contains (spkg, sinc) then s
  else
    let s1 := setPeer { s with net := { s.net with noticed := s.net.noticed ++ [(spkg, sinc)] } } spkg pinc 2
    let s2 := (s1.net.tags.filter (fun t => t.st = 1 && t.peer = spkg)).foldl (fun t x => failTag t x false .fabPeerReset) s1
    let s3 := failCkpts s2 (fun c => s2.launches.any (fun l => sheetOf l.pid = c.sheet && l.d.job = c.job && l.d.span != 0#32
      && (List.range (spanCols l.d * spanRows l.d)).any (fun q => spanPkg l.d q = spkg)))
    sendNotice ((groups s3).foldl (fun t g => marginReset t spkg g) (markGone s3 spkg)) spkg sinc hops

/-- RESET_NOTICE (14, R301): the notice of a neighbour, or one that comes by a minimal route. -/
def execResetNotice (spkg sinc : Nat) (s : State) : Res := .next (actNotice s spkg sinc (minHops spkg (pkgNo s)))

/-! ## Hops (14, R289-R290, R293) -/

/-- A packet leaves by a port. -/
def sendOut (s : State) (p : Nat) (k : Packet) : State :=
  { s with net := { s.net with sent := s.net.sent ++ [(p, hopped p k)] } }

/-- A packet has reached its package. -/
def eject (s : State) (k : Packet) : State :=
  if k.kind = 12 then actNotice s k.spkg k.sinc k.hops
  else if sequenced k.kind then { s with net := { s.net with window := s.net.window ++ [k] } }
  else if k.kind = 10 then { s with net := { s.net with rreqs := s.net.rreqs ++ [reqOfBytes k (pkgNo s)] } }
  else { s with net := { s.net with arrived := s.net.arrived ++ [k] } }

/-- The packet that a hop moves. -/
def hopPacket (s : State) (src : HopSrc) : Option Packet :=
  match src with
  | .port _ k => some k
  | .own => s.net.own.head?
  | .buffered n => (s.net.bufs[n]?).map (fun b => b.2.1)
  | .relief n => (s.net.relief[n]?).map (fun r => r.2)

/-- It leaves where it was. -/
def takeOut (s : State) (src : HopSrc) : State :=
  match src with
  | .port _ _ => s
  | .own => { s with net := { s.net with own := s.net.own.drop 1 } }
  | .buffered n => { s with net := { s.net with bufs := s.net.bufs.eraseIdx n } }
  | .relief n => { s with net := { s.net with relief := s.net.relief.eraseIdx n } }

/-- One packet's hop (14, R290). A reset notice in the router is one that a failed port gave back: it leaves by another (14,
R286). -/
def hop (src : HopSrc) (dst : HopDst) (s : State) : Res :=
  match hopPacket s src with
  | none => .next s
  | some k =>
    if staleDrop s k then .next (countNet (takeOut s src) 0 1)
    else if k.kind = 12 then (match src, dst with
      | .own, .port p => .next (if portUsed s p then sendOut (takeOut s src) p k else s)
      | .own, _ => .next s
      | _, _ => .next (actNotice (takeOut s src) k.spkg k.sinc k.hops))
    else match dst with
      | .eject => if k.dpkg = pkgNo s then .next (eject (takeOut s src) k) else .next s
      | .port p => if k.dpkg != pkgNo s && mayHop s k p then .next (sendOut (takeOut s src) p k) else .next s
      | .blocked => match src with
        | .port p _ =>
          if k.rl then .next (if (s.net.relief.filter (fun r => r.1 = p)).length < 4 then
            { s with net := { s.net with relief := s.net.relief ++ [(p, k)] } } else s)
          else .next { s with net := { s.net with bufs := s.net.bufs ++ [(p, k, s.time)] } }
        | _ => .next s

/-- PACKET_HOP (14, R290): the adaptive choice is the instruction's argument. Held step packets enter the router before its own next
packet leaves (14, R296). -/
def execPacketHop (src : HopSrc) (dst : HopDst) (s : State) : Res := hop src dst (if src = .own then releaseSteps s else s)

/-! ## Deadlock recovery (14, R291-R294) -/

/-- SUSPECT_TIMEOUT (14, R291). -/
def execSuspectTimeout (n : Nat) (s : State) : Res :=
  match s.net.bufs[n]? with
  | none => .next s
  | some (p, k, since) =>
    if k.sus || s.time ≤ since + 1000 * s.net.dto then .next s
    else .next (countNet { s with net := { s.net with bufs := s.net.bufs.set n (p, { k with sus := true }, since) } } 2 1)

/-- There is room on the packet's next relief hop: four packets for each port that leads there, or, at the destination, four for
each port (14, R292-R293; log 49). -/
def reliefRoom (s : State) (k : Packet) : Bool :=
  let q := routeHop (pkgNo s) k.dpkg
  let ports := if q = pkgNo s then 32 else ((List.range 32).filter (fun p => portUsed s p && portPeer s p = q)).length
  (s.net.relief.filter (fun x => x.1 = 32 && routeHop (pkgNo s) x.2.dpkg = q)).length < 4 * ports

/-- Up to `n` suspects go into the relief lane, oldest first (14, R292-R293). -/
def moveSuspects (s : State) : Nat → List (Nat × Packet × Nat) → State
  | 0, rest => { s with net := { s.net with bufs := rest } }
  | _ + 1, [] => { s with net := { s.net with bufs := [] } }
  | n + 1, (p, k, since) :: rest =>
    if k.sus && reliefRoom s k then
      moveSuspects (countNet { s with net := { s.net with relief := s.net.relief ++ [(32, { k with rl := true })] } } 3 1) n rest
    else
      let s1 := moveSuspects s (n + 1) rest
      { s1 with net := { s1.net with bufs := (p, k, since) :: s1.net.bufs } }

/-- The package that the token visits next: the next one UP in ascending number, round to the lowest (14, R292). -/
def nextUp (s : State) : Nat :=
  let ups := (List.range 256).filter (peerUp s)
  (ups.find? (fun n => pkgNo s < n)).getD (ups.headD (pkgNo s))

/-- The token leaves for package `d`, by the minimal row-then-column route; on a link that has failed it is lost, and the one package
that is UP keeps it: port 32 (14, R292, R294). -/
def passToken (s : State) (d : Nat) : State :=
  let leave : Nat → State := fun p => { s with net := { s.net with tokens := s.net.tokens ++ [(p, d, s.net.epoch)] } }
  if d = pkgNo s then leave 32
  else match (List.range 32).find? (fun p => portUsed s p && portPeer s p = routeHop (pkgNo s) d) with
    | some p => leave p
    | none => s

/-- The router holds the token: its suspects are moved, and the token goes on. -/
def holdToken (s : State) : State :=
  let t := moveSuspects { s with net := { s.net with tokenSeen := s.time } } s.net.cap s.net.bufs
  passToken t (nextUp t)

/-- The router no longer keeps a token for itself. -/
def dropToken (s : State) (epoch : BitVec 8) : State := { s with net := { s.net with tokens := s.net.tokens.erase (32, pkgNo s, epoch) } }

/-- COMPASS_TOKEN_ARRIVAL (14, R292, R294): a token of an older epoch is discarded; one on its way to another package goes on towards it
(log 49). -/
def execCompassTokenArrival (k : Token) (s : State) : Res :=
  if 128 < (k.epoch - s.net.epoch).toNat then .next s
  else
    let t := dropToken { s with net := { s.net with epoch := k.epoch } } k.epoch
    .next (if k.dst = pkgNo s then holdToken t else passToken t k.dst)

/-- This package is the lowest-numbered one that is UP. -/
def lowestUp (s : State) : Bool := !(s.net.peers.any (fun p => p.1 < pkgNo s && p.2.2 = 1))

/-- TOKEN_REISSUE (14, R294). -/
def execTokenReissue (s : State) : Res :=
  if lowestUp s && s.net.tokenSeen + 128000 ≤ s.time then
    .next (holdToken (countNet { s with net := { s.net with epoch := s.net.epoch + 1#8 } } 4 1))
  else .next s

/-! ## Links (14, R286) -/

/-- FLIT_RETRY (14, R286). -/
def execFlitRetry (port : Nat) (s : State) : Res := if portUsed s port then .next (countNet s 5 1) else .next s

/-- The port's link runs at 2 lanes, then at 1 (14, R286). -/
def narrowPort (s : State) (port : Nat) : State :=
  { s with net := { s.net with lanes := assocSet s.net.lanes port (if assocD 4 s.net.lanes port = 4 then 2 else 1) } }

/-- LANE_RETIRE (14, R286): 4 lanes, then 2, then 1. -/
def execLaneRetire (port : Nat) (s : State) : Res := .next (narrowPort s port)

/-- The last `n` packets that left by a port. -/
def lastSent (port n : Nat) (l : List (Nat × Packet)) : List (Nat × Packet) :=
  let mine := l.filter (fun x => x.1 = port)
  mine.drop (mine.length - n)

/-- A port is removed from routing: the packets still in its retry buffer take another route, their headers unchanged (14, R286).
How many those are is a free value (log 9). -/
def failPort (s : State) (port : Nat) : State :=
  let back := lastSent port (Config.outsideByte s.free port).toNat s.net.sent
  { s with free := s.free + 1
           net := { s.net with
             deadPorts := s.net.deadPorts ++ [port]
             sent := s.net.sent.filter (fun x => !back.contains x)
             own := back.map (fun x => { x.2 with
               hops := x.2.hops - 1, rowHops := x.2.rowHops - b2n (port < 16), colHops := x.2.colHops - b2n (16 ≤ port) })
               ++ s.net.own } }

/-- PORT_FAILURE (14, R286). -/
def execPortFailure (port : Nat) (s : State) : Res := .next (if portUp s port then failPort s port else s)

/-- A lane of the port has failed its self-test: the link narrows, and a port without a lane left has failed (14, R286; 22, R415). -/
def retireLane (s : State) (port : Nat) : State :=
  if assocD 4 s.net.lanes port = 1 then (if portUp s port then failPort s port else s) else narrowPort s port

/-! ## The target slice of a sequenced packet (14, R296, R309; 16, R323; 17, R333) -/

/-- What a door segment finds: it waits, it ends with BUS_ERR, or the door's barrier is counted down. -/
inductive DoorRes where
  | hold
  | bad
  | counted (s : State)

/-- The parcel of a door's barrier is on its core and runs. -/
def doorParcel (s : State) (h : Nat) : Option Parcel :=
  match parcelOf s ⟨h, 0⟩ with
  | some p => if coreRuns s p.pid p.core then some p else none
  | none => none

/-- A segment of `n` bytes at `a` that touches a door (16, R323). -/
def doorSegment (s : State) (a n data : Nat) : DoorRes :=
  match s.doors.find? (fun d => d.base < a + n && a < d.base + 16 * d.count) with
  | none => .bad
  | some d =>
    if !d.live || n != 16 || a % 16 != 0 || data / 2 ^ 32 != 0 then .bad
    else match doorParcel s d.launch, launchOf s d.launch with
      | some p, some l => .counted (barCount s p.core (p.base + doorStash l.d + (a - d.base)) (data % 2 ^ 32))
      | _, _ => .hold

/-- The bytes of a reduction answer (log 19). -/
def ansBytes (a : RAns) : List Byte :=
  match a with
  | .handle h => leBytes 1 0 ++ leBytes 8 h
  | .taken => leBytes 1 1
  | .late => leBytes 1 2
  | .refused c => leBytes 1 3 ++ leBytes 2 (causeCode c)
  | .result v st m => leBytes 1 4 ++ leBytes 8 v ++ leBytes 4 st ++ leBytes 32 m.toNat

def ansOfBytes (b : List Byte) : RAns :=
  match imgRead b 0 1 with
  | 0 => .handle (imgRead b 1 8)
  | 1 => .taken
  | 2 => .late
  | 3 => .refused (causeOfCode (imgRead b 1 2))
  | _ => .result (imgRead b 1 8) (imgRead b 9 4) (BitVec.ofNat 256 (imgRead b 13 32))

/-- The code that a reply carries in ARGS for a retry (12, R268; log 19). -/
def retryCode : Nat := 0x400

/-- A reply goes back under the request's tag: one that is sequenced within the limit of its pair (14, R296). -/
def replyTo (s : State) (k : Packet) (kind args : Nat) (data : List Byte) : State :=
  let r := { mkPacket s kind k.spkg 0 0 args data with tag := k.tag, gen := k.gen, die := k.die }
  if sequenced kind then enterStepPacket s r else enterRouter s r

def replyKind (kind : Nat) : Nat := if kind = 0 then 3 else if kind = 1 then 4 else if kind = 2 then 5 else 7

/-- The local launch that is a part of the peer's (17, R333). -/
def partLaunch (s : State) (job lkey span : Nat) : Option Launch :=
  s.launches.find? (fun l => l.d.span != 0#32 && l.d.job = job && l.d.lkey.toNat = lkey && l.d.span.toNat = span && l.st != .ended)

/-- The step near `near` whose low 32 bits are given. -/
def nearStep (near low : Nat) : Nat :=
  let b := near - near % 2 ^ 32 + low
  if near + 2 ^ 31 < b then b - 2 ^ 32 else if b + 2 ^ 31 ≤ near then b + 2 ^ 32 else b

/-- A margin value or a close announcement goes on from the reader parcel's home slice. -/
def landStep (s : State) (l : Launch) (k : Packet) : State :=
  let r : Nat → Nat := fun i => imgRead k.data (8 + 4 * i) 4
  if k.kind = 8 then
    let ps := s.parcels.filter (fun p => p.key.launch = l.handle && p.home = k.tsl
      && (parcelGroups l.d p.key.idx).any (fun g => (cellsOfGroup l.d g).any (fun c => (cellReads l.d c).contains (r 0))))
    { s with margin := s.margin ++ ps.map (fun p => ⟨p.home, p.core, l.handle, p.key.idx, r 0, r 1, r 2, BitVec.ofNat 32 (r 3)⟩) }
  else
    let dst : GKey := ⟨l.handle, r 1⟩
    let near := ((getG s dst).map (fun g => g.step)).getD 0
    { s with anns := s.anns ++ [⟨⟨l.handle, r 0⟩, nearStep near (r 2), dst⟩] }

/-- A step packet of a part not yet placed is held at the slice until placement. -/
def stepPacket (s : State) (k : Packet) : State :=
  match partLaunch s (imgRead k.data 0 4) (imgRead k.data 4 4) (imgRead k.data 24 4) with
  | some l => if l.st = .placed then landStep s l k else { s with net := { s.net with early := s.net.early ++ [k] } }
  | none => { s with net := { s.net with early := s.net.early ++ [k] } }

/-- The launch of a peer as the slices here name it: no handle of this package. -/
def peerLaunch (k : Packet) : Nat := 2 ^ 32 * (1 + k.spkg) + k.g.launch

/-- The group of a peer as the slices here name it. -/
def peerGroup (k : Packet) : GKey := ⟨peerLaunch k, k.g.gid⟩

/-- A store of a peer's window that a pinned line keeps back takes the window's new name, or is discarded (05, R152, R155). -/
def renamePin (k : Packet) (w n name : Nat) (x : Packet) : Packet :=
  let sp := x.args / 2 ^ 24
  let slot := sp / 2 ^ 33
  if x.kind = 1 && x.spkg = k.spkg && x.g.launch = k.g.launch && sp != 0 && sp % 2 ^ 33 / 2 = w then
    { x with args := x.args % 2 ^ 24 + 2 ^ 24 * (1 + 2 * (if slot < n then name else discardWin) + 2 ^ 33 * slot) }
  else x

/-- What a peer tells a slice of its stores there (log 48). -/
def takeNote (s : State) (k : Packet) (x : Note) : State :=
  let c := peerCore k.spkg k.core
  let launch := peerLaunch k
  match x with
  | .publish sc => publishGroup s c (peerGroup k) sc
  | .mark w n name => { s with
      spec := (s.spec.filter (fun t => !(t.launch = launch && t.win = w && n ≤ t.slot))).map (fun t =>
        if t.launch = launch && t.win = w then { t with win := name } else t)
      net := { s.net with pins := s.net.pins.map (renamePin k w n name) } }
  | .commit sc name => tickP (publishTag s c sc launch name [peerGroup k])
  | .discard => { s with spec := s.spec.filter (fun t => t.launch != launch) }

/-- A peer's commit writes words of a block that a checkpoint has still to copy: it is held there (20, R384). -/
def noteHeld (s : State) (k : Packet) (x : Note) : Option State :=
  match x with
  | .commit _ name =>
    let hit := (s.spec.filter (fun t => t.launch = peerLaunch k && t.win = name && copyPending s t.addr 1)).map Spec.addr
    if hit = [] then none else some (hit.foldl (fun t a => holdCopy t a 1) s)
  | _ => none

/-- A store of a peer that its line holds: kept unpublished for the core that made it, or tagged (12, R263; 04, R98). -/
def peerStore (s : State) (k : Packet) (pid : Nat) : Option State :=
  let n := k.args % 2 ^ 16
  let sp := k.args / 2 ^ 24
  if sp = 0 then some (keepStore s (homeSlice k.loc) (peerCore k.spkg k.core) k.loc pid (peerGroup k) (k.data.take n))
  else specStore s (peerLaunch k) (homeSlice k.loc) k.loc (sp % 2 ^ 33 / 2) (sp / 2 ^ 33) (k.data.take n)

/-- The lines that a peer's read goes to and that the last acquire of its group had published by force are published (12, R267; log
48). -/
def peerAcquire (s : State) (k : Packet) (c a n : Nat) : State :=
  if s.strict then s
  else widenWhere s 5 (fun x => a / 128 ≤ x.addr / 128 && x.addr / 128 ≤ (a + n - 1) / 128 && x.at_ ≤ k.acq
    && !scopeContains x.core x.scope c)

/-- A request of a peer is performed at its home slice as a local one is: in its line, with its core's view (04, R83, R90; 12, R263,
R267-R268); or the state in which it waits. -/
def performPeer (s : State) (k : Packet) : Except State State :=
  let a := k.loc
  let n := k.args % 2 ^ 16
  let c := peerCore k.spkg k.core
  let sl := homeSlice a
  let data := leNat (k.data.take n)
  let pid := ownerOf s a
  let wr := k.kind != 0
  let fail : Cause → List Byte → Except State State := fun e b => .ok (replyTo s k (replyKind k.kind) (causeCode e) b)
  if k.kind = 1 && n = 0 then
    (match noteHeld s k (noteOf (leNat k.data)) with
     | some t => .error t
     | none => .ok (replyTo (takeNote s k (noteOf (leNat k.data))) k 4 0 []))
  else if 0xC000000000 < a + n then fail .busErr []
  else if k.kind = 6 && isDoor s a n then
    (match doorSegment s a n data with
     | .hold => .error s
     | .bad => fail .busErr []
     | .counted t => .ok (replyTo t k 7 0 []))
  else if isDoor s a n then fail .prot []
  else if sliceIsolated s sl then .error s
  else if wr && copyPending s a n then .error (holdCopy s a n)
  else if k.kind = 2 && replayHolds s k.job 2 (fabricAddr s a) k.g.launch k.g.gid k.lane then .error s
  else match ready s pid a n wr ((k.kind = 1 || k.kind = 6) && k.args / 2 ^ 24 = 0) with
    | .error t => .error t
    | .ok t =>
      match (if k.kind = 0 || k.kind = 2 then poisoned t a n else none) with
      | some w => .ok (replyTo t k (replyKind k.kind) (causeCode .busErr) (leBytes 8 w))
      | none =>
        if k.kind = 0 then (let u := peerAcquire t k c a n
          .ok (replyTo u k 3 0 (viewBytes u c a n)))
        else if k.kind = 2 then
          let s1 := forceAtomic t c a n
          let old := cellRead s1.mem a n
          let new := atomNew (aopOfCode (k.args / 2 ^ 16 % 256)) (8 * n) old data (leNat ((k.data.drop n).take n))
          .ok (replyTo (logAtomic { s1 with mem := cellWrite s1.mem a (leBytes n new) } k.job pid (3 * sl) k.g k.lane a) k 5 0 (leBytes n old))
        else if k.kind = 6 then .ok (replyTo (storeOut t c a (k.data.take n)) k 7 0 [])
        else match peerStore t k pid with
          | some s1 => .ok (replyTo s1 k 4 0 [])
          | none => .ok (replyTo t k 4 (causeCode .specOvf) [])

/-- The line that a peer's access goes to is pinned against its core (12, R268). -/
def pinnedPacket (s : State) (k : Packet) : Bool :=
  let n := k.args % 2 ^ 16
  n != 0 && k.loc + n ≤ 0xC000000000 && !isDoor s k.loc n && !sliceIsolated s (homeSlice k.loc)
    && pinnedAgainst s (peerCore k.spkg k.core) k.loc n

/-- The requests of a pair that pinned lines keep back. -/
def pinsOf (s : State) (spkg slice : Nat) : List Packet := s.net.pins.filter (fun k => k.spkg = spkg && k.tsl = slice)

/-- An access has a retry response: its requester waits on. -/
def retried (s : State) (k : Packet) : State := replyTo (countRetry s k.tsl) k (replyKind k.kind) retryCode []

/-- The first of a pair's pinned requests that may go on: its line is no longer pinned, and no earlier one of its group is kept back
(12, R268, R272, R280). -/
def unpinned (s : State) (spkg slice : Nat) : Option Packet :=
  let l := pinsOf s spkg slice
  l.find? (fun k => l.find? (fun x => x.g = k.g) = some k && !pinnedPacket s k
    && !(k.kind = 2 && replayHolds s k.job 2 (fabricAddr s k.loc) k.g.launch k.g.gid k.lane))

/-- What a slice does with the next packet of a pair: step packets and acknowledgements go on, an access to a pinned line, or of a group
of which one is kept back there, is kept with its number applied, and all others are performed (14, R296; 12, R268, R280; log 48). -/
def applyPacket (s : State) (k : Packet) : Except State State :=
  if k.kind = 8 || k.kind = 9 then .ok (stepPacket s k)
  else if k.kind = 7 then .ok { s with net := { s.net with arrived := s.net.arrived ++ [k] } }
  else if k.args % 2 ^ 16 != 0 && (pinnedPacket s k || (pinsOf s k.spkg k.tsl).any (fun x => x.g = k.g)) then
    .ok (let t := retried s k
      { t with net := { t.net with pins := t.net.pins ++ [k] } })
  else performPeer s k

/-- SEQUENCED_APPLY (14, R296): the slice applies the pair's next packet. A request that a pinned line kept back is retried first; where
there is nothing else to do, those that stay pinned have another retry response (12, R268). -/
def execSequencedApply (spkg slice : Nat) (s : State) : Res :=
  let q := ((s.net.rxseq.find? (fun x => x.1 = spkg && x.2.1 = slice)).map (fun x => x.2.2)).getD 0
  match unpinned s spkg slice with
  | some k => (match performPeer s k with
    | .error t => .next t
    | .ok t => .next { t with net := { t.net with pins := t.net.pins.erase k } })
  | none =>
    match s.net.window.find? (fun k => k.spkg = spkg && k.tsl = slice && k.seq = q) with
    | none => .next ((pinsOf s spkg slice).foldl retried s)
    | some k =>
      match applyPacket s k with
      | .error t => .next t
      | .ok t =>
        .next { t with net := { t.net with
          window := t.net.window.erase k
          rxseq := t.net.rxseq.filter (fun x => !(x.1 = spkg && x.2.1 = slice)) ++ [(spkg, slice, (q + 1) % 65536)] } }

end Sys2Proof.Machine
end

