-- ==== Sys2Proof/Machine/FabEv.lean ====
section
/-!
DEFINITION. Replies, timeouts, `rsta` segments, doors and reduction slots (14, R301-R318; 16, R322-R324).
-/

namespace Sys2Proof.Machine

/-! ## Replies (14, R304) -/

def dropArrived (s : State) (k : Packet) : State := { s with net := { s.net with arrived := s.net.arrived.erase k } }

/-- One segment of an `rsta` has been acknowledged (14, R309). -/
def ackSegment (s : State) (o : Op) (j : Nat) (p : Part) : State :=
  let arv := ((o.vals.headD []).drop 1).headD 0 = 1
  let s1 := sampleDone (putPart s o j { p with st := .done }) o.id j
  rstaSettle (if arv then s1 else barCount s1 o.core ((o.vals.headD []).headD 0) p.size) o.id

/-- A reply completes the part that its tag names. -/
def completePart (s : State) (id j : Nat) (k : Packet) : State :=
  match opOf s id with
  | none => s
  | some o =>
    match o.parts[j]? with
    | none => s
    | some p =>
      if k.args != 0 then failPart s id j (causeOfCode k.args) (if k.data = [] then none else some (leNat k.data))
      else if k.kind = 7 then ackSegment s o j p
      else
        let old := if k.kind = 4 then p.res else leNat k.data
        let s1 := sampleDone (putPart s o j { p with st := .done, res := old }) id j
        match o.aop with
        | some op => sinkFlags s1 o.g o.tag (fflagsBits (atomFlags op old p.data))
        | none => s1

/-- The tag of a reply, if its request is outstanding under the same generation. -/
def tagFor (s : State) (k : Packet) : Option Tag :=
  let t := tagOfDie s k.die k.tag
  if t.st = 1 && t.gen = k.gen && t.peer = k.spkg then some t else none

/-- What an arrived reply does. A retry response leaves its request outstanding, as one that is issued now (12, R268; log 19). -/
def takeReply (s : State) (k : Packet) : State :=
  match tagFor s k with
  | none => countNet (dropArrived s k) 1 1
  | some t =>
    if k.args = retryCode && k.kind != 11 then
      pairApplied (setTag (dropArrived s k) { t with since := s.time }) t.peer t.slice t.seq
    else
    let s1 := pairApplied (endTag (dropArrived s k) t false) t.peer t.slice t.seq
    if k.kind = 11 then answerTag s1 t (ansOfBytes k.data) else completePart s1 t.op t.part k

/-- REPLY_ARRIVAL (14, R304): a reply that the router has ejected comes to the requester table. -/
def execReplyArrival (k : Packet) (s : State) : Res :=
  if s.net.arrived.contains k then .next (takeReply s k) else .next s

/-- REQUEST_TIMEOUT (14, R305). -/
def execRequestTimeout (die tag : Nat) (s : State) : Res :=
  let t := tagOfDie s die tag
  if t.st = 1 && t.since + 1000 * s.net.rto ≤ s.time then .next (failTag (countNet s 6 1) t true .fabTimeout) else .next s

/-- TAG_QUARANTINE_END (14, R305). -/
def execTagQuarantineEnd (die tag : Nat) (s : State) : Res :=
  let t := tagOfDie s die tag
  if t.st = 2 && t.since + 1000 * max s.net.rto 256 ≤ s.time then .next (setTag s { t with st := 0 }) else .next s

/-! ## Segments (14, R308-R310; 16, R323) -/

/-- Part `j` of an `rsta` that is still to be sent, and whose turn has come. -/
def segTodo (s : State) (id j : Nat) : Option (Op × Part) :=
  match opOf s id with
  | none => none
  | some o =>
    match o.parts[j]? with
    | none => none
    | some p => if o.cls = .rsta && p.st = .todo && !earlierTodo s o j p then some (o, p) else none

/-- A local segment that its slice still holds has been outstanding for RTO: it times out, and is dropped (14, R305, R308; 16, R323). -/
def segLate (s : State) (o : Op) : Bool :=
  match ((o.vals.headD []).drop 2).head? with
  | some t => t + 1000 * s.net.rto ≤ s.time
  | none => false

/-- RSTA_SEGMENT (14, R309): a local segment is written and published at fabric scope; one to a peer is sent. -/
def execRstaSegment (id j : Nat) (s : State) : Res :=
  match segTodo s id j with
  | none => .next s
  | some (o, p) =>
    match p.kind with
    | .peer n => .next (rstaSettle (sendPart s o j p n) id)
    | .dev sl =>
      if isDoor s p.fa p.size then .next s
      else if segLate s o then .next (failPart (countNet s 6 1) id j .fabTimeout none)
      else if sliceIsolated s sl then .next s
      else if copyPending s p.fa p.size then .next (holdCopy s p.fa p.size)
      else if pinnedAgainst s o.core p.fa p.size then .next (countRetry s sl)
      else match ready s o.pid p.fa p.size true true with
        | .error t => .next t
        | .ok t => .next (putPart (storeOut t o.core p.fa (leBytes p.size p.data)) o j { p with st := .held })
    | _ => .next s

/-- DOOR_SEGMENT (16, R323): a local segment that touches a door. -/
def execDoorSegment (id j : Nat) (s : State) : Res :=
  match segTodo s id j with
  | none => .next s
  | some (o, p) =>
    match p.kind with
    | .dev _ =>
      if !isDoor s p.fa p.size then .next s
      else match doorSegment s p.fa p.size p.data with
        | .hold => .next (if segLate s o then failPart (countNet s 6 1) id j .fabTimeout none else s)
        | .bad => .next (failPart s id j .busErr none)
        | .counted t => .next (putPart t o j { p with st := .held })
    | _ => .next s

/-- RSTA_ACK (14, R309): the acknowledgement of a segment reaches the issuer. -/
def execRstaAck (id j : Nat) (s : State) : Res :=
  match opOf s id with
  | none => .next s
  | some o =>
    match o.parts[j]? with
    | none => .next s
    | some p =>
      if o.cls != .rsta then .next s
      else match p.st with
        | .held => .next (ackSegment s o j p)
        | .sent die tag =>
          match s.net.arrived.find? (fun k => k.kind = 7 && k.die = die && k.tag = tag) with
          | some k => .next (takeReply s k)
          | none => .next s
        | _ => .next s

/-! ## Reductions (14, R313-R314) -/

/-- The root's answer to a request; none while it waits. -/
def rootAnswer (s : State) (r : RReq) : Option (State × RAns) :=
  match r.kind with
  | 0 => some (rootAlloc s r)
  | 1 => some (rootContrib s r)
  | _ => rootWait s r

/-- REDUCTION_REQUEST: this package's router, as the root, answers the n-th request (14, R313). -/
def execReductionRequest (n : Nat) (s : State) : Res :=
  match s.net.rreqs[n]? with
  | none => .next s
  | some r =>
    if r.root != pkgNo s || r.ans.isSome then .next s
    else match rootAnswer s r with
      | none => .next s
      | some (t, a) =>
        if r.g.isSome then
          .next { t with net := { t.net with rreqs := t.net.rreqs.set n { r with ans := some a } } }
        else
          let t1 : State := { t with net := { t.net with rreqs := t.net.rreqs.eraseIdx n } }
          .next (enterRouter t1 { mkPacket t1 11 r.pkg 0 0 0 (ansBytes a) with tag := r.tag % 4096, gen := r.tgen, die := r.tag / 4096 })

/-- REDUCTION_TIMER (14, R314). -/
def execReductionTimer (i : Nat) (s : State) : Res :=
  let e := slotAt s i
  if e.st = 0 || s.time < e.deadline then .next s
  else if e.st = 1 then .next (setSlot s i { e with st := 2, deadline := s.time + 1000 * e.timeout })
  else .next (setSlot s i { gen := (e.gen + 1) % 256 })

end Sys2Proof.Machine
end

