-- ==== Sys2Proof/Machine/Streamer.lean ====
section
/-!
DEFINITION. The streamer at work: commands start, sectors are read and land, maps, multicasts, fills of mapped lines (06,
R159, R165-R170, R177).
-/

namespace Sys2Proof.Machine

/-! ## Sectors (06, R165) -/

/-- The first byte of sector `i`, and the number of sectors. -/
def sectorAt (c : Cmd) (i : Nat) : Nat := if i = 0 then 0 else min (cmdLen c) (128 * i - cmdDst c % 128)

def sectorCount (c : Cmd) : Nat := (cmdDst c % 128 + cmdLen c + 127) / 128

def receivers (c : Cmd) : List Nat := (List.range (cmdArg c 16 16)).map (fun i => cmdArg c 0 16 + i)

/-- Landings that complete a command. -/
def landings (c : Cmd) : Nat := if cmdKind c = 6 then sectorCount c * cmdArg c 16 16 else sectorCount c

/-- The source of destination byte `b`: a generic address, or none for a byte that is zero or of a pattern. `idx` gives a
GATHER's indices (06, R167). -/
def srcOf (c : Cmd) (idx : Nat → Nat) (b : Nat) : Option Nat :=
  match cmdKind c with
  | 2 =>
    let rb := cmdArg c 32 16
    some ((cmdSrc c + idx (b / rb) * rb + b % rb) % 2 ^ 64)
  | 3 =>
    let r := cmdArg c 0 16
    let e := 2 ^ cmdArg c 48 2
    let k := b / e
    some ((cmdSrc c + k % r * cmdArg c 16 32 + k / r * e + b % e) % 2 ^ 64)
  | 4 =>
    let p := cmdArg c 32 16
    if b % p < cmdArg c 16 16 then some ((cmdSrc c + b / p * cmdArg c 48 16 + b % p) % 2 ^ 64) else none
  | 5 => none
  | _ => some ((cmdSrc c + b) % 2 ^ 64)

/-- A byte without a source. -/
def fillByte (c : Cmd) (b : Nat) : Byte := if cmdKind c = 5 then BitVec.ofNat 8 (c.w3.toNat / 2 ^ (8 * (b % 8))) else 0#8

/-- Runs of bytes that follow one another in one line: (destination byte, address, bytes). -/
def runsOf : List (Nat × Nat) → List (Nat × Nat × Nat)
  | [] => []
  | (b, a) :: r =>
    match runsOf r with
    | (b', a', n) :: t => if b' = b + 1 && a' = a + 1 && a' / 128 = a / 128 then (b, a, n + 1) :: t else (b, a, 1) :: (b', a', n) :: t
    | [] => [(b, a, 1)]

def sectorRuns (c : Cmd) (idx : Nat → Nat) (i : Nat) : List (Nat × Nat × Nat) :=
  let lo := sectorAt c i
  runsOf ((List.range (sectorAt c (i + 1) - lo)).filterMap (fun k => (srcOf c idx (lo + k)).map (fun a => (lo + k, a))))

/-! ## The accesses of the streamer -/

/-- Whose accesses they are: the parcel's producer group's (06, R166), or a stand-in at the same place. -/
def producer (s : State) (p : Parcel) : Group :=
  (getG s ⟨p.key.launch, p.prodGid⟩).getD
    { Group.nobody with key := ⟨p.key.launch, p.prodGid⟩, pid := p.pid, core := p.core, parcel := p.key.idx }

/-- An operation of the streamer: `vals` holds the parcel, the command, the sector, and whether it writes. -/
def engineOp (g : Group) (vals : List Nat) (ps : List Part) : Op :=
  { id := 0, g := g.key, slot := false, tag := 0, core := g.core, pid := g.pid, cls := .engine, instr := .nop
    vals := [vals], parts := ps }

def engineOf (s : State) (k : GKey) (vals : List Nat) : Option Op :=
  s.ops.find? (fun o => o.cls = .engine && o.g = k && o.vals = [vals])

def dropOp (s : State) (id : Nat) : State := { s with ops := s.ops.filter (fun o => o.id != id) }

/-- Why a sector does not go on; a failed fill is named with a word of its line. -/
inductive SFail where
  | wait
  | fill (line : Nat)
  | bad (c : Cause) (addr word : Nat)
  | fault (c : Cause) (addr : Nat)
  deriving DecidableEq, Repr

/-- An access of the group to bytes of the stash range, issued before its operation numbered `at_`, is still to be made (06, R166). -/
def stashBusy (s : State) (g : Group) (at_ off n : Nat) : Bool :=
  (s.ops.filter (fun o => o.g = g.key) ++ g.replay).any (fun o => o.id < at_ && o.parts.any (fun p =>
    p.kind = .stash && p.st = .todo && p.wr && p.fa < off + n && off < p.fa + p.size))

/-- The stash range that the streamer reads for a command holds its bytes. -/
def stashHas (s : State) (g : Group) (at_ off n : Nat) : Option SFail :=
  if (emptyLine s g.core off n).isSome || stashBusy s g at_ off n then some .wait
  else match mapNeed s g off n false with
    | none => none
    | some (w, e) =>
      match mapBad s g w, locate s g (mapGa e (w / 128 * 128)) 128 .read with
      | some c, _ => some (.bad c (mapGa e w) w)
      | none, .error (c, _) => some (.fault c (mapGa e w))
      | none, .ok _ => some (.fill (w / 128))

/-- A GATHER's index list as the stash has it; the lines that the sector needs are full. -/
def gatherIdx (s : State) (g : Group) (c : Cmd) : Nat → Nat := fun i => stashRead s g.core (cmdArg c 0 20 + 4 * i) 4

def idxReady (s : State) (g : Group) (c : Cmd) (i : Nat) : Option SFail :=
  if cmdKind c != 2 then none
  else
    let rb := cmdArg c 32 16
    let lo := sectorAt c i / rb
    let hi := (sectorAt c (i + 1) - 1) / rb
    stashHas s g c.at_ (cmdArg c 0 20 + 4 * lo) (4 * (hi - lo + 1))

/-- The reads of a sector: stash runs at once, the others as parts to be performed (06, R166). -/
def readParts (s : State) (g : Group) (at_ : Nat) : List (Nat × Nat × Nat) → Except SFail (List Part)
  | [] => .ok []
  | (b, a, n) :: r =>
    match locate s g a n .read with
    | .error (c, _) => .error (.fault c a)
    | .ok (kind, fa) =>
      match (if kind = .stash then stashHas s g at_ fa n else none) with
      | some e => .error e
      | none =>
        match readParts s g at_ r with
        | .error e => .error e
        | .ok ps =>
          let q : Part := { ga := a, fa := fa, size := n, kind := kind, cmp := b }
          .ok ((if kind = .stash then { q with st := .done, res := stashRead s g.core fa n } else q) :: ps)

/-- The bytes of a sector from its parts. -/
def sectorData (c : Cmd) (i : Nat) (ps : List Part) : List Byte :=
  let lo := sectorAt c i
  (List.range (sectorAt c (i + 1) - lo)).map (fun k =>
    match ps.find? (fun p => p.cmp ≤ lo + k && lo + k < p.cmp + p.size) with
    | some p => BitVec.ofNat 8 (p.res / 2 ^ (8 * (lo + k - p.cmp)))
    | none => fillByte c (lo + k))

/-! ## Commands of a parcel -/

def startedOf (p : Parcel) (seq : Nat) : Option Started := p.started.find? (fun x => x.cmd.seq = seq)

def putStarted (s : State) (k : PKey) (x : Started) : State :=
  match parcelOf s k with
  | some p => setParcel s { p with started := p.started.map (fun y => if y.cmd.seq = x.cmd.seq then x else y) }
  | none => s

/-- The command's own barrier counts. -/
def countsBytes (c : Cmd) : Bool := !cmdNB c && !cmdARV c

/-- Operations of a command are withdrawn. -/
def dropEngine (s : State) (k : GKey) (idx seq : Nat) (above : Nat) : State :=
  { s with ops := s.ops.filter (fun o => !(o.cls = .engine && o.g = k && (match o.vals with
      | [[i, q, n, _]] => i = idx && q = seq && above ≤ n
      | _ => false))) }

/-- Lines of the destination in one core's stash from sector `i` on are full. -/
def fullFrom (s : State) (core : Nat) (c : Cmd) (i : Nat) : State :=
  if whereIs (cmdDst c) (cmdLen c) = .inside then
    markFull s core (linesOf (cmdDst c - stashWindow + sectorAt c i) (cmdLen c - sectorAt c i))
  else s

/-- The landed prefix of a list of landed sectors, from `n` on. -/
def prefixFrom (landed : List Nat) : Nat → Nat → Nat
  | 0, n => n
  | fuel + 1, n => if landed.contains n then prefixFrom landed fuel (n + 1) else n

/-- A receiver's landed prefix in an MCAST. -/
def recvPrefix (c : Cmd) (landed : List Nat) (r : Nat) : Nat :=
  prefixFrom (landed.filterMap (fun x => if x / sectorCount c = r then some (x % sectorCount c) else none)) (landed.length) 0

/-- One barrier's part of a failing command (06, R168). -/
def failBarrier (s : State) (core : Nat) (c : Cmd) (pre : Nat) (e : Cause) : State :=
  if cmdNB c then s
  else barFail s core (cmdBar c) (if cmdARV c then 1 else if cmdMAP c then 0 else cmdLen c - sectorAt c pre) e

/-- A receiver of an MCAST: a parcel of the launch on this package whose allotment holds the destination and the barrier (06, R177). -/
def receiver (s : State) (p : Parcel) (c : Cmd) (r : Nat) : Option Parcel :=
  (parcelOf s ⟨p.key.launch, r⟩).bind (fun q =>
    let off := cmdDst c - stashWindow
    if q.base ≤ off && off + cmdLen c ≤ q.base + q.size
        && (cmdNB c || (q.base ≤ cmdBar c && cmdBar c + 16 ≤ q.base + q.size)) then some q else none)

/-- A fault ends a command (06, R168); at the sound receivers where it is an MCAST that was not sent (06, R177). DONE of an MCAST is the
least of its receivers' landed prefixes: no rule says which of them it reports (DESIGN CHOICE, log 87). -/
def endFault (s : State) (p : Parcel) (c : Cmd) (landed : List Nat) (pre : Nat) (e : Cause) : State :=
  let s1 := dropEngine s ⟨p.key.launch, p.prodGid⟩ p.key.idx c.seq 0
  let begun := p.started.any (fun x => x.cmd.seq = c.seq)
  let s2 : State :=
    if cmdKind c = 6 then
      (List.range (receivers c).length).foldl (fun t r =>
        match receiver t p c (cmdArg c 0 16 + r) with
        | some q =>
          let u := failBarrier t q.core c (recvPrefix c landed r) e
          if begun then fullFrom u q.core c (recvPrefix c landed r) else u
        | none => t) s1
    else fullFrom (failBarrier s1 p.core c pre e) p.core c pre
  match parcelOf s2 p.key with
  | some q => setParcel s2 (pushStatus { q with started := q.started.filter (fun x => x.cmd.seq != c.seq) } c (causeCode e)
      (if cmdMAP c then 0
       else if cmdKind c = 6 then sectorAt c (((List.range (receivers c).length).map (recvPrefix c landed)).foldl min (sectorCount c))
       else sectorAt c pre))
  | none => s2

/-- A fault of a sector: a page fault pauses the command there, any other ends it (06, R168). -/
def sectorFault (s : State) (p : Parcel) (x : Started) (i : Nat) (e : Cause) (addr : Nat) : State :=
  match causeKind e with
  | .serviceable =>
    let s1 := dropEngine s ⟨p.key.launch, p.prodGid⟩ p.key.idx x.cmd.seq i
    let s2 := putStarted s1 p.key { x with paused := some (i, e, addr) }
    pageRequest (countEvc s2 p.pid 4 1) p.pid none { cause := e, acc := if e = .pfWrite then .write else .read, addr := addr }
  | _ => endFault s p x.cmd x.landed x.pre e

/-- A command completes (06, R165, R170). -/
def complete (s : State) (k : PKey) (c : Cmd) (done : Nat) : State :=
  match parcelOf s k with
  | none => s
  | some p =>
    let q := { p with started := p.started.filter (fun x => x.cmd.seq != c.seq) }
    setParcel s (if cmdST c then pushStatus q c 0 done else q)

/-- One destination's prefix grows from `a` to `b` sectors: lines are full, the barrier counts (06, R165). -/
def growPrefix (s : State) (core : Nat) (c : Cmd) (a b : Nat) : State :=
  if b ≤ a then s
  else
    let s1 := if whereIs (cmdDst c) (cmdLen c) = .inside then
        markFull s core (linesOf (cmdDst c - stashWindow + sectorAt c a) (sectorAt c b - sectorAt c a)) else s
    let s2 := if countsBytes c then barCount s1 core (cmdBar c) (sectorAt c b - sectorAt c a) else s1
    if cmdARV c && sectorAt c b = cmdLen c then barCount s2 core (cmdBar c) 1 else s2

/-- Sector `i` has landed. -/
def sectorDone (s : State) (p : Parcel) (x : Started) (i : Nat) : State :=
  let c := x.cmd
  let landed := x.landed ++ [i]
  if cmdKind c = 6 then
    let r := i / sectorCount c
    let s1 := match parcelOf s ⟨p.key.launch, cmdArg c 0 16 + r⟩ with
      | some q => growPrefix s q.core c (recvPrefix c x.landed r) (recvPrefix c landed r)
      | none => s
    let s2 := putStarted s1 p.key { x with landed := landed }
    if landed.length = landings c then complete s2 p.key c (cmdLen c) else s2
  else
    let pre := prefixFrom landed landed.length x.pre
    let s1 := putStarted (growPrefix s p.core c x.pre pre) p.key { x with landed := landed, pre := pre }
    if pre = sectorCount c then complete s1 p.key c (cmdLen c) else s1

/-- The bytes of a sector go to their destination: the stash at once, global memory as stores of the producer group. -/
def writeSector (s : State) (p : Parcel) (x : Started) (i : Nat) (bs : List Byte) : State :=
  let g := producer s p
  let c := x.cmd
  let a := cmdDst c + sectorAt c i
  if whereIs (cmdDst c) (cmdLen c) = .inside then
    match mapNeed s g (a - stashWindow) bs.length true with
    | some (w, e) => (match mapBad s g w with
      | some c => let t := dropBad s g w
        sectorFault t ((parcelOf t p.key).getD p) x i c (mapGa e w)
      | none => startFill s g (w / 128))
    | none => sectorDone (stashStore s g (a - stashWindow) bs) p x i
  else
    match locate s g a bs.length .write with
    | .error (e, _) => sectorFault s p x i e a
    | .ok (kind, fa) =>
      addNumbered s (engineOp g [p.key.idx, c.seq, i, 1]
        [{ ga := a, fa := fa, size := bs.length, kind := kind, wr := true, data := leNat bs }])

/-- The bytes of an MCAST sector arrive in a receiver's stash, held behind the fill of a mapped line there (06, R177-R178). -/
def castSector (s : State) (p : Parcel) (x : Started) (i : Nat) (bs : List Byte) : State :=
  let c := x.cmd
  let r := i / sectorCount c
  match parcelOf s ⟨p.key.launch, cmdArg c 0 16 + r⟩ with
  | none => sectorDone s p x i
  | some q =>
    let g := producer s q
    let off := cmdDst c - stashWindow + sectorAt c (i % sectorCount c)
    match mapNeed s g off bs.length true with
    | some (w, e) => (match mapBad s g w with
      | some c => let t := dropBad s g w
        sectorFault t ((parcelOf t p.key).getD p) x i c (mapGa e w)
      | none => startFill s g (w / 128))
    | none => sectorDone (stashStore s g off bs) p x i

/-- Sector `i` is issued: its sources are read (06, R165-R167). -/
def issueSector (s : State) (p : Parcel) (x : Started) (i : Nat) : State :=
  let g := producer s p
  let c := x.cmd
  let n := if cmdKind c = 6 then i % sectorCount c else i
  let go : SFail → State := fun e => match e with
    | .wait => s
    | .fill l => startFill s g l
    | .bad e a w => let t := dropBad s g w
      sectorFault t ((parcelOf t p.key).getD p) x i e a
    | .fault e a => sectorFault s p x i e a
  match idxReady s g c n with
  | some e => go e
  | none =>
    match readParts s g c.at_ (sectorRuns c (gatherIdx s g c) n) with
    | .error e => go e
    | .ok ps =>
      if ps.any (fun q => q.st != .done) then addNumbered s (engineOp g [p.key.idx, c.seq, i, 0] ps)
      else if cmdKind c = 6 then castSector s p x i (sectorData c n ps)
      else writeSector s p x i (sectorData c n ps)

/-- Sectors issue in ascending order; those of one receiver of an MCAST arrive in order. -/
def sectorTurn (s : State) (p : Parcel) (x : Started) (i : Nat) : Bool :=
  let c := x.cmd
  let up : Nat → Bool := fun j => x.landed.contains j || s.ops.any (fun o => o.cls = .engine && o.g = ⟨p.key.launch, p.prodGid⟩
    && (match o.vals with
      | [[k, q, n, _]] => k = p.key.idx && q = c.seq && n = j
      | _ => false))
  if cmdKind c = 6 then i % sectorCount c = 0 || x.landed.contains (i - 1) else i = 0 || up (i - 1)

/-- Sector `i` goes on from where it stands: issued, read, written, landed. -/
def advanceSector (s : State) (p : Parcel) (x : Started) (i : Nat) : State :=
  let k : GKey := ⟨p.key.launch, p.prodGid⟩
  let c := x.cmd
  match engineOf s k [p.key.idx, c.seq, i, 1] with
  | some o =>
    if o.parts.any (fun q => q.st != .done) || replyBehind s o then s
    else match o.parts.find? (fun q => q.err.isSome) with
      | some q => match q.err with
        | some (e, a) => sectorFault s p x i e a
        | none => s
      | none => sectorDone (dropOp s o.id) p x i
  | none =>
    match engineOf s k [p.key.idx, c.seq, i, 0] with
    | some o =>
      if o.parts.any (fun q => q.st != .done) || replyBehind s o then s
      else match o.parts.find? (fun q => q.err.isSome) with
        | some q => match q.err with
          | some (e, a) => sectorFault s p x i e a
          | none => s
        | none => writeSector (dropOp s o.id) p x i (sectorData c i o.parts)
    | none => if coreRuns s p.pid p.core && sectorTurn s p x i then issueSector s p x i else s

/-! ## The events -/

/-- A command waits for the ones before it: only the oldest may start. -/
def headCmd (p : Parcel) : Option Cmd := p.cmds.head?

/-- STREAMER_COMMAND_START (06, R165). -/
def execStreamerCommandStart (k : PKey) (s : State) : Res :=
  match parcelOf s k with
  | none => .next s
  | some p =>
    match headCmd p with
    | none => .next s
    | some c =>
      if cmdMAP c || cmdKind c = 6 || !coreRuns s p.pid p.core then .next s
      else .next (setParcel s { p with cmds := p.cmds.drop 1, started := p.started ++ [⟨c, [], 0, none⟩] })

/-- SECTOR_LANDS: a sector is read, written, and lands (06, R165-R166). -/
def execSectorLands (k : PKey) (seq i : Nat) (s : State) : Res :=
  match parcelOf s k with
  | none => .next s
  | some p =>
    match startedOf p seq with
    | none => .next s
    | some x =>
      let held := match x.paused with
        | some (n, _, _) => n ≤ i
        | none => false
      if cmdMAP x.cmd || landings x.cmd ≤ i || x.landed.contains i || held || !coreRuns s p.pid p.core then .next s else .next (advanceSector s p x i)

/-- STREAMER_FAULT: an access of a sector ends with a fault (06, R168). -/
def execStreamerFault (k : PKey) (seq i : Nat) (e : Cause) (s : State) : Res :=
  match parcelOf s k with
  | none => .next s
  | some p =>
    match startedOf p seq with
    | none => .next s
    | some x =>
      if cmdMAP x.cmd || landings x.cmd ≤ i || x.landed.contains i || x.paused.isSome then .next s
      else
        let c := x.cmd
        let a := if e = .pfWrite then cmdDst c + sectorAt c i
          else ((sectorRuns c (gatherIdx s (producer s p) c) i).head?.map (fun r => r.2.1)).getD (cmdDst c + sectorAt c i)
        .next (sectorFault s p x i e a)

/-! ## Maps (06, R160, R169) -/

/-- Words of an entry. -/
def inEntry (e : MapEnt) (w : Nat) : Bool := e.off ≤ w && w < e.off + e.len

/-- The first dirty word of an entry that has no translation. -/
def entryFault (s : State) (g : Group) (p : Parcel) (e : MapEnt) : Option (Cause × Nat) :=
  p.mdirty.findSome? (fun w => if !inEntry e w then none else match locate s g (mapGa e w) 4 .write with
    | .error (c, _) => some (c, mapGa e w)
    | .ok _ => none)

/-- The words of a range lose their bits, and the fills of its lines are forgotten. -/
def forgetWords (s : State) (p : Parcel) (e : MapEnt) : State :=
  setParcel { s with ops := s.ops.filter (fun o => !(o.cls = .engine && o.g.launch = p.key.launch && (match o.vals with
      | [[i, q, l, _]] => i = p.key.idx && q = 8192 && inEntry e (128 * l)
      | _ => false))) }
    { p with mvalid := p.mvalid.filter (fun w => !inEntry e w), mdirty := p.mdirty.filter (fun w => !inEntry e w)
             mfill := p.mfill.filter (fun l => !inEntry e (128 * l)), mbad := p.mbad.filter (fun x => !inEntry e x.1)
             mback := p.mback.filter (fun x => !inEntry e x.2.1) }

/-- The entry goes: its invalid words read as zero (06, R169). -/
def unmapEntry (s : State) (p : Parcel) (n : Nat) (e : MapEnt) : State :=
  forgetWords ((wordsOf e.off e.len).foldl (fun (t : State) w =>
    if p.mvalid.contains w then t else stashWrite t p.core w (zeros 4)) s) { p with maps := p.maps.set n none } e

def newEntry (c : Cmd) : MapEnt := ⟨cmdDst c - stashWindow, cmdSrc c, cmdLen c⟩

def overlaps (a b : MapEnt) : Bool := a.off < b.off + b.len && b.off < a.off + a.len

/-- A map operation whose write-back has been accepted completes: the old entry goes, the new one is valid with every word invalid and
its lines full, and one arrival counts under ARV (06, R169). -/
def finishMap (s : State) (k : PKey) (c : Cmd) : State :=
  let n := mapEntry c
  let s1 := match parcelOf s k with
    | some p => (match p.maps.getD n none with
      | some e => unmapEntry s p n e
      | none => s)
    | none => s
  let s2 := if mapOp c != 0 then s1
    else match parcelOf s1 k with
      | some p => fullFrom (forgetWords s1 { p with maps := p.maps.set n (some (newEntry c)) } (newEntry c)) p.core c 0
      | none => s1
  let s3 := match parcelOf s2 k with
    | some p => if cmdARV c then barCount s2 p.core (cmdBar c) 1 else s2
    | none => s2
  complete s3 k c 0

/-- Every dirty word of an entry stands as the operation wrote it back. -/
def wroteAll (s : State) (p : Parcel) (e : MapEnt) (o : Op) : Bool :=
  (p.mdirty.filter (inEntry e)).all (fun w => o.parts.any (fun q => q.ga = mapGa e w && q.data = stashRead s p.core w 4))

/-- A started map operation goes on: the dirty words of the old entry are written back as stores of the producer group, a page fault
pausing it and any other fault ending it (06, R160, R168-R169). -/
def carryMap (s : State) (p : Parcel) (x : Started) : State :=
  let g := producer s p
  let c := x.cmd
  match p.maps.getD (mapEntry c) none with
  | none => finishMap s p.key c
  | some e =>
    match engineOf s g.key [p.key.idx, c.seq, 0, 1] with
    | some o =>
      if o.parts.any (fun q => q.st != .done) then s
      else (match o.parts.findSome? (fun q => q.err) with
        | some (r, a) => sectorFault s p x 0 r a
        | none => if wroteAll s p e o then finishMap (dropOp s o.id) p.key c else dropOp s o.id)
    | none =>
      match entryFault s g p e with
      | some (r, a) => sectorFault s p x 0 r a
      | none => match dirtyParts s g (inEntry e) with
        | [] => finishMap s p.key c
        | ps => addNumbered s (engineOp g [p.key.idx, c.seq, 0, 1] ps)

/-- The head command, a map operation, starts; one whose range overlaps another entry ends with Q_BADDESC (06, R169). -/
def startMap (s : State) (p : Parcel) (c : Cmd) : State :=
  let x : Started := ⟨c, [], 0, none⟩
  let p1 : Parcel := { p with cmds := p.cmds.drop 1, started := p.started ++ [x] }
  let bad := mapOp c = 0 && (List.range 16).any (fun i => i != mapEntry c && (match p.maps.getD i none with
    | some e => overlaps e (newEntry c)
    | none => false))
  if bad then endFault (setParcel s p1) p1 c [] 0 .qBaddesc else carryMap (setParcel s p1) p1 x

/-- MAP_OPERATION: a map operation starts once every earlier command of the parcel has completed, or goes on (06, R169). -/
def execMapOperation (k : PKey) (s : State) : Res :=
  match parcelOf s k with
  | none => .next s
  | some p =>
    if !coreRuns s p.pid p.core then .next s
    else match p.started.find? (fun x => cmdMAP x.cmd) with
      | some x => .next (if x.paused.isSome then s else carryMap s p x)
      | none => match headCmd p with
        | some c => .next (if cmdMAP c && p.started = [] then startMap s p c else s)
        | none => .next s

/-! ## MCAST (06, R177) -/

/-- Every receiver is sound. -/
def castOk (s : State) (p : Parcel) (c : Cmd) : Bool := (receivers c).all (fun r => (receiver s p c r).isSome)

/-- Bit `b` is taken in every receiver, and the destination's lines are empty there. -/
def castBegin (s : State) (p : Parcel) (c : Cmd) : State :=
  (receivers c).foldl (fun (t : State) r => match parcelOf t ⟨p.key.launch, r⟩ with
    | some q =>
      let t1 := setParcel t { q with bfree := q.bfree &&& ~~~(1#16 <<< cmdArg c 32 4) }
      markEmpty t1 q.core (cmdDst c - stashWindow) (cmdLen c)
    | none => t) s

/-- MCAST_START (06, R177). -/
def execMcastStart (k : PKey) (s : State) : Res :=
  match parcelOf s k with
  | none => .next s
  | some p =>
    match headCmd p with
    | none => .next s
    | some c =>
      if cmdKind c != 6 || cmdMAP c || !coreRuns s p.pid p.core then .next s
      else if !castOk s p c then
        let p1 : Parcel := { p with cmds := p.cmds.drop 1 }
        .next (endFault (setParcel s p1) p1 c [] 0 .qBaddesc)
      else if !(receivers c).all (fun r => match parcelOf s ⟨k.launch, r⟩ with
          | some q => q.bfree.getLsbD (cmdArg c 32 4)
          | none => false) then .next s
      else
        let s1 := castBegin s p c
        match parcelOf s1 k with
        | some q => .next (setParcel s1 { q with cmds := q.cmds.drop 1, started := q.started ++ [⟨c, [], 0, none⟩] })
        | none => .next s1

/-! ## Fills of mapped lines (06, R159) -/

/-- The fill of a parcel's line. -/
def fillOp (s : State) (k : PKey) (line : Nat) : Option Op :=
  s.ops.find? (fun o => o.cls = .engine && o.g.launch = k.launch && o.vals = [[k.idx, 8192, line, 0]])

/-- The words of a filled line that are invalid take what the fill read; one whose read failed keeps the fault (06, R159; 04, R90). -/
def landFill (s : State) (p : Parcel) (line : Nat) (k : GKey) (ps : List Part) : State :=
  let todo := ((List.range 32).map (fun i => 128 * line + 4 * i)).filter (fun w => !p.mvalid.contains w)
  let read : Nat → Option Part := fun w => ps.find? (fun q => q.cmp ≤ w && w < q.cmp + q.size)
  let good := todo.filter (fun w => (read w).elim false (fun q => q.err.isNone))
  let bad := todo.filterMap (fun w => (read w).bind (fun q => q.err.map (fun e => (w, e.1, k))))
  let s1 := good.foldl (fun (t : State) w => match read w with
    | some q => stashWrite t p.core w (leBytes 4 (q.res / 2 ^ (8 * (w - q.cmp))))
    | none => t) s
  setParcel s1 { p with mvalid := p.mvalid ++ good, mfill := p.mfill.filter (fun l => l != line), mbad := p.mbad ++ bad }

/-- MAPPED_FILL_LANDS: the line's merging fill from global memory lands once its reads are answered (06, R159); the fill of a group
that has gone starts again at the next touch. -/
def execMappedFillLands (k : PKey) (line : Nat) (s : State) : Res :=
  match parcelOf s k with
  | none => .next s
  | some p =>
    if !p.mfill.contains line then .next s
    else match fillOp s k line with
      | none => .next (setParcel s { p with mfill := p.mfill.filter (fun l => l != line) })
      | some o => .next (if o.parts.any (fun q => q.st != .done) || replyBehind s o then s
          else landFill (dropOp s o.id) p line o.g o.parts)

end Sys2Proof.Machine
end

