-- ==== Sys2Proof/Machine/WorkEv.lean ====
section
/-!
DEFINITION. Launches on their way: submission from the host, release, placement, start, end (17, R326-R341).
-/

namespace Sys2Proof.Machine

/-! ## Submission from the host (17, R338) -/

/-- LREQ (17, R338): a write while BUSY is ignored. -/
def execLreq (pid : Nat) (v : W64) (s : State) : Res :=
  let p := prtOf s pid
  if p.lres.getLsbD 62 then .next s
  else .next (serveLreq (setPrt s { p with lreq := v &&& 0x00FFFFFFFFFFFFC0#64 }) pid)

/-! ## Release (17, R328, R332) -/

def depMet (s : State) (sheet : Nat) (x : Nat × Nat × Nat) : Bool :=
  let r := recOf s sheet x.1 x.2.1
  if x.1 = 0 then r.out = 0 else (r.done + 2 ^ 32 - x.2.2 % 2 ^ 32) % 2 ^ 32 < 2 ^ 31

/-- LAUNCH_RELEASE (17, R332): none of a job whose cut is pending (20, R381). -/
def execLaunchRelease (h : Nat) (s : State) : Res :=
  match launchOf s h with
  | none => .next s
  | some l =>
    if l.st = .accepted && !cutPending s l && l.d.deps.all (depMet s (sheetOf l.pid)) && l.d.start ≤ s.time then
      .next (setLaunch s { l with st := .released })
    else .next s

/-! ## Placement (17, R330, R332; 07, R198, R202) -/

/-- The groups that a core must have room for when it takes a parcel: one, or all where the current-view graph has a cycle (07, R202;
17, R332). -/
def groupsNeeded (d : Desc) (p : Nat) : Nat := if hasCycle d then (parcelGroups d p).length else 1

/-- Quads that a parcel takes of its core's grant: those of its resident groups, its demand where it is pinned, and what it needs
while its launch `h` is being placed (DESIGN CHOICE: the spec does not say what a grant has free, log 66). -/
def takenQuads (s : State) (h : Nat) (p : Parcel) : Nat :=
  hqOf s p + (match launchOf s p.key.launch with
    | some l => if p.key.launch = h then groupsNeeded l.d p.key.idx * (l.d.gw / 4)
      else if l.pinned then max (residentQuads s p.key) (demand l.d p.key.idx)
      else residentQuads s p.key
    | none => 0)

/-- The free allowance of a partition on a core. -/
def freeAllowance (s : State) (h pid core : Nat) : Nat :=
  ownQuads s pid - ((parcelsOn s pid core).map (takenQuads s h)).sum

/-- A free range for the allotment (17, R330). -/
def freeStash (s : State) (core n : Nat) : Option Nat :=
  firstFit ((s.parcels.filter (fun p => p.core = core)).map (fun p => (p.base, p.size))) 0 (2 ^ 20) n

/-- Margin bytes that the parcels on a core need (07, R193). -/
def marginTaken (s : State) (core : Nat) : Nat :=
  ((s.parcels.filter (fun p => p.core = core)).map (fun p => match launchOf s p.key.launch with
    | some l => marginNeed l.d p.key.idx
    | none => 0)).sum

/-- A core's files hold the groups that a parcel needs beside those that are resident, and beside what parcels of the launch that is
being placed there need. Groups of a partition that has had its slice leave with it. -/
def filesHold (s : State) (l : Launch) (p core : Nat) : Bool :=
  let beside := (groups s).filter (fun h => h.live && h.resident && h.core = core && (h.pid = l.pid || (coreOf s core).mode = 1))
  let placing := ((s.parcels.filter (fun q => q.core = core && q.key.launch = l.handle && q.key.idx != p
    && !beside.any (fun h => parcelKey h = q.key))).map (fun q => groupsNeeded l.d q.key.idx)).sum
  filesFit s core l.pid l.d (groupsNeeded l.d p + placing) beside

/-- Where the graph has a cycle, the equal shares with the parcel there still hold the demands of the launch's parcels (07, R202). -/
def sharesHold (s : State) (l : Launch) (p core : Nat) : Bool :=
  let ps := (parcelsOn s l.pid core).filter (fun q => q.key != ⟨l.handle, p⟩)
  let ks := ps.map Parcel.key ++ [⟨l.handle, p⟩]
  let total := ownQuads s l.pid - (heldQuads s ps + l.d.hq)
  !hasCycle l.d || (ks.filter (fun k => k.launch = l.handle)).all (fun k =>
    demand l.d k.idx ≤ shareOf total ks.length (ks.filter (fun x => parcelBefore x k)).length)

/-- A core has what a parcel needs of it, its stash apart (17, R332): the free allowance. -/
def coreRoom (s : State) (h : Nat) (l : Launch) (p core : Nat) : Option Nat :=
  let free := freeAllowance s h l.pid core
  if !mayUse s l.pid core || free < l.d.hq + groupsNeeded l.d p * (l.d.gw / 4) || !filesHold s l p core || !sharesHold s l p core
      || 131072 < marginTaken s core + marginNeed l.d p then none
  else some free

/-- A core can hold the parcel (17, R332): its free allowance and the allotment's base. -/
def canHold (s : State) (l : Launch) (p core : Nat) : Option (Nat × Nat) :=
  match coreRoom s l.handle l p core with
  | none => none
  | some free => (freeStash s core l.d.stash).map (fun b => (free, b))

/-- Of some cores, the one with the most free allowance, the lowest number on a tie: core and base. -/
def bestCore (s : State) (l : Launch) (p : Nat) (cs : List Nat) : Option (Nat × Nat) :=
  let got := cs.filterMap (fun c => (canHold s l p c).map (fun x => (x.1, c, x.2)))
  (bestOf (fun a b => b.1 < a.1 || (a.1 = b.1 && a.2.1 < b.2.1)) got).map (fun x => x.2)

/-- The core of a parcel: an adjacent one, one of the die, any (17, R332). -/
def chooseCore (s : State) (l : Launch) (p : Nat) : Option (Nat × Nat) :=
  let home := parcelHome s l.pid l.d p
  let die := home / 64
  match bestCore s l p ((List.range 3).map (fun i => die * 192 + 3 * (home % 64) + i)) with
  | some x => some x
  | none => match bestCore s l p ((List.range 192).map (fun i => die * 192 + i)) with
    | some x => some x
    | none => bestCore s l p (List.range Config.cores)

/-- The parcels of the launch on this package. -/
def localParcels (s : State) (d : Desc) : List Nat := (List.range (parcelCount d)).filter (fun p => parcelPkg s d p = pkgNo s)

def newParcel (s : State) (l : Launch) (p core base : Nat) : Parcel :=
  { key := ⟨l.handle, p⟩, pid := l.pid, core := core, base := base, size := l.d.stash
    ngroups := (parcelGroups l.d p).length, gmax := maxGroups l.d, prodGid := producerOf l.d p, home := parcelHome s l.pid l.d p
    partial_ := [], cmds := [], started := [], seq := 0, q1 := [], lost := false, maps := List.replicate 16 none
    mvalid := [], mdirty := [], mfill := [], mbad := [], bfree := 0xFFFF#16 }

/-- Places the parcels one by one; none when one of them finds no core. -/
def placeParcels (s : State) (l : Launch) : List Nat → Option State
  | [] => some s
  | p :: ps =>
    match chooseCore s l p with
    | none => none
    | some (core, base) =>
      let s1 := markFull s core (linesOf base l.d.stash)
      placeParcels { s1 with parcels := s1.parcels ++ [newParcel s l p core base] } l ps

/-- A group of a parcel at its start (17, R330). -/
def newGroup (l : Launch) (p : Parcel) (pos gid gmax : Nat) : Group :=
  let g := Group.start ⟨l.handle, gid⟩ l.pid p.key.idx pos p.core l.d.gw (cellsOfGroup l.d gid).length l.d
  { g with
    stashbase := BitVec.ofNat 20 (p.base + l.d.hq * 512 + pos * l.d.frame)
    spill := BitVec.ofNat 20 (p.base + l.d.hq * 512 + gmax * l.d.frame + pos * l.d.spill)
    resident := false }

def newGroups (l : Launch) (p : Parcel) : List Group :=
  let gm := maxGroups l.d
  let gs := parcelGroups l.d p.key.idx
  (List.range gs.length).map (fun i => newGroup l p i (gs.getD i 0) gm)

/-- Groups become resident in ascending `%groupid` while the allowance lasts (07, R198). -/
def firstResidents (s : State) (k : PKey) (gs : List Group) : State :=
  gs.foldl (fun t g => match parcelOf t k, getG t g.key with
    | some p, some h => if fits t p h then enterCore t g.key else t
    | _, _ => t) s

/-- Each door's barrier is set as `binit` with 1 would (16, R322). -/
def setDoors (s : State) (l : Launch) : State :=
  match parcelOf s ⟨l.handle, 0⟩ with
  | none => s
  | some p => (List.range l.d.dcnt).foldl (fun t j => barWrite t p.core (p.base + doorStash l.d + 16 * j)
      { pend := 1, arr := 1, phase := false, err := false, perr := false, cause := 0 }) s

/-- Step packets held for the launch go on (17, R333). -/
def landEarly (s : State) (l : Launch) : State :=
  let mine : Packet → Bool := fun k => imgRead k.data 0 4 = l.d.job && imgRead k.data 4 4 = l.d.lkey.toNat
    && imgRead k.data 24 4 = l.d.span.toNat
  if l.d.span = 0#32 then s
  else (s.net.early.filter mine).foldl (fun t k => landStep t l k)
    { s with net := { s.net with early := s.net.early.filter (fun k => !mine k) } }

/-- The launch with its parcels in place; none where it cannot be placed. -/
def place (s : State) (l : Launch) : Option State :=
  match placeParcels s l (localParcels s l.d) with
  | none => none
  | some s1 =>
    if hasCycle l.d && !demandMet s1 l then none
    else
      let l' := { l with st := .placed, pinned := hasCycle l.d }
      let ps := s1.parcels.filter (fun p => p.key.launch = l.handle)
      let s2 : State := { setLaunch s1 l' with others := s1.others ++ (ps.map (newGroups l)).flatten }
      let s3 := ps.foldl (fun t p => firstResidents t p.key (newGroups l p)) s2
      some (landEarly (setDoors s3 l') l')

/-- Released launches of the sheet that go before it. -/
def aheadOf (s : State) (l : Launch) : Bool :=
  s.launches.any (fun x => x.st = .released && sheetOf x.pid = sheetOf l.pid && x.handle != l.handle
    && (l.d.prio < x.d.prio || (x.d.prio = l.d.prio && x.order < l.order)))

/-- LAUNCH_PLACEMENT (17, R332). -/
def execLaunchPlacement (h : Nat) (s : State) : Res :=
  match launchOf s h with
  | none => .next s
  | some l => if l.st = .released && !aheadOf s l then .next ((place s l).getD s) else .next s

/-! ## Ends (17, R326) -/

/-- Nothing of the launch goes on, or it is being removed. -/
def mayEndLaunch (s : State) (l : Launch) : Bool :=
  l.st = .leaving || l.st = .placed
    && ((groups s).filter (fun g => g.live && g.key.launch = l.handle)).all (fun g => g.stop = .ended)
    && (s.parcels.filter (fun p => p.key.launch = l.handle)).all (fun p => p.cmds = [] && p.started = [])
    && (l.d.hq = 0 || !s.msgs.any (fun m => m.p.launch = l.handle))

/-- LAUNCH_END (17, R326, R337). -/
def execLaunchEnd (h : Nat) (s : State) : Res :=
  match launchOf s h with
  | none => .next s
  | some l => if mayEndLaunch s l then .next (leaveLaunch s h) else .next s

/-- RECORD_DROP (17, R326): 4 ms after OUT reached 0; a job's record stays. -/
def execRecordDrop (sheet lvl h : Nat) (s : State) : Res :=
  match s.recs.find? (fun r => r.sheet = sheet && r.lvl = lvl && r.h = h) with
  | none => .next s
  | some r =>
    if lvl < 3 && r.out = 0 && r.zeroAt + 4000000 ≤ s.time then .next { s with recs := s.recs.erase r } else .next s

end Sys2Proof.Machine
end

