-- ==== Sys2Proof/Machine/SliceEv.lean ====
section
/-!
DEFINITION. Time-shared cores: slices begin, end, and are forced to their end (06, R171; 18, R350-R351).
-/

namespace Sys2Proof.Machine

/-! ## Runnable work (18, R350) -/

/-- A group has something to run: it waits at no blocking point whose wake condition is false. -/
def hasWork (s : State) (g : Group) : Bool :=
  g.live && (match g.stop with
    | .running => !blocked s g
    | .stopping _ => true
    | .held _ => wakeHolds s g || !(slotStates s g).contains (.blocked false)
    | _ => false)

def runnable (s : State) (pid core : Nat) : Bool :=
  (groups s).any (fun g => g.pid = pid && g.core = core && hasWork s g)
    || (parcelsOn s pid core).any (fun p => (launchOf s p.key.launch).elim false (fun l => (spawnable s p l).isSome))

/-- The partitions that share a listed partition's time: a sheet's own and its insets' (18, R346). -/
def membersOf (pid : Nat) (others : List Nat) : List Nat :=
  if pid % 8 = 0 then pid :: ((List.range 4).map (fun i => pid + 1 + i)).filter (fun p => !others.contains p) else [pid]

/-- The partitions that a core lists. -/
def listed (r : CoreRec) : List Nat := r.pids.filter (fun p => p != 0x3FF)

def runnableUnder (s : State) (r : CoreRec) (pid : Nat) : Bool :=
  (membersOf pid (listed r)).any (fun p => runnable s p r.core)

/-- The first of some partitions by virtual time, ties to the lower id; those of weight 0 only where no other is runnable. -/
def leastTime (s : State) (vt : Prt → Nat) (ps : List Nat) : Option Nat :=
  let w := ps.filter (fun p => (prtOf s p).weight != 0)
  let c := if w = [] then ps else w
  bestOf (fun a b => vt (prtOf s a) < vt (prtOf s b) || (vt (prtOf s a) = vt (prtOf s b) && a < b)) c

/-- Partitions that have become runnable among some take a virtual time no lower than the least of those that were. -/
def catchUp (s : State) (inner : Bool) (was now_ : List Nat) : State :=
  let vt : Prt → Nat := fun p => if inner then p.vin else p.vtime
  match (now_.filter (fun p => was.contains p)).map (fun p => vt (prtOf s p)) with
  | [] => s
  | v :: vs =>
    let low := vs.foldl min v
    (now_.filter (fun p => !was.contains p)).foldl (fun t p =>
      let q := prtOf t p
      setPrt t (if inner then { q with vin := max low q.vin } else { q with vtime := max low q.vtime })) s

/-- The listed partitions of a core that have runnable work, and the members that have. -/
def readyOuter (s : State) (r : CoreRec) : List Nat := (listed r).filter (runnableUnder s r)

def readyInner (s : State) (r : CoreRec) : List Nat :=
  (((listed r).map (fun p => membersOf p (listed r))).flatten).filter (fun p => runnable s p r.core)

/-- A turn has passed: what has become runnable on a time-shared core is noted, level by level (18, R350). -/
def noteShares (s : State) : State :=
  (s.cores.filter (fun r => r.mode = 2)).foldl (fun t r =>
    let o := readyOuter t r
    let i := readyInner t r
    if o = r.readyO && i = r.readyI then t
    else
      let t1 := (listed r).foldl (fun u p => catchUp u true r.readyI ((membersOf p (listed r)).filter (fun q => i.contains q)))
        (catchUp t false r.readyO o)
      setCore t1 { coreOf t1 r.core with readyO := o, readyI := i }) s

/-- A partition of weight 0 gives way: another one among some is runnable and has weight (18, R350). -/
def givesWay (s : State) (pid : Nat) (ps : List Nat) : Bool :=
  (prtOf s pid).weight = 0 && ps.any (fun p => p != pid && (prtOf s p).weight != 0)

/-! ## A slice begins -/

/-- Groups of a parcel are admitted while they fit. -/
def admitAll (s : State) (k : PKey) : Nat → State
  | 0 => s
  | n + 1 =>
    match parcelOf s k with
    | none => s
    | some p => match entrantOf s p with
      | none => s
      | some g => admitAll (enterCore s g.key) k n

/-- The groups of a partition on a core are admitted. -/
def admitOn (s : State) (pid core : Nat) : State :=
  (parcelsOn s pid core).foldl (fun t p =>
    let t1 := ((groups t).filter (fun g => g.handler.isSome && g.key.launch = p.key.launch && g.parcel = p.key.idx && eligible t g)).foldl
      (fun u g => if slotsFit u g.core g.width then enterCore u g.key else u) t
    admitAll t1 p.key (parcelMembers t1 p.key).length) s

def residentsOf (s : State) (pid core : Nat) : List GKey :=
  ((groups s).filter (fun g => g.live && g.resident && g.pid = pid && g.core = core)).map (fun g => g.key)

/-- The partition's groups come to the core: alongside those that have stayed in place there, if the files hold them (18, R351). -/
def comeIn (s : State) (pid core : Nat) : State :=
  let a := admitOn s pid core
  if !(groups a).any (fun g => g.inPlace && g.core = core) then a
  else
    let b := admitOn (makeRoom s core) pid core
    if (residentsOf b pid core).all (fun k => (residentsOf a pid core).contains k) then a else b

/-- The listed partition whose slice the next one falls in: the one whose quantum runs, else the one chosen by virtual time. -/
def topOf (s : State) (r : CoreRec) : Option (Nat × CoreRec) :=
  let outer := readyOuter s r
  let new := (leastTime s Prt.vtime outer).map (fun top =>
    (top, { r with top := some top, topEnd := s.time + 1000 * (prtOf s top).quantum, topUsed := 0 }))
  match r.top with
  | some top => if s.time < r.topEnd && outer.contains top && !givesWay s top outer then some (top, r) else new
  | none => new

/-- SLICE_START (18, R350): a member of a listed partition takes the core for its quantum, inside the listed partition's own. -/
def execSliceStart (core : Nat) (s : State) : Res :=
  let r := coreOf s core
  if r.mode != 2 || r.running.isSome then .next s
  else match topOf s r with
    | none => .next s
    | some (top, r1) =>
      match leastTime s Prt.vin ((membersOf top (listed r)).filter (fun p => runnable s p core)) with
      | none => .next s
      | some pid =>
        let s1 := setCore s { r1 with running := some pid, sliceAt := s.time
                                      sliceEnd := min r1.topEnd (s.time + 1000 * (prtOf s pid).quantum) }
        .next (comeIn s1 pid core)

/-! ## A slice ends (18, R351) -/

/-- The partition's resident groups on a core, those already stopped apart. -/
def toStop (s : State) (pid core : Nat) : List Group :=
  (groups s).filter (fun g => g.live && g.resident && g.pid = pid && g.core = core
    && (match g.stop with
      | .running => true
      | .stopping _ => true
      | .pageWait _ => true
      | _ => false))

/-- Every path counter is 0 and every flag is clear. -/
def settledGroup (s : State) (g : Group) : Bool :=
  (List.range 4).all (fun i => pathCount s g.key i = 0) && g.flags.all (fun n => n = 0)

/-- The group is stopped for the end of the slice. -/
def sliceStop (s : State) (g : Group) : State :=
  if inPageWait g then updG s g.key (fun h => { h with resident := false, ranAt := s.time })
  else withFocus s g.key s.slot (fun t =>
    tryLand { t with g := { t.g with stop := .stopping { cause := .dbgStop }, why := .slice } })

/-- A group that may stop now does. -/
def sliceStopIf (s : State) (g : Group) : State :=
  match g.stop with
  | .stopping _ => if g.why = .slice then withFocus s g.key s.slot tryLand else s
  | _ => if g.super then s else if blocked s g || (sliceHold s g && settledGroup s g) then sliceStop s g else s

/-! ## The page-request queue (18, R352) -/

/-- Below its caps, a sheet could take an entry of the shared pool or of its own. -/
def sharedOf (s : State) (sheet : Nat) : Nat :=
  ((s.prts.filter (fun p => sheetOf p.pid = sheet)).map (fun p => (p.preqs.filter (fun e => !e.rsv)).length)).sum

/-- The waiting faults that could be admitted now: partition and number. -/
def admissible (s : State) : List (Nat × Nat) :=
  (s.prts.map (fun p => if (admitPReq s p.pid).isSome then p.refused.map (fun r => (p.pid, r.1)) else [])).flatten

/-- The waiting fault that a freed entry goes to: its sheet's oldest for a reserved one; for a shared one, that of the
sheet that holds the fewest shared entries, ties to the oldest. -/
def nextWaiting (s : State) (sheet : Nat) (rsv : Bool) : Option (Nat × Nat) :=
  let l := (admissible s).filter (fun x => !rsv || sheetOf x.1 = sheet)
  bestOf (fun a b =>
    let m := sharedOf s (sheetOf a.1)
    let n := sharedOf s (sheetOf b.1)
    if rsv || m = n then a.2 < b.2 else m < n) l

/-- A waiting fault takes its entry, and every other one of the same page and kind joins it. -/
def admitWaiting (s : State) (pid n : Nat) : State :=
  let p := prtOf s pid
  match p.refused.find? (fun r => r.1 = n) with
  | none => s
  | some (_, g, f) =>
    let same : Nat × Option GKey × Frame → Bool := fun r => r.2.2.addr / 4096 = f.addr / 4096 && r.2.2.acc = f.acc
    let s1 := setPrt s { p with refused := p.refused.filter (fun r => !same r) }
    (p.refused.filter (fun r => same r && r.1 != n)).foldl (fun t r => pageRequest t pid r.2.1 r.2.2) (pageRequest s1 pid g f)

/-- An entry leaves the queue with its record, before what waited on it goes on. -/
def takePReq (s : State) (pid : Nat) (e : PReq) : State :=
  let p := prtOf s pid
  setPrt s { p with preqs := p.preqs.filter (fun x => x.seq != e.seq), recs := p.recs.filter (fun r => r.seq != e.seq) }

/-- The freed entry goes to a waiting fault. -/
def passPReq (s : State) (pid : Nat) (e : PReq) : State :=
  match nextWaiting s (sheetOf pid) e.rsv with
  | some (q, n) => admitWaiting s q n
  | none => s

/-- A page request that only a sector waits for is withdrawn, by page and kind, and its entry goes to a waiting fault (06, R171; 18,
R352). -/
def withdraw (s : State) (pid page : Nat) (acc : Acc) : State :=
  let p := prtOf s pid
  let still := (s.parcels.filter (fun q => q.pid = pid)).any (fun q => q.started.any (fun x => match x.paused with
    | some (_, c, a) => a / 4096 = page && (if c = .pfWrite then Acc.write else Acc.read) = acc
    | none => false))
  if still then s
  else
    let s1 := setPrt s { p with refused := p.refused.filter (fun r => r.2.1.isSome || r.2.2.addr / 4096 != page || r.2.2.acc != acc) }
    match p.preqs.find? (fun e => e.groups = [] && e.page = page && e.acc = acc) with
    | some e => passPReq (setPrt s1 { prtOf s1 pid with preqs := p.preqs.filter (fun x => x.seq != e.seq) }) pid e
    | none => s1

/-- The parcel's streamer work stops: what has landed above the prefix is written again later (06, R171). -/
def stopStreamer (s : State) (p : Parcel) : State :=
  let pages := p.started.filterMap (fun x => x.paused.map (fun y => (y.2.2 / 4096, if y.2.1 = .pfWrite then Acc.write else Acc.read)))
  let s1 := p.started.foldl (fun t x => dropEngine t ⟨p.key.launch, p.prodGid⟩ p.key.idx x.cmd.seq 0) s
  let s2 := setParcel s1 { p with started := p.started.map (fun x =>
    { x with paused := none, landed := if cmdKind x.cmd = 6 then
        x.landed.filter (fun i => i % sectorCount x.cmd < recvPrefix x.cmd x.landed (i / sectorCount x.cmd))
      else x.landed.filter (fun i => i < x.pre) }) }
  pages.foldl (fun t pg => withdraw t p.pid pg.1 pg.2) s2

/-- Virtual time passes: u × 65,536 / WEIGHT for a slice of u µs (18, R350). -/
def chargeTime (s : State) (pid : Nat) (inner : Bool) (ns : Nat) : State :=
  let p := prtOf s pid
  if p.weight = 0 then s
  else
    let d := ns * 65536 / (1000 * p.weight)
    setPrt s (if inner then { p with vin := p.vin + d } else { p with vtime := p.vtime + d })

/-- The listed partition's slice is over: its quantum, or its runnable work, or another of weight has work (18, R350). -/
def topOver (s : State) (r : CoreRec) (top : Nat) : Bool :=
  r.topEnd ≤ s.time || !runnableUnder s r top || givesWay s top (readyOuter s r)

/-- The slice is over once every group has stopped. -/
def finishSlice (s : State) (pid core : Nat) : State :=
  if toStop s pid core != [] then s
  else
    let r := coreOf s core
    let used := r.topUsed + (r.stopAt - r.sliceAt)
    let s1 := chargeTime ((parcelsOn s pid core).foldl stopStreamer s) pid true (r.stopAt - r.sliceAt)
    let r1 := { coreOf s1 core with running := none, stopping := false, topUsed := used }
    match r.top with
    | some top => if topOver s1 r top then chargeTime (setCore s1 { r1 with top := none }) top false used else setCore s1 r1
    | none => setCore s1 r1

/-! ## Parcels that move (18, R346; 19, R371) -/

/-- Cells `a .. a + n - 1` of a list go to `b`, in place of what is there. -/
def moveCells (m : List Host.Cell) (a b n : Nat) : List Host.Cell :=
  let out := m.filter (fun c => a ≤ c.1 && c.1 < a + n)
  (out.map (fun c => (c.1 - a + b, c.2))).foldl (fun l c => cellSet l c.1 c.2)
    (m.filter (fun c => !(a ≤ c.1 && c.1 < a + n) && !(b ≤ c.1 && c.1 < b + n)))

/-- A core can take a parcel at the stash range that its groups know: their registers and their programs hold offsets of the stash,
which a move does not change (06, R157; 19, R371; DESIGN CHOICE, log 67). -/
def canTake (s : State) (l : Launch) (p : Parcel) (core : Nat) : Option Nat :=
  if core = p.core || coreIsolated s core
      || s.parcels.any (fun q => q.core = core && q.base < p.base + p.size && p.base < q.base + q.size) then none
  else coreRoom s 0 l p.key.idx core

def takeBest (s : State) (l : Launch) (p : Parcel) (cs : List Nat) : Option Nat :=
  (bestOf (fun a b => b.1 < a.1 || (a.1 = b.1 && a.2 < b.2)) (cs.filterMap (fun c => (canTake s l p c).map (fun x => (x, c))))).map
    (fun x => x.2)

/-- The new core of a parcel, in the order of placement. -/
def newCore (s : State) (l : Launch) (p : Parcel) : Option Nat :=
  let die := p.home / 64
  match takeBest s l p ((List.range 3).map (fun i => die * 192 + 3 * (p.home % 64) + i)) with
  | some c => some c
  | none => match takeBest s l p ((List.range 192).map (fun i => die * 192 + i)) with
    | some c => some c
    | none => takeBest s l p (List.range Config.cores)

/-- The dirty mapped words of a parcel that moves are written back by its producer group, and those stores are accepted (06, R160); or a
state in which they are on their way. -/
def dirtyStored (s : State) (p : Parcel) : Except State State :=
  match getG s ⟨p.key.launch, p.prodGid⟩ with
  | none => .ok s
  | some g => if groupBusy s g.key then .error s
    else match dirtyParts s g (fun _ => true) with
      | [] => .ok s
      | ps => .error (addNumbered (cleanWords s g (fun _ => true)) (ownStore g ps))

/-- A stopped parcel moves to a core: allotment, margin slots and groups. What its groups stored is published as forced publications, and
goes on to the host; the peers are told (19, R371). -/
def moveParcel (s : State) (p : Parcel) (core : Nat) : State :=
  let mine : GKey → Bool := fun k => (getG s k).elim false (fun g => g.key.launch = p.key.launch && g.parcel = p.key.idx)
  let own : Unpub → Bool := fun u => u.core = p.core && u.writers.any mine
  let s0 := ((groups s).filter (fun g => g.key.launch = p.key.launch && g.parcel = p.key.idx)).foldl
    (fun t g => tellAway (leaveFiles t g.key) g []) s
  let s1 := forceOut s0 own
  let f : Group → Group := fun g => if g.key.launch = p.key.launch && g.parcel = p.key.idx then { g with core := core } else g
  let line : Nat → Nat := fun k => if lineKey p.core (p.base / 128) ≤ k && k < lineKey p.core ((p.base + p.size) / 128)
    then k - lineKey p.core 0 + lineKey core 0 else k
  setParcel { s1 with
    g := f s1.g, others := s1.others.map f
    stash := moveCells s1.stash (stashKey p.core p.base) (stashKey core p.base) p.size
    emptyLines := s1.emptyLines.map line
    ops := s1.ops.map (fun o => if mine o.g then { o with core := core } else o)
    margin := s1.margin.map (fun m => if m.launch = p.key.launch && m.parcel = p.key.idx then { m with core := core } else m)
    mbuf := s1.mbuf.map (fun m => if m.launch = p.key.launch && m.parcel = p.key.idx then { m with core := core } else m) }
    { (parcelOf s1 p.key).getD p with core := core }

/-- Groups of a core whose partitions may not stay stop; parcels that have stopped move where they can. -/
def leaveCore (s : State) (core : Nat) (force : Group → Bool) : State :=
  let out : Group → Bool := fun g => g.live && g.resident && g.core = core && mayNotStay s g
    && (match g.stop with
      | .running => true
      | .stopping _ => true
      | .pageWait _ => true
      | _ => false)
  let s1 := ((groups s).filter out).foldl (fun t g => match getG t g.key with
    | some h => if force h && h.stop = .running && !h.super then
        addRecord (sliceStop t h) h.pid 3 (some h.key) none { cause := .sliceForced, time := t.time }
      else sliceStopIf t h
    | none => t) s
  (s1.parcels.filter (fun p => p.core = core && !mayUse s1 p.pid core)).foldl (fun t p =>
    if (groups t).any (fun g => g.key.launch = p.key.launch && g.parcel = p.key.idx && out g) then t
    else match launchOf t p.key.launch with
      | some l => (match newCore t l p, parcelOf (stopStreamer t p) p.key, dirtyStored (stopStreamer t p) p with
        | some _, some _, .error u => u
        | some c, some q, .ok u => moveParcel u q c
        | _, _, _ => t)
      | none => t) s1

/-- What runs has weight 0, or is of a listed partition that has, and work of weight has come (18, R350). -/
def displaced (s : State) (r : CoreRec) (pid : Nat) : Bool :=
  givesWay s pid (r.top.elim [] (fun top => (membersOf top (listed r)).filter (fun p => runnable s p r.core)))
    || r.top.elim false (fun top => givesWay s top (readyOuter s r))

/-- SLICE_END (18, R351): at the quantum's end, or when the partition has nothing more to run; again while its groups
stop. -/
def execSliceEnd (core : Nat) (s0 : State) : Res :=
  let s := leaveCore s0 core (fun _ => false)
  let r := coreOf s core
  match r.running with
  | none => .next s
  | some pid =>
    if !r.stopping && s.time < r.sliceEnd && runnable s pid core && !displaced s r pid then .next s
    else
      let s1 := if r.stopping then s else setCore s { r with stopping := true, stopAt := s.time }
      .next (finishSlice ((toStop s1 pid core).foldl (fun t g => match getG t g.key with
        | some h => sliceStopIf t h
        | none => t) s1) pid core)

/-- SAVE_TIMEOUT (18, R351): what has not stopped is stopped where it is, and SLICE_FORCED is logged. -/
def execSaveTimeout (core : Nat) (s0 : State) : Res :=
  let s := leaveCore s0 core (fun g => (coreOf s0 core).leaveAt + 1000 * (prtOf s0 g.pid).saveto ≤ s0.time)
  let r := coreOf s core
  match r.running with
  | none => .next s
  | some pid =>
    if !r.stopping || s.time < r.stopAt + 1000 * (prtOf s pid).saveto then .next s
    else .next (finishSlice ((toStop s pid core).foldl (fun t g => match getG t g.key with
      | some h => (match h.stop with
        | .running => if h.super then t else
          addRecord (sliceStop t h) pid 3 (some h.key) none { cause := .sliceForced, time := t.time }
        | _ => sliceStopIf t h)
      | none => t) s) pid core)

end Sys2Proof.Machine
end

