-- ==== Sys2Proof/Machine/EventEv.lean ====
section
/-!
DEFINITION. The event ring and its answers, page requests served, table walks, invalidation (18, R352; 19, R362-R363,
R375-R377).
-/

namespace Sys2Proof.Machine

/-! ## Answers (19, R362-R363) -/

/-- A stopped group goes on as `rett` has it; one that is not on its core, or whose partition does not run there now, when it
is admitted again. -/
def answerResume (s : State) (g : Group) : State :=
  if g.resident && coreRuns s g.pid g.core then resumeGroup s g.key
  else updG s g.key (fun h => { h with stop := .held (frameOf h), resident := false })

/-- A group's fault is the one of the entry. -/
def waitsFor (e : PReq) (f : Frame) : Bool := f.addr / 4096 = e.page && f.acc = e.acc

/-- What the end of a page request does to a group that waits on it: for the fault that it has parked, and for its own. -/
def answerGroup (s : State) (e : PReq) (fail : Bool) (k : GKey) : State :=
  match getG s k with
  | none => s
  | some g =>
    let parked : State := match g.park with
      | some p => if waitsFor e p.frame then updG s k (fun h => { h with contDone := some fail }) else s
      | none => s
    match g.stop with
    | .pageWait f =>
      if !waitsFor e f then parked
      else if fail then withFocus parked k parked.slot (fun t => deliverTrap t f)
      else answerResume parked ((getG parked k).getD g)
    | _ => parked

/-- Sectors that wait on the page go on: they reissue, or their commands end (06, R168). -/
def answerSectors (s : State) (pid : Nat) (e : PReq) (fail : Bool) : State :=
  (s.parcels.filter (fun p => p.pid = pid)).foldl (fun t p =>
    p.started.foldl (fun u x => match x.paused, parcelOf u p.key with
      | some (_, c, a), some q =>
        if a / 4096 = e.page && (if c = .pfWrite then e.acc = .write else e.acc = .read) then
          (if fail then endFault u q x.cmd x.landed x.pre c else putStarted u p.key { x with paused := none })
        else u
      | _, _ => u) t) s

/-- The record that an answer names, if the device has written it. -/
def recordOf (s : State) (pid : Nat) (seq : W32) : Option EvRec :=
  (prtOf s pid).recs.find? (fun r => r.seq % 2 ^ 32 = seq.toNat && r.written)

def entryFor (s : State) (pid : Nat) (r : EvRec) : Option PReq := (prtOf s pid).preqs.find? (fun e => e.seq = r.seq)

/-- The page request is completed with RESUME or FAIL: its entry goes to the waiting fault (18, R352), and what waited on it goes on. -/
def answerPage (s : State) (pid : Nat) (e : PReq) (fail : Bool) : State :=
  answerSectors (e.groups.foldl (fun t k => answerGroup t e fail k) (passPReq (takePReq s pid e) pid e)) pid e fail

def dropRecord (s : State) (pid seq : Nat) : State :=
  let p := prtOf s pid
  setPrt s { p with recs := p.recs.filter (fun r => r.seq != seq) }

/-- EVRESP as it was written last. -/
def noteResp (s : State) (pid action : Nat) (seq : W32) : State :=
  setPrt s { prtOf s pid with evresp := BitVec.ofNat 64 (action * 2 ^ 32 + seq.toNat) }

/-- The group that a trap record names, stopped under HOST; a notice stops none. -/
def stoppedGroup (s : State) (r : EvRec) : Option Group :=
  if r.kind != 2 then none
  else match r.g.bind (getG s) with
  | some g => (match g.stop with
    | .hostWait _ => some g
    | _ => none)
  | none => none

/-- EVRESP_RESUME (19, R363). -/
def execEvrespResume (pid : Nat) (seq : W32) (s : State) : Res :=
  let s1 := noteResp s pid 0 seq
  match recordOf s pid seq with
  | none => .next s1
  | some r =>
    if r.kind = 1 then (match entryFor s pid r with
      | some e => .next (answerPage s1 pid e false)
      | none => .next s1)
    else match stoppedGroup s r with
      | some g => .next (answerResume (dropRecord s1 pid r.seq) g)
      | none => .next s1

/-- EVRESP_FAIL (19, R363): a page request only. -/
def execEvrespFail (pid : Nat) (seq : W32) (s : State) : Res :=
  let s1 := noteResp s pid 1 seq
  match recordOf s pid seq with
  | none => .next s1
  | some r => match entryFor s pid r with
    | some e => if r.kind = 1 then .next (answerPage s1 pid e true) else .next s1
    | none => .next s1

/-- EVRESP_CANCEL (19, R363): as `cancel.l` of the launch of every group that waits; sectors go on. -/
def execEvrespCancel (pid : Nat) (seq : W32) (s : State) : Res :=
  let s1 := noteResp s pid 2 seq
  let sheet := sheetOf pid
  match recordOf s pid seq with
  | none => .next s1
  | some r =>
    if r.kind = 1 then (match entryFor s pid r with
      | some e =>
        let s2 := e.groups.foldl (fun t k => if (getG t k).isSome then cancelRec t sheet 0 k.launch else t)
          (passPReq (takePReq s1 pid e) pid e)
        .next (answerSectors s2 pid e false)
      | none => .next s1)
    else match stoppedGroup s r with
      | some g => .next (cancelRec (dropRecord s1 pid r.seq) sheet 0 g.key.launch)
      | none => .next s1

/-! ## Records reach the ring (19, R363) -/

/-- The 64 bytes of a record; the order of kind and sequence number is the model's (log 25). -/
def recordBytes (r : EvRec) : List Byte := leBytes 4 r.seq ++ leBytes 4 r.kind ++ r.bytes.take 56

/-- EVENT_RECORD_WRITE (19, R363): the oldest record not yet written, when the ring has room. -/
def execEventRecordWrite (pid : Nat) (s : State) : Res :=
  let p := prtOf s pid
  match p.recs.find? (fun r => !r.written) with
  | none => .next s
  | some r =>
    if p.evsize ≤ p.evtail - p.evhead then .next s
    else
      let at_ := p.evbase.toNat + 64 * (p.evtail % p.evsize)
      let bs := recordBytes r
      .next (setPrt { s with hostOut := s.hostOut ++ (List.range 64).map (fun i => (hostKey pid (at_ + i), bs.getD i 0#8)) }
        { p with evtail := p.evtail + 1, recs := p.recs.map (fun x => if x.seq = r.seq then { x with written := true } else x) })

/-! ## Walks (19, R375-R376) -/

/-- The instruction that missed, for EVT 4: the running clause's, else the scalar PC. -/
def missPc (s : State) : W64 :=
  match (cur s).cq with
  | e :: _ => if e.running then BitVec.ofNat 64 (lanePc e) else (cur s).pc
  | [] => (cur s).pc

/-- PAGE_WALK: a miss in the core's TLB is counted, and a walk that finds a translation installs it (19, R375-R376). -/
def execPageWalk (core pid va : Nat) (acc : Acc) (s : State) : Res :=
  if s.tlb1.any (fun e => e.own = core && e.pid = pid && e.page = va / 4096 && permOk acc e.r e.w e.x) then .next s
  else
    let s1 := if s.g.live && s.g.core = core && s.g.pid = pid then noteEvent s s.g 4 (missPc s) 1 else countEvc s pid 4 1
    .next (installTlb s1 core pid va acc)

end Sys2Proof.Machine
end

