-- ==== Sys2Proof/Machine/MailEv.lean ====
section
/-!
DEFINITION. The Burard mailbox: senders and answers; budgets, ownership, roots, invalidation (18, R344-R348; 19, R373,
R377; 22, R409-R413).
-/

namespace Sys2Proof.Machine

/-! ## Senders and answers (22, R409-R412) -/

def okRes : Nat := 0
def rangeRes : Nat := 6
def busyRes : Nat := 7
def notSender : Nat := 0xFFFF

/-- An unknown command or a short block (22, R412). -/
def shortRes : Nat := 0xFFFE

/-- The fabric manager's senders. -/
def fmSender (snd : Sender) : Bool :=
  match snd.who with
  | .fmLd => true
  | .mgmt => true
  | _ => false

/-- The partition's own LD and the FM-owned one. -/
def ownSender (snd : Sender) (pid : Nat) : Bool :=
  match snd.who with
  | .fmLd => true
  | .ld q => q = pid
  | _ => false

/-- A sender of observation requests on a package-wide unit. -/
def obsSender (snd : Sender) : Bool :=
  match snd.who with
  | .mgmt => false
  | _ => true

/-- CKPT and RESTORE, whose RSV fields nothing checks (00, R5; 20, R380). -/
def ckptCmd (cmd : Nat) : Bool := cmd = 0x20 || cmd = 0x21

/-- The commands that come with no block (22, R412). -/
def noBlock (cmd : Nat) : Bool := cmd = 9 || cmd = 10 || cmd = 0x13 || cmd = 0x14

/-- The result that refuses a request for its form: a block that is short, an ARG that is not listed, or an RSV byte that is not zero
(18, R347; 20, R380; 22, R411-R412). -/
def formRes (snd : Sender) (cmd : Nat) : Option Nat :=
  if snd.cutShort && !noBlock cmd then some shortRes
  else if snd.odd then some (if ckptCmd cmd then 3 else rangeRes)
  else if snd.bad && !ckptCmd cmd then some rangeRes else none

/-- A request that only some senders may make (22, R410); one sent while the sender's BUSY is 1 is ignored (22, R409), and one of a
wrong form is refused. Which of two refusals comes first is the model's choice: the sender's, then the block's length, then its bytes
(DESIGN CHOICE, log 27). -/
def request_ (s : State) (snd : Sender) (cmd : Nat) (ok : Bool) (k : State) : Res :=
  .next (if boxBusy s snd then s else if !ok then answer s snd cmd notSender 0 []
    else match formRes snd cmd with
      | some r => answer s snd cmd r 0 []
      | none => k)

/-- The commands that BMGO names (22, R412). -/
def knownCmd (cmd : Nat) : Bool := (1 ≤ cmd && cmd ≤ 10) || (0x10 ≤ cmd && cmd ≤ 0x15) || cmd = 0x20 || cmd = 0x21

/-- A partition id names a partition (18, R343). -/
def pidOk (pid : Nat) : Bool := pid < 1024 && pid % 8 ≤ 4

/-! ## Budgets (18, R344-R348) -/

def blkByte (b : BitVec 1024) (o n : Nat) : Nat := b.toNat / 2 ^ (8 * o) % 2 ^ (8 * n)

/-- SAVEMAX (18, R348). -/
def saveMax (saveto quads : Nat) : Nat := saveto + (quads + 19) / 20

/-- The budget fields of a block laid over a partition's record; at the basic level the expert fields take their
defaults (00, R3). -/
def budgetOf (p : Prt) (b : BitVec 1024) : Prt :=
  let r := blkByte b
  let x := r 3 1 % 2 = 1
  let q : Prt := { p with written := true, quads := r 0 2, weight := r 2 1, lvl := r 3 1 % 2, quantum := r 4 4, hbmsh := r 8 2 }
  if x then { q with tamsh := r 10 2, tksh := r 12 2, tk3q := r 14 2, prqcap := r 16 2, saveto := r 18 2
                     slmask := some (BitVec.ofNat 256 (r 24 32)), ways := r 76 1 }
  else { q with tamsh := r 8 2, tksh := 0, tk3q := 64, prqcap := 1024, saveto := 20, slmask := none, ways := 0 }

/-- RSV bytes are zero and every field lies in its range. -/
def budgetRange (b : BitVec 1024) (p : Prt) : Bool :=
  let r := blkByte b
  r 56 8 = 0 && r 20 4 = 0 && r 3 1 < 2 && r 64 12 = 0 && r 77 51 = 0
    && p.quads ≤ 512 && p.hbmsh ≤ 1024 && p.tamsh ≤ 1024 && p.tksh ≤ 1024 && p.ways ≤ 16
    && 8 ≤ p.prqcap && p.prqcap ≤ 1024 && 5 ≤ p.saveto && p.saveto ≤ 200 && p.quantum ≤ 1000000

/-- The guaranteed quantities (18, R345). -/
def guarantees (p : Prt) : List Nat := [p.quads, p.hbmsh, p.tamsh, p.ways, p.tksh, p.tk3q]

/-- The children of a sheet: the insets whose budgets have been written (log 68). -/
def insetsOf (s : State) (sheet : Nat) : List Prt := s.prts.filter (fun p => sheetOf p.pid = sheet && p.pid % 8 != 0 && p.written)

/-- A child stays within its parent: values, mask and cap. -/
def withinParent (s : State) (c p : Prt) : Bool :=
  ((guarantees c).zip (guarantees p)).all (fun x => x.1 ≤ x.2) && c.prqcap ≤ p.prqcap
    && c.slmask.getD (defaultMask s c.pid) &&& ~~~(p.slmask.getD (defaultMask s p.pid)) = 0#256

/-- The children's sums stay within the parent. -/
def sumsWithin (cs : List Prt) (p : Prt) : Bool :=
  (List.range 6).all (fun i => (cs.map (fun c => (guarantees c).getD i 0)).sum ≤ (guarantees p).getD i 0)

/-- The sums over the 128 sheets stay within the package; ways and entries slice by slice. -/
def packageSums (s : State) (p : Prt) : Bool :=
  let sheets := (List.range 128).map (fun i => if 8 * i = p.pid then p else prtOf s (8 * i))
  (sheets.map Prt.hbmsh).sum ≤ 1024 && (sheets.map Prt.tamsh).sum ≤ 1024 && (sheets.map Prt.tk3q).sum ≤ 262144
    && (List.range Config.slices).all (fun g =>
      let on := sheets.filter (fun x => (x.slmask.getD (defaultMask s x.pid)).getLsbD g)
      (on.map Prt.ways).sum ≤ 16 && (on.map Prt.tksh).sum ≤ 1024)

/-- The result of a budget write: a code of 18, R347, and the record as applied. -/
def judgeBudget (s : State) (pid : Nat) (b : BitVec 1024) : Nat × Prt :=
  let p := budgetOf (prtOf s pid) b
  let m := saveMax p.saveto p.quads
  let raised := p.quantum < m && p.lvl = 1
  let q : Prt := { p with quantum := if raised then m else p.quantum }
  let sheet := prtOf s (8 * sheetOf pid)
  if !pidOk pid || !budgetRange b p then (6, p)
  else if p.quantum = 0 then (2, p)
  else if p.quantum < m && p.lvl = 0 then (3, p)
  else if pid % 8 != 0 then
    (if sheet.quantum < q.quantum then (7, p)
     else if !withinParent s q sheet then (4, p)
     else if !sumsWithin (((insetsOf s (sheetOf pid)).filter (fun x => x.pid != pid)) ++ [q]) sheet then (5, p)
     else (b2n raised, q))
  else if !(insetsOf s (sheetOf pid)).all (fun c => withinParent s c q) then (4, p)
  else if !sumsWithin (insetsOf s (sheetOf pid)) q || !packageSums s q then (5, p)
  else (b2n raised, q)

/-- PART_WRITE (18, R344-R348). -/
def execPartWrite (snd : Sender) (pid : Nat) (b : BitVec 1024) (s : State) : Res :=
  request_ s snd 0x01 (fmSender snd)
    (let (code, p) := judgeBudget s pid b
     if code ≤ 1 then answer (applyQuads (setPrt s p)) snd 0x01 code (p.quantum % 2 ^ 32 + saveMax p.saveto p.quads * 2 ^ 32) []
     else answer s snd 0x01 code 0 [])

/-- The two budget blocks as they read. -/
def budgetBytes (s : State) (p : Prt) : List Byte :=
  leBytes 2 p.quads ++ leBytes 1 p.weight ++ leBytes 1 p.lvl ++ leBytes 4 p.quantum ++ leBytes 2 p.hbmsh ++ leBytes 2 p.tamsh
    ++ leBytes 2 p.tksh ++ leBytes 2 p.tk3q ++ leBytes 2 p.prqcap ++ leBytes 2 p.saveto ++ zeros 4
    ++ leBytes 32 (p.slmask.getD (maskOf s p.pid)).toNat ++ zeros 8
    ++ zeros 12 ++ leBytes 1 p.ways ++ zeros 51

/-- PART_READ (22, R412). -/
def execPartRead (snd : Sender) (pid : Nat) (s : State) : Res :=
  request_ s snd 0x02 (fmSender snd)
    (if !pidOk pid then answer s snd 0x02 rangeRes 0 []
     else let p := prtOf s pid
       answer s snd 0x02 okRes (saveMax p.saveto p.quads) (budgetBytes s p))

/-! ## Ownership (18, R346) -/

def ownPids (v : BitVec 128) : List Nat := (List.range 8).map (fun j => (v.extractLsb' (10 * j + 2) 10).toNat)

/-- Groups on a core that may not stay have to leave it already. -/
def leaving (s : State) (core : Nat) : Bool :=
  (groups s).any (fun g => g.live && g.resident && g.core = core && (!mayUse s g.pid core || coreIsolated s core))

/-- CORE_OWN's list, as written, lets a partition use the core. -/
def stillMay (r : CoreRec) (pid : Nat) : Bool := r.pids.any (fun p => p = pid || p = 8 * sheetOf pid)

/-- A core's record after CORE_OWN is written: a partition whose work is resident and that keeps the core goes on within a
slice where the core becomes shared; the slice of one that loses a shared core ends. A slice that is stopping goes on stopping. -/
def ownCore (s : State) (core : Nat) (v : BitVec 128) : CoreRec :=
  let r := coreOf s core
  let m := (v.extractLsb' 0 2).toNat
  let r1 : CoreRec := { r with own := v.setWidth 82 |>.setWidth 128, mode := m, pids := ownPids v, leaveAt := if leaving s core then r.leaveAt else s.time }
  if m != 2 then { r1 with running := none, stopping := false, top := none }
  else if r.mode = 1 && !stillMay r1 (r.pids.headD 0) then { r1 with running := none, stopping := false, top := none }
  else if r.mode = 1 then
    let long := s.time + 1000 * (prtOf s (r.pids.headD 0)).quantum
    { r1 with running := r.pids.head?, top := r.pids.head?, topEnd := long, topUsed := 0, sliceAt := s.time, stopping := false
              sliceEnd := long }
  else if r.running.any (fun p => !stillMay r1 p) && !r.stopping then { r1 with stopping := true, stopAt := s.time }
  else r1

/-- CORE_OWN_WRITE (18, R346): what loses the core is moved by SLICE_END. Of the RSV field only whole bytes are checked (log 69). -/
def execCoreOwnWrite (snd : Sender) (core : Nat) (v : BitVec 128) (s : State) : Res :=
  request_ s snd 0x03 (fmSender snd)
    (if Config.cores ≤ core || v.extractLsb' 88 40 != 0#40 || v.extractLsb' 0 2 = 3#2
        || (ownPids v).any (fun p => p != 0x3FF && !pidOk p) then answer s snd 0x03 rangeRes 0 []
     else answer (setCore s (ownCore s core v)) snd 0x03 okRes 0 [])

/-- CORE_OWN_READ (22, R412). -/
def execCoreOwnRead (snd : Sender) (core : Nat) (s : State) : Res :=
  request_ s snd 0x03 (fmSender snd)
    (if Config.cores ≤ core then answer s snd 0x03 rangeRes 0 []
     else
       let r := coreOf s core
       let v := ((List.range 8).map (fun j => r.pids.getD j 0x3FF * 2 ^ (10 * j + 2))).sum + r.mode
       answer s snd 0x03 okRes 0 (leBytes 16 v))

/-! ## Roots and invalidation (19, R373, R377) -/

def s1Ok (pid : Nat) (v : W64) : Bool :=
  v &&& 0xFF00000000000FFC#64 = 0#64 && (pid % 8 = 0 || !v.getLsbD 1)

def s2Ok (v : W64) : Bool := v &&& 0xF000000000000FFE#64 = 0#64

/-- Who may write a partition's roots (22, R410). -/
def rootSender (snd : Sender) (pid : Nat) (both : Bool) : Bool :=
  if pid % 8 = 0 then fmSender snd else if both then snd.who = .fmLd else ownSender snd pid

/-- ROOTS_WRITE (19, R373). -/
def execRootsWrite (snd : Sender) (pid : Nat) (s1 s2 : W64) (s : State) : Res :=
  request_ s snd 0x04 (rootSender snd pid true)
    (if !pidOk pid || !s1Ok pid s1 || !s2Ok s2 then answer s snd 0x04 rangeRes 0 []
     else answer (setPrt s { prtOf s pid with s1root := s1, s2root := s2 }) snd 0x04 okRes 0 [])

/-- ROOTS_WRITE_S1 (19, R373). -/
def execRootsWriteS1 (snd : Sender) (pid : Nat) (s1 : W64) (s : State) : Res :=
  request_ s snd 0x04 (rootSender snd pid false)
    (if !pidOk pid || !s1Ok pid s1 then answer s snd 0x04 rangeRes 0 []
     else answer (setPrt s { prtOf s pid with s1root := s1 }) snd 0x04 okRes 0 [])

/-- ROOTS_READ (22, R412). -/
def execRootsRead (snd : Sender) (pid : Nat) (s : State) : Res :=
  request_ s snd 0x04 (rootSender snd pid false)
    (if !pidOk pid then answer s snd 0x04 rangeRes 0 []
     else let p := prtOf s pid
       answer s snd 0x04 okRes 0 (leBytes 8 p.s1root.toNat ++ leBytes 8 p.s2root.toNat))

/-- Entries that a request leaves: the inset stage is named by generic range; a combined entry does not tell its intermediate
address, so the sheet stage drops every entry of the sheet's partitions. -/
def tlbKeep (pid stage base len : Nat) (e : Tlb) : Bool :=
  let inset := e.pid = pid && (len = 0 || (base ≤ 4096 * e.page && 4096 * e.page < base + len))
  let sheet := sheetOf e.pid = sheetOf pid && (pid % 8 = 0 || e.pid = pid)
  if stage = 0 then !inset else !sheet

/-- TLBI (19, R377; 22, R413). -/
def execTlbi (snd : Sender) (pid : Nat) (b : BitVec 256) (s : State) : Res :=
  let stage := (b.extractLsb' 128 8).toNat
  let len := (b.extractLsb' 64 64).toNat
  let base := (b.extractLsb' 0 64).toNat
  request_ s snd 0x05 (ownSender snd pid)
    (if !pidOk pid || 2 < stage || b.extractLsb' 136 120 != 0#120 || len % 4096 != 0 || (len != 0 && base % 4096 != 0) then
       answer s snd 0x05 rangeRes 0 []
     else answer { s with tlb1 := s.tlb1.filter (tlbKeep pid stage base len)
                          tlb2 := s.tlb2.filter (tlbKeep pid stage base len) } snd 0x05 okRes 0 [])

/-! ## The fabric's settings (14, R295, R299; 22, R412, R418) -/

/-- The bytes of a word that are RSV whole, by their mask, are zero (22, R412; log 69). -/
def rsvClear (v mask : W64) : Bool := v &&& mask = 0#64

/-- TAMLY_CFG_WRITE (14, R295): a field outside its range is left as it was; the basic level keeps the expert fields at their
reset values. The level that counts is the one being written (log 70). -/
def execTamlyCfgWrite (snd : Sender) (v : W64) (s : State) : Res :=
  let lvl := v.toNat / 2 ^ 44 % 2
  let cap := v.toNat / 2 ^ 40 % 16
  let dto := v.toNat / 2 ^ 32 % 256
  let rto := v.toNat % 2 ^ 14
  let n := s.net
  request_ s snd 0x06 (fmSender snd)
    (if !rsvClear v 0xFFFF0000FFFF0000#64 then answer s snd 0x06 rangeRes 0 []
     else answer { s with net := { n with
        lvl := lvl
        cap := if lvl = 0 then 8 else if 1 ≤ cap && cap ≤ 8 then cap else n.cap
        dto := if lvl = 0 then 20 else if 5 ≤ dto && dto ≤ 80 then dto else n.dto
        rto := if 10 ≤ rto && rto ≤ 10000 then rto else n.rto } } snd 0x06 okRes 0 [])

/-- TAMLY_CFG_READ (22, R412). -/
def execTamlyCfgRead (snd : Sender) (s : State) : Res :=
  let n := s.net
  request_ s snd 0x06 (fmSender snd)
    (answer s snd 0x06 okRes 0 (leBytes 8 (n.lvl * 2 ^ 44 + n.cap * 2 ^ 40 + n.dto * 2 ^ 32 + n.rto)))

/-- An entry is written: a new PINC restarts the pairs to and from the package (14, R299, R301). The own entry stays UP; writing
it UP is how the package joins (log 11). -/
def writePeer (s : State) (n : Nat) (v : W64) : State :=
  let st := (v.extractLsb' 0 2).toNat
  let pinc := (v.extractLsb' 16 16).toNat
  let (pi, old) := peerEnt s n
  if n = pkgNo s then { s with net := { s.net with everUp := s.net.everUp || st = 1 } }
  else
    let new := if st = 3 then old else st
    let s0 := setPeer s n pinc new
    let rest := s0.net.domain.filter (fun x => x != n)
    let s1 : State := { s0 with net := { s0.net with domain := if new = 0 then rest else rest ++ [n] } }
    if pi = pinc then s1
    else { s1 with net := { s1.net with
      given := s1.net.given.filter (fun x => x.1 != n)
      txseq := s1.net.txseq.filter (fun x => x.1 != n)
      rxseq := s1.net.rxseq.filter (fun x => x.1 != n)
      pins := s1.net.pins.filter (fun k => k.spkg != n)
      window := s1.net.window.filter (fun k => k.spkg != n) } }

def writePeers (s : State) : Nat → List W64 → State
  | _, [] => s
  | n, v :: vs => writePeers (writePeer s n v) (n + 1) vs

/-- PEER_WRITE (14, R299). Of the RSV fields only whole bytes are checked (log 69). -/
def execPeerWrite (snd : Sender) (first : Nat) (vs : List W64) (s : State) : Res :=
  request_ s snd 0x07 (fmSender snd)
    (if 256 < first + vs.length || vs.any (fun v => v.extractLsb' 32 32 != 0#32 || v.extractLsb' 8 8 != 0#8) then
       answer s snd 0x07 rangeRes 0 []
     else answer (writePeers s first vs) snd 0x07 okRes 0 [])

/-- PEER_READ (22, R412). -/
def execPeerRead (snd : Sender) (first n : Nat) (s : State) : Res :=
  request_ s snd 0x07 (fmSender snd)
    (if 256 < first + n then answer s snd 0x07 rangeRes 0 []
     else answer s snd 0x07 okRes 0 (((List.range n).map (fun i =>
       let e := peerEnt s (first + i)
       leBytes 8 (e.1 * 65536 + e.2))).flatten))

/-- INCSET (22, R418): once, before the package is first UP. -/
def execIncset (snd : Sender) (v : W64) (s : State) : Res :=
  request_ s snd 0x08 (fmSender snd)
    (if v.extractLsb' 16 48 != 0#48 then answer s snd 0x08 rangeRes 0 []
     else if s.net.incSet || s.net.everUp then answer s snd 0x08 busyRes 0 []
     else answer { s with net := { s.net with inc := (v.extractLsb' 0 16).toNat, incSet := true } } snd 0x08 okRes 0 [])

/-- ROUTER_COUNT (14, R306). -/
def execRouterCount (snd : Sender) (s : State) : Res :=
  request_ s snd 0x15 (fmSender snd)
    (answer s snd 0x15 okRes 0 ((s.net.counts.map (leBytes 8)).flatten))

/-- TAMLY_ID_WRITE (14, R298): ROW and COL are locked once the package is UP. -/
def execTamlyIdWrite (v : W32) (s : State) : Res :=
  if s.net.everUp then .next s
  else .next { s with net := { s.net with row := (v.extractLsb' 4 4).toNat, col := (v.extractLsb' 0 4).toNat } }

/-! ## Mode, jobs and counter words (12, R269; 17, R326, R337; 18, R347) -/

/-- SCOPE_NORMAL (12, R269). -/
def execScopeNormal (snd : Sender) (s : State) : Res :=
  request_ s snd 0x0A (fmSender snd) (answer { s with strict := false } snd 0x0A okRes 0 [])

/-- SCOPE_STRICT (12, R269). -/
def execScopeStrict (snd : Sender) (s : State) : Res :=
  request_ s snd 0x0A (fmSender snd) (answer { s with strict := true } snd 0x0A okRes 0 [])

/-- The sheet in which a sender names a record: its own; of a launch, the handle's; for the fabric manager, the lowest that
holds the record. -/
def recSheet (s : State) (snd : Sender) (lvl h : Nat) : Option Nat :=
  let has : Nat → Bool := fun sh => s.recs.any (fun r => r.sheet = sh && r.lvl = lvl && r.h = h)
  match snd.who with
  | .ld pid => if has (sheetOf pid) then some (sheetOf pid) else none
  | _ => if lvl = 0 then (if has (h % 128) then some (h % 128) else none) else (List.range 128).find? has

/-- The partition's own LD names a record of its own work only: one that has counted a launch of its own (22, R410). A handle that
names nothing is an unknown one, for its own result (22, R412); that of a launch of another sheet is never its own. -/
def recSender (s : State) (snd : Sender) (lvl h : Nat) : Bool :=
  match snd.who with
  | .fmLd => true
  | .ld pid => (lvl != 0 || h % 128 = sheetOf pid)
    && (let named := s.recs.filter (fun r => r.lvl = lvl && r.h = h)
        named.isEmpty || named.any (fun r => r.sheet = sheetOf pid && r.pids.contains pid))
  | _ => false

/-- END_JOB (18, R347): answered once the last launch of the job has gone. -/
def execEndJob (snd : Sender) (pid job : Nat) (s : State) : Res :=
  let sheet := sheetOf pid
  request_ s snd 0x09 (fmSender snd)
    (if !pidOk pid || !s.recs.any (fun r => r.sheet = sheet && r.lvl = 3 && r.h = job) then answer s snd 0x09 rangeRes 0 []
     else endJob s (some snd) sheet job)

/-- COUNT_READ (17, R326; 22, R412). -/
def execCountRead (snd : Sender) (lvl h : Nat) (s : State) : Res :=
  request_ s snd 0x13 (recSender s snd lvl h)
    (if 3 < lvl then answer s snd 0x13 rangeRes 0 []
     else match recSheet s snd lvl h with
       | none => answer s snd 0x13 rangeRes 0 []
       | some sh => answer s snd 0x13 okRes (counterWord (recOf s sh lvl h)).toNat [])

/-- HOST_CANCEL (17, R337-R338). -/
def execHostCancel (snd : Sender) (lvl h : Nat) (s : State) : Res :=
  request_ s snd 0x14 (recSender s snd lvl h)
    (if 3 < lvl then answer s snd 0x14 rangeRes 0 []
     else match recSheet s snd lvl h with
       | none => answer s snd 0x14 rangeRes 0 []
       | some sh => answer (cancelRec s sh lvl h) snd 0x14 okRes 0 [])

end Sys2Proof.Machine
end

