-- ==== Sys2Proof/Machine/HostEv.lean ====
section
/-!
DEFINITION. Registers of a partition's space, image access, debugging and observation requests, host memory accesses (18,
R342; 19, R363, R369; 21, R392-R405; 22, R408-R414).
-/

namespace Sys2Proof.Machine

/-! ## Registers (22, R411; 00, R5) -/

def isPow2 (n : Nat) : Bool := (List.range 17).any (fun i => n = 2 ^ i)

/-- TRAPCFG as written (19, R363): MODE 1 needs the expert level and the VECTOR feature. -/
def trapcfgOf (s : State) (pid : Nat) (v : W64) : W64 :=
  let w := v &&& 0x00FFFFFFFFFFFFFF#64
  if v.getLsbD 1 && featOn s pid 6 then w else w &&& ~~~1#64

/-- TRCCTL as written (21, R392): K out of range stays; at the basic level it is 4. -/
def trcctlOf (p : Prt) (v : W64) : W64 :=
  let k := (v.extractLsb' 3 5).toNat
  let k' := if !v.getLsbD 1 then 4 else if 4 ≤ k && k ≤ 20 then k else (p.trcctl.extractLsb' 3 5).toNat
  (v &&& 0x00FFFFFFFFFFFF03#64) ||| BitVec.ofNat 64 (8 * k')

/-- A watch register as written (21, R399). -/
def watchOf (w : Watch) (v : W64) : Watch :=
  let l := (v.extractLsb' 56 5).toNat
  { kinds := (v.extractLsb' 61 3).toNat, len := if 2 ≤ l && l ≤ 30 then l else w.len, addr := (v.extractLsb' 0 56).toNat }

/-- A mailbox's registers by their offset (22, R409, R411). -/
def mboxRegister (m : Mbox) (off : Nat) : W64 :=
  if off = 0x50 then BitVec.ofNat 64 m.addr else if off = 0x58 then m.go else if off = 0x60 then m.stat else 0#64

/-- The counters of a migration, whose reads give what they held before the cut until the target has loaded the image (21, R406). -/
def migrating (s : State) : List Seen := s.svc.ckpts.filterMap Ckpt.seen ++ s.svc.ctrs.filterMap JobCtr.seen

/-- EVC0-EVC7 as they read. -/
def evcSeen (s : State) (pid : Nat) : List W64 :=
  ((migrating s).find? (fun x => x.pid = pid)).elim (prtOf s pid).evc (fun x => x.counters.evc)

/-- A core's sketch as it reads. -/
def coreSeen (s : State) (core : Nat) : CoreRec :=
  (((migrating s).map Seen.cores).flatten.find? (fun r => r.core = core)).getD (coreOf s core)

/-- PKGSTAT (22, R411). -/
def pkgStat (s : State) : W64 := BitVec.ofNat 64 (b2n s.strict + 2 * b2n s.holdover)

/-- A watch register as it reads (21, R399). -/
def watchWord (w : Watch) : W64 := BitVec.ofNat 64 (w.kinds * 2 ^ 61 + w.len * 2 ^ 56 + w.addr)

/-- What a read of 8 bytes of a partition's register space gives: an inset reads its sheet's value of a sheet's register, and an offset
that is not listed reads as zero (22, R411). -/
def readRegister (s : State) (pid off : Nat) : W64 :=
  let p := prtOf s pid
  let sheet := prtOf s (8 * sheetOf pid)
  if off % 8 != 0 then 0#64
  else if off < 0x20 then sheet.featOffer.extractLsb' (8 * off) 64
  else if off < 0x40 then sheet.featAccept.extractLsb' (8 * (off - 0x20)) 64
  else if 0x50 ≤ off && off < 0x68 then mboxRegister p.mbox off
  else if 0x140 ≤ off && off < 0x180 then (evcSeen s pid).getD ((off - 0x140) / 8) 0#64
  else if 0x180 ≤ off && off < 0x1C0 then watchWord (p.watch.getD ((off - 0x180) / 8) ⟨0, 2, 0⟩)
  else match off with
    | 0x040 => p.lreq
    | 0x048 => p.lres
    | 0x068 => pkgStat s
    | 0x080 => p.trapcfg
    | 0x088 => p.evbase
    | 0x090 => BitVec.ofNat 64 p.evsize
    | 0x098 => BitVec.ofNat 64 p.evhead
    | 0x0A0 => BitVec.ofNat 64 p.evtail
    | 0x0A8 => p.evresp
    | 0x100 => p.trcctl
    | 0x108 => p.trcptr
    | 0x110 => p.trchead
    | 0x118 => p.evsel
    | _ => 0#64

/-- The same of the space of the FM-owned LD, which holds its mailbox and PKGSTAT only (22, R411). -/
def readFmRegister (s : State) (off : Nat) : W64 := if off = 0x68 then pkgStat s else mboxRegister s.svc.fm off

/-- EVSEL_WRITE (21, R401): every byte is written, so every counter is zeroed; one that names no event reads as unavailable. -/
def execEvselWrite (pid : Nat) (v : W64) (s : State) : Res :=
  let p := prtOf s pid
  .next (setPrt s { p with
    evsel := v
    evc := (List.range 8).map (fun j =>
      let e := v.toNat / 2 ^ (8 * j) % 256
      if 10 ≤ e && e != 255 then 0x8000000000000000#64 else 0#64) })

/-- FEAT_ACCEPT (22, R414): written once, BASE set, nothing that is not offered. -/
def execFeatAccept (sheet : Nat) (v : BitVec 256) (s : State) : Res :=
  let p := prtOf s (8 * sheet)
  if p.acceptWritten || !v.getLsbD 0 || v &&& ~~~p.featOffer != 0#256 then .next s
  else .next (setPrt s { p with featAccept := v, acceptWritten := true })

/-! ## Sheets (18, R342) -/

/-- SHEET_BIND: in units of 256 MiB; none while the firmware has not verified (22, R417). -/
def execSheetBind (sheet base size : Nat) (s : State) : Res :=
  let p := prtOf s (8 * sheet)
  if 128 ≤ sheet || p.bound || !s.fwOk || base % 2 ^ 28 != 0 || size % 2 ^ 28 != 0 || 0xC000000000 < base + size then .next s
  else .next (setPrt s { p with bound := true, mbase := base, msize := size })

/-- SHEET_UNBIND: refused with BUSY while any job of the sheet is live (18, R342, R347). -/
def execSheetUnbind (sheet : Nat) (s : State) : Res :=
  if s.recs.any (fun r => r.sheet = sheet && r.lvl = 3) then .next { s with svc := { s.svc with unbindRes := busyRes } }
  else
    let t := setPrt s { prtOf s (8 * sheet) with bound := false, mbase := 0, msize := 0 }
    .next { t with svc := { t.svc with unbindRes := okRes } }

/-- HOST_MEM_ACCESS (22, R408): performed at its home slice, in its line; a read returns what was last published at fabric scope (12,
R274), and a write is published at fabric scope when it is performed. One that has to wait comes again. -/
def execHostMemAccess (sheet addr n : Nat) (data : Option (List Byte)) (s : State) : Res :=
  let p := prtOf s (8 * sheet)
  let wr := data.isSome
  if !p.bound || n = 0 || (data.getD (zeros n)).length != n || addr < p.mbase || p.mbase + p.msize < addr + n
      || (wr && isDoor s addr n) || sliceIsolated s (homeSlice addr) then .next s
  else if pinnedAgainst s hostAgent addr n then .next (countRetry s (homeSlice addr))
  else if wr && copyPending s addr n then .next (holdCopy s addr n)
  else match ready s (8 * sheet) addr n wr true with
    | .error t => .next t
    | .ok t => .next (match data with
      | some bs => storeOut t hostAgent addr bs
      | none => { t with svc := { t.svc with hostRead := some (sheet, addr, viewBytes t hostAgent addr n) } })

/-! ## Images and debugging (19, R369; 21, R398; 22, R413) -/

/-- The group stands under HOST delivery. -/
def underHost (g : Group) : Bool :=
  match g.stop with
  | .hostWait _ => true
  | _ => false

/-- The image of a stopped group: where it stands, or, of one that found no room, as the model's record has it (log 14). -/
def hostImage (s : State) (g : Group) : List Byte := (imageBytes s g).getD (imageOf g (frameOf g) (counters s g.key))

/-- An image request on a known group: the image, or a result. -/
def imageFor (s : State) (k : GKey) (off len : Nat) : Except Nat (Group × List Byte) :=
  match getG s k with
  | none => .error rangeRes
  | some g =>
    if !underHost g then .error busyRes
    else
      let img := hostImage s g
      if off % 8 != 0 || len % 8 != 0 || img.length < off + len then .error rangeRes else .ok (g, img)

def groupSender (s : State) (snd : Sender) (k : GKey) : Bool :=
  match getG s k with
  | some g => ownSender snd g.pid
  | none => obsSender snd

/-- IMAGE_READ (22, R413). -/
def execImageRead (snd : Sender) (k : GKey) (off len : Nat) (s : State) : Res :=
  request_ s snd 0x10 (groupSender s snd k)
    (match imageFor s k off len with
     | .error r => answer s snd 0x10 r 0 []
     | .ok (_, img) => answer s snd 0x10 okRes 0 (zeros 32 ++ (img.drop off).take len))

/-- Only DV and the deferred cause of the frame take a write (19, R360). -/
def frameMerge (old new : List Byte) : List Byte :=
  let a := leNat (old.take 4)
  let b := leNat (new.take 4)
  leBytes 4 (a % 2 ^ 21 + b / 2 ^ 21 * 2 ^ 21) ++ (old.drop 4).take 60 ++ new.drop 64

/-- Puts an image's bytes where the image stands, or into the model's record. -/
def putImage (s : State) (g : Group) (img : List Byte) : State :=
  match g.image with
  | some (true, a, _) => stashWrite s g.core a img
  | some (false, a, _) => backWrite s g a ((img.length + 63) / 64) img
  | none => updG s g.key (fun h => { loadImage h img with stop := match h.stop with
      | .hostWait f => .hostWait { f with dfr := deferredOf img }
      | x => x })

/-- IMAGE_WRITE (19, R369; 22, R413). -/
def execImageWrite (snd : Sender) (k : GKey) (off : Nat) (data : List W64) (s : State) : Res :=
  let bs := (data.map (fun x => leBytes 8 x.toNat)).flatten
  request_ s snd 0x10 (groupSender s snd k)
    (match imageFor s k off bs.length with
     | .error r => answer s snd 0x10 r 0 []
     | .ok (g, img) => answer (putImage s g (frameMerge img (img.take off ++ bs ++ img.drop (off + bs.length)))) snd 0x10 okRes 0 [])

/-- A group that has stopped without a cause to deliver, or for a page, stops with DBG_STOP: its stop is recorded (21, R398), its image
written with the new frame (19, R360, R371), and the cause delivered. -/
def debugHeld (s : State) (f : Frame) : State :=
  let f1 := { f with cause := .dbgStop, time := s.time }
  let s1 := { s with g := { s.g with inPlace := false } }
  deliverTrap (saveImage (stopRecord s1 s1.g f1) s1.g f1) f1

/-- A group that DEBUG_STOP names stops: a running one at its next stop point, one that is already stopped without a cause or
for a page at once. One that is stopping for an eviction or a slice end stops with DBG_STOP instead; one that is stopping for a trap of
its own has DBG_STOP as its deferred cause, where it has none (19, R359; DEDUCED, log 96). -/
def debugStopGroup (s : State) (k : GKey) : State :=
  match getG s k with
  | none => s
  | some g =>
    match g.stop with
    | .running => withFocus s k s.slot (fun t =>
        tryLand { t with g := { t.g with stop := .stopping { cause := .dbgStop, slot := !t.g.p0.occ }, why := .debug } })
    | .stopping f => updG s k (fun h =>
        if h.why = .evict || h.why = .slice then { h with stop := .stopping { f with cause := .dbgStop, slot := !h.p0.occ }, why := .debug }
        else { h with stop := .stopping { f with dfr := some (f.dfr.getD .dbgStop) } })
    | .held f => withFocus s k s.slot (fun t => debugHeld t f)
    | .pageWait f =>
      let p := prtOf s g.pid
      let s1 := setPrt s { p with
        preqs := p.preqs.map (fun e => { e with groups := e.groups.filter (fun h => h != k) })
        refused := p.refused.filter (fun r => r.2.1 != some k) }
      withFocus s1 k s.slot (fun t => debugHeld t f)
    | _ => s

/-- The group is one that DEBUG_STOP reaches. -/
def stoppable (g : Group) : Bool :=
  g.live && (match g.stop with
    | .running => true
    | .stopping _ => true
    | .held _ => true
    | .pageWait _ => true
    | _ => false)

/-- DEBUG_STOP (21, R398; 22, R413). -/
def execDebugStop (snd : Sender) (launch : Nat) (gid : Option Nat) (s : State) : Res :=
  let named := (groups s).filter (fun g => g.live && g.key.launch = launch && (gid = none || gid = some (g.key.gid % 2 ^ 32)))
  let hit := named.filter stoppable
  match launchOf s launch with
  | none => request_ s snd 0x11 (obsSender snd) (answer s snd 0x11 rangeRes 0 [])
  | some l =>
    request_ s snd 0x11 (ownSender snd l.pid)
      (if gid.isSome && named = [] then answer s snd 0x11 rangeRes 0 []
       else answer (hit.foldl (fun t g => debugStopGroup t g.key) s) snd 0x11 okRes hit.length [])

/-! ## Sketches (21, R393-R395, R402) -/

/-- A core bound to a partition: one that the partition may use. -/
def boundCores (s : State) (pid : Nat) : List Nat := (s.cores.filter (fun r => mayUse s pid r.core)).map CoreRec.core

/-- A CLR on one core; the carried sketch of a partition goes once every core bound to it has been cleared (21, R402). -/
def clearCarried (s : State) (core : Nat) : State :=
  { s with prts := s.prts.map (fun p => match p.carried with
    | some c =>
      if !mayUse s p.pid core then p
      else
        let cs := if c.cores.contains core then c.cores else c.cores ++ [core]
        { p with carried := if (boundCores s p.pid).all cs.contains then none else some { c with cores := cs } }
    | none => p) }

/-- SKCTL_WRITE (21, R394): an own-LD sender sets PID only to its own id. -/
def execSkctlWrite (snd : Sender) (core : Nat) (v : W64) (s : State) : Res :=
  let pid := (v.extractLsb' 14 10).toNat
  request_ s snd 0x12 (obsSender snd && (match snd.who with
      | .ld q => pid = q
      | _ => true))
    (if Config.cores ≤ core || !rsvClear v 0xFFFFFFFFFF000000#64 then answer s snd 0x12 rangeRes 0 []
     else
       let r := coreOf s core
       let r1 := { r with skctl := v &&& 0xFFFFE1#64 }
       if v.getLsbD 1 then
         answer (clearCarried (setCore s { r1 with sketch := [], sketchN := 0, sketchSat := false }) core) snd 0x12 okRes 0 []
       else answer (setCore s r1) snd 0x12 okRes 0 [])

/-- SKCTL_READ (22, R413). -/
def execSkctlRead (snd : Sender) (core : Nat) (s : State) : Res :=
  request_ s snd 0x12 (obsSender snd)
    (if Config.cores ≤ core then answer s snd 0x12 rangeRes 0 []
     else
       answer s snd 0x12 okRes 0 (leBytes 8 ((coreOf s core).skctl.toNat + 16 * b2n (coreSeen s core).sketchSat)))

/-- The sum of the sketches of a partition and of its carried one, element by element, with N and SAT (21, R402). -/
def sketchSum (s : State) (pid : Nat) : List W32 × Nat × Bool :=
  let live := s.cores.filter (fun r => (r.skctl.extractLsb' 14 10).toNat = pid && r.sketch != [])
  let old := ((prtOf s pid).carried).getD ⟨[], 0, false, []⟩
  let at_ : Nat → Nat := fun i => (old.cells.getD i 0#32).toNat + (live.map (fun r => (r.sketch.getD i 0#32).toNat)).sum
  ((List.range 4096).map (fun i => BitVec.ofNat 32 (min (2 ^ 32 - 1) (at_ i))), old.n + (live.map CoreRec.sketchN).sum,
    old.sat || live.any CoreRec.sketchSat || (List.range 4096).any (fun i => 2 ^ 32 ≤ at_ i))

/-- The counter state of a partition as it stands (21, R402), and its cores' sketches. -/
def seenNow (s : State) (pid : Nat) : Seen :=
  let p := prtOf s pid
  let k := sketchSum s pid
  { pid := pid
    counters := { evsel := p.evsel, evc := p.evc, trcctl := p.trcctl, trcptr := p.trcptr, trchead := p.trchead, watch := p.watch
                  cells := k.1, n := k.2.1, sat := k.2.2 }
    cores := s.cores.filter (fun r => (r.skctl.extractLsb' 14 10).toNat = pid) }

/-- The four counters of a key. -/
def sketchRow (cells : List W32) (y : W32) : List Nat :=
  (List.range 4).map (fun i => (cells.getD (i * 1024 + sketchCol i y) 0#32).toNat)

def sketchReply (y : W32) (cs : List Nat) (n : Nat) : List Byte :=
  leBytes 4 y.toNat ++ leBytes 4 (cs.foldl min (2 ^ 32 - 1)) ++ (cs.map (leBytes 4)).flatten ++ leBytes 8 n

/-- The live sketches of a partition's cores added to its carried one, element by element. -/
def carriedRow (s : State) (pid : Nat) (c : Carried) (y : W32) : List Nat × Nat :=
  let live := ((boundCores s pid).map (coreSeen s)).filter (fun r => (r.skctl.extractLsb' 14 10).toNat = pid)
  let rows := sketchRow c.cells y :: live.map (fun r => sketchRow r.sketch y)
  ((List.range 4).map (fun i => min (2 ^ 32 - 1) ((rows.map (fun l => l.getD i 0)).sum)),
    c.n + (live.map CoreRec.sketchN).sum)

/-- SKETCH_READ (21, R395, R402). -/
def execSketchRead (snd : Sender) (core : Option Nat) (y : W32) (s : State) : Res :=
  request_ s snd 0x12 (obsSender snd)
    (match core, snd.who with
     | some c, _ =>
       if Config.cores ≤ c then answer s snd 0x12 rangeRes 0 []
       else let r := coreSeen s c
         answer s snd 0x12 okRes 0 (sketchReply y (sketchRow r.sketch y) r.sketchN)
     | none, .ld pid =>
       (let c := ((prtOf s pid).carried).getD ⟨[], 0, false, []⟩
        let (row, n) := carriedRow s pid c y
        answer s snd 0x12 okRes 0 (sketchReply y row n))
     | none, _ => answer s snd 0x12 rangeRes 0 [])

/-! ## Logs (21, R403-R405) -/

/-- The records that stand in the log's memory, up to its horizon marker. -/
def logRead (s : State) (base : Nat) : Nat → Nat → List LogRec
  | 0, _ => []
  | n + 1, i =>
    let r : Nat → Nat → Nat := fun o k => wideRead s (base + 32 * i + o) k
    if r 0 1 = 0 then []
    else
      let x : LogRec := ⟨r 0 1, r 24 8, r 16 8, r 12 4, r 8 4, r 4 4⟩
      if x.kind = 4 then [x] else x :: logRead s base n (i + 1)

/-- The job is one that the sender may name. -/
def jobSender (s : State) (snd : Sender) (job : Nat) : Bool := recSender s snd 3 job

/-- The RECORD feature of the job's sheet is accepted. -/
def recordOn (s : State) (job : Nat) : Bool :=
  s.recs.any (fun r => r.lvl = 3 && r.h = job && featOn s (8 * r.sheet) 5)

/-- LOGCTL as written: MODE 3, and any MODE without the RECORD feature, leaves MODE as it was. -/
def logctlOf (s : State) (job : Nat) (old v : W64) : W64 :=
  let w := v &&& 0x00FFFFFFFFFFFF00#64
  let m := v &&& 3#64
  w ||| (if m = 3#64 || !recordOn s job then old &&& 3#64 else m)

/-- LOGCTL_WRITE (21, R403): a recording or a replay begins where MODE changes to it. -/
def execLogctlWrite (snd : Sender) (job : Nat) (v : W64) (s : State) : Res :=
  request_ s snd 0x12 (jobSender s snd job)
    (if !s.recs.any (fun r => r.lvl = 3 && r.h = job) || !rsvClear v 0xFF00000000000000#64 then answer s snd 0x12 rangeRes 0 []
     else
       let l := (logOf s job).getD { job := job }
       let c := logctlOf s job l.ctl v
       let l1 : JobLog := { l with ctl := c }
       let l2 : JobLog :=
         if logMode l1 = logMode l then l1
         else if logMode l1 = 1 then { l1 with recs := [], replayed := [], atomics := [] }
         else if logMode l1 = 2 then
           { l1 with recs := logRead s (c.toNat / 4096 % 2 ^ 44 * 4096) (logCap l1) 0, replayed := [] }
         else l1
       answer { s with svc := { s.svc with logs := s.svc.logs.filter (fun x => x.job != job) ++ [l2] } } snd 0x12 okRes 0 [])

/-- LOGCTL_READ (22, R413). -/
def execLogctlRead (snd : Sender) (job : Nat) (s : State) : Res :=
  request_ s snd 0x12 (jobSender s snd job)
    (if !s.recs.any (fun r => r.lvl = 3 && r.h = job) then answer s snd 0x12 rangeRes 0 []
     else answer s snd 0x12 okRes 0 (leBytes 8 ((logOf s job).getD { job := job }).ctl.toNat))

/-- Every record before the horizon marker has been replayed, and the marker is there. -/
def atHorizon (l : JobLog) : Bool :=
  logMode l = 2 && l.recs.any (fun r => r.kind = 4) && l.recs.all (fun r => r.kind = 4 || l.replayed.contains r)

/-- REPLAY_HORIZON (21, R405): every group of the job stops with DBG_STOP, and replay ends. -/
def execReplayHorizon (job : Nat) (s : State) : Res :=
  match logOf s job with
  | none => .next s
  | some l =>
    if !atHorizon l then .next s
    else
      let s1 := setLog s { l with ctl := l.ctl &&& ~~~3#64 }
      .next (((groups s1).filter (fun g => stoppable g && jobOf s1 g.key.launch = job)).foldl (fun t g => debugStopGroup t g.key) s1)

end Sys2Proof.Machine
end

