-- ==== Sys2Proof/Machine/CkptEv.lean ====
section
/-!
DEFINITION. Sealed checkpoints and restore (20, R379-R390; 21, R402, R406; 22, R413). The ciphers, hashes and signatures are free
functions of what the spec feeds them (log 12).
-/

namespace Sys2Proof.Machine

/-! ## Requests (20, R379-R380, R386) -/

def blk64 (b : BitVec 512) (o n : Nat) : Nat := b.toNat / 2 ^ (8 * o) % 2 ^ (8 * n)

/-- The sheet in whose records a sender's job stands; an own LD has only its own jobs (22, R410). -/
def jobSheet (s : State) (snd : Sender) (job : Nat) : Option Nat := recSheet s snd 3 job

/-- The partition that a job request is about: the job's own. -/
def jobPid (s : State) (snd : Sender) (sheet job : Nat) : Nat :=
  match snd.who with
  | .ld pid => pid
  | _ => ((recOf s sheet 3 job).pids.head?).getD (8 * sheet)

def ofJob (s : State) (sheet job : Nat) (launch : Nat) : Bool := (jobLaunches s sheet job).any (fun l => l.handle = launch)

def jobGroups (s : State) (sheet job : Nat) : List Group :=
  (groups s).filter (fun g => g.live && ofJob s sheet job g.key.launch)

def jobParcels (s : State) (sheet job : Nat) : List Parcel := s.parcels.filter (fun p => ofJob s sheet job p.key.launch)

/-- The packages that run the job, in the row-major order of 17, R333; this one where nothing runs. -/
def jobPackages (s : State) (sheet job : Nat) : List Nat :=
  let l := (jobLaunches s sheet job).foldl (fun l x =>
    let ps := if x.d.span = 0#32 then [pkgNo s] else (List.range (spanCols x.d * spanRows x.d)).map (spanPkg x.d)
    l ++ ps.filter (fun p => !l.contains p)) []
  if l = [] then [pkgNo s] else l

/-- The packages of a list that follow a package in ascending number, wrapping. -/
def following (n : Nat) (ps : List Nat) : List Nat :=
  ((List.range 255).map (fun i => (n + 1 + i) % 256)).filter (fun p => ps.contains p)

/-- The mirrors of this package's counters for a job: packages of the job, then other UP ones; a missing one is a cell of the
keeper's own (20, R386). -/
def mirrorsOf (s : State) (run : List Nat) : List Nat :=
  let n := pkgNo s
  let ups := (s.net.peers.filter (fun p => p.2.2 = 1)).map (fun p => p.1)
  (following n run ++ following n (ups.filter (fun p => !run.contains p)) ++ [n, n]).take 2

def ctrOf (s : State) (sheet job : Nat) : Option JobCtr := s.svc.ctrs.find? (fun c => c.sheet = sheet && c.job = job)

def setCtr (s : State) (c : JobCtr) : State :=
  { s with svc := { s.svc with ctrs := s.svc.ctrs.filter (fun x => !(x.sheet = c.sheet && x.job = c.job)) ++ [c] } }

/-- The image area: this package's device memory or host window (20, R379). -/
def imgPlace (s : State) (a n : Nat) : Bool :=
  a % 4096 = 0 && a / 2 ^ 52 = pkgNo s && (a % 2 ^ 52 + n ≤ 0xC000000000 || (2 ^ 51 ≤ a % 2 ^ 52 && a % 2 ^ 52 + n ≤ 2 ^ 52))

/-- The region entries: base and length. -/
def regionsOf (b : List Byte) (n : Nat) : List (Nat × Nat) :=
  (List.range n).map (fun i => (imgRead b (16 * i) 8, imgRead b (16 * i + 8) 8))

/-- The local pages of a block; none when one is absent or is no device memory. A page of a peer is that package's to copy. -/
def blockPages (s : State) (pid ga : Nat) (acc : Acc) : Option (List Nat) :=
  (List.range 16).foldl (fun r i => match r, walk s pid acc (ga + 4096 * i) with
    | some l, .ok p =>
      if 0xC000000000 ≤ p.out % 2 ^ 52 then none else some (if p.out / 2 ^ 52 = pkgNo s then l ++ [p.out % 2 ^ 52] else l)
    | _, _ => none) (some [])

/-- A block in its place among others, once. -/
def insertBlock (a : Nat) : List Nat → List Nat
  | [] => [a]
  | b :: l => if a < b then a :: b :: l else if a = b then b :: l else b :: insertBlock a l

/-- The blocks of the regions, ascending. -/
def blockList (rs : List (Nat × Nat)) : List Nat :=
  ((rs.map (fun r => (List.range (r.2 / 65536)).map (fun i => r.1 + 65536 * i))).flatten).foldr insertBlock []

def allPages (s : State) (pid : Nat) (acc : Acc) (gas : List Nat) : Option (List (Nat × List Nat)) :=
  gas.foldl (fun r ga => match r, blockPages s pid ga acc with
    | some l, some ps => some (l ++ [(ga, ps)])
    | _, _ => none) (some [])

/-! ## What an image holds (20, R387) -/

/-- A group as the image holds it (19, R370). -/
def recordGroup (s : State) (g : Group) : Group :=
  let held : Group → Group := fun h => { h with stop := .held (frameOf h), image := none, supImage := none, resident := false }
  if isOver g then g
  else if g.stop = .running && !g.super then held (captureOps (focusOn s g.key s.slot)).g
  else held (reload s (if g.stop = .running then leaveSuper g else g))

/-- A stash range, its cells counted from the range's start. -/
def rangeCells (m : List Host.Cell) (a n : Nat) : List Host.Cell :=
  (m.filter (fun c => a ≤ c.1 && c.1 < a + n)).map (fun c => (c.1 - a, c.2))

/-- A block as memory holds it: a page after the other. -/
def blockCells (s : State) (pages : List Nat) : List Host.Cell :=
  ((List.range pages.length).map (fun i =>
    ((rangeCells s.mem (pages.getD i 0) 4096).map (fun c => (c.1 + 4096 * i, c.2))))).flatten

/-- What the cut records of a job, with its blocks. -/
def cutRecord (s : State) (sheet job : Nat) (blocks : List (Nat × List Host.Cell)) : CutRec :=
  let mine := ofJob s sheet job
  let ps := jobParcels s sheet job
  let gs := (jobGroups s sheet job).map (recordGroup s)
  { time := s.time
    packages := jobPackages s sheet job
    launches := (jobLaunches s sheet job).map (fun l => { l with windows := 0#16, marks := [] })
    groups := gs
    images := gs.map (fun g => imageOf g (frameOf g) (counters s g.key))
    clauses := s.clauses.filter (fun x => mine x.g.launch)
    parcels := ps
    allots := ps.map (fun p => (p.key, rangeCells s.stash (stashKey p.core p.base) p.size))
    empties := ps.map (fun p => (p.key, (linesOf p.base p.size).filter (fun l => s.emptyLines.contains (lineKey p.core l))))
    recs := s.recs.filter (fun r => r.sheet = sheet && ((jobLaunches s sheet job).any (fun l =>
      (recsOf l.handle l.d).contains (r.lvl, r.h)) || (r.lvl = 3 && r.h = job)))
    margin := s.margin.filter (fun m => mine m.launch)
    mbuf := s.mbuf.filter (fun m => mine m.launch)
    anns := s.anns.filter (fun a => mine a.src.launch)
    blocks := blocks }

/-- A counter record's bytes; the spec gives no layout beyond the word (17, R326; log 30). -/
def recBytes (r : CRec) : List Byte := leBytes 4 r.h ++ leBytes 1 r.lvl ++ zeros 3 ++ leBytes 8 (counterWord r).toNat

/-- A parcel record's bytes: what 19, R370 names, in the model's layout (log 30). -/
def parcelBytes (p : Parcel) : List Byte :=
  let cmd : Cmd → List Byte := fun c => leBytes 8 c.w0.toNat ++ leBytes 8 c.w1.toNat ++ leBytes 8 c.w2.toNat ++ leBytes 8 c.w3.toNat
  leBytes 4 p.key.idx ++ leBytes 4 p.size ++ leBytes 2 p.bfree.toNat ++ leBytes 2 p.cmds.length ++ leBytes 2 p.started.length
    ++ leBytes 1 p.partial_.length ++ leBytes 1 p.q1.length
    ++ (p.partial_.map (fun w => leBytes 8 w.toNat)).flatten ++ (p.q1.map (fun w => leBytes 8 w.toNat)).flatten
    ++ (p.maps.map (fun e => match e with
      | some e => leBytes 4 e.off ++ leBytes 4 e.len ++ leBytes 8 e.ga
      | none => zeros 16)).flatten
    ++ (p.cmds.map cmd).flatten ++ (p.started.map (fun x => cmd x.cmd ++ leBytes 8 (32 * x.pre))).flatten

/-- An allotment's bytes: the parcel's stash range. -/
def allotBytes (c : CutRec) (p : Parcel) : List Byte :=
  (List.range p.size).map (cellGet ((c.allots.find? (fun x => x.1 = p.key)).elim [] Prod.snd))

/-- The bytes of page `i` of a block. -/
def pageBytes (cells : List Host.Cell) (i : Nat) : List Byte := (List.range 4096).map (fun j => cellGet cells (4096 * i + j))

def blockBytes (b : Nat × List Host.Cell) : List Byte := ((List.range 16).map (pageBytes b.2)).flatten

/-- The plaintext of an image, in the order of 20, R387. -/
def plaintext (c : CutRec) : List Byte :=
  (c.launches.map (fun l => l.d.raw)).flatten ++ (c.recs.map recBytes).flatten
    ++ (c.parcels.map (fun p => parcelBytes p ++ allotBytes c p)).flatten
    ++ c.images.flatten ++ (c.blocks.map blockBytes).flatten

/-- Its length. -/
def plainSize (c : CutRec) : Nat :=
  (c.launches.map (fun l => l.d.raw.length)).sum + 16 * c.recs.length + (c.parcels.map (fun p => (parcelBytes p).length + p.size)).sum
    + (c.images.map List.length).sum + 65536 * c.blocks.length

def chunksOf (n : Nat) : Nat := (n + 65535) / 65536

/-- Bytes of the image: the manifest, and the plaintext's chunks, each with its tag (20, R385, R387). -/
def imageSize (c : CutRec) : Nat := 4096 + plainSize c + 16 * chunksOf (plainSize c)

/-! ## What is asked for (20, R379-R380) -/

/-- The groups of a job that are inside a close. -/
def inClose (s : State) (sheet job : Nat) : List GKey := ((jobGroups s sheet job).filter insideClose).map Group.key

/-- The checkpoint that a sound request asks for, or the result that refuses it, with the size needed; MODE 1 makes it a migration
(20, R389). -/
def judgeCkpt (s : State) (snd : Sender) (b : BitVec 512) (must : Bool) : Except (Nat × Nat) Ckpt :=
  let r := blk64 b
  let job := r 0 4
  match jobSheet s snd job with
  | none => .error (3, 0)
  | some sheet =>
    let pid := jobPid s snd sheet job
    if !featOn s pid 4 || 1 < r 16 1 || (must && r 16 1 != 1) || r 17 1 = 0 || 64 < r 17 1
        || r 20 4 < 1000 || 10000000 < r 20 4 || r 24 8 % 16 != 0 || !imgPlace s (r 40 8) (r 32 8)
        || (ctrOf s sheet job).elim (s.svc.copies.any (fun c => c.job = job)) (fun c => c.keeper != pkgNo s || c.moved) then .error (3, 0)
    else if s.svc.ckpts.any (fun c => c.sheet = sheet && c.job = job) then .error (2, 0)
    else match readGen s (hostReader pid) (r 24 8) (16 * r 17 1) with
      | .error _ => .error (3, 0)
      | .ok bs =>
        let rs := regionsOf bs (r 17 1)
        let gas := blockList rs
        let need := imageSize (cutRecord s sheet job (gas.map (fun a => (a, []))))
        if rs.any (fun x => x.1 % 65536 != 0 || x.2 % 65536 != 0 || 2 ^ 56 < x.1 + x.2) then .error (3, 0)
        else if (allPages s pid .read gas).isNone then .error (3, 0)
        else if r 32 8 < need then .error (3, need)
        else .ok { job := job, sheet := sheet, pid := pid, snd := snd, migrate := r 16 1 = 1, stage := 0, since := s.time
                   tmo := r 20 4, img := r 40 8, room := r 32 8, regions := rs, closing := inClose s sheet job, reached := []
                   pending := [], held := [], cut := {}, dk := 0 }

/-- This package becomes the keeper of a job's counter: a mirror that is missing is a cell of its own (20, R386). -/
def newCtr (s : State) (sheet job ctr : Nat) : JobCtr :=
  let ms := mirrorsOf s (jobPackages s sheet job)
  { sheet := sheet, job := job, keeper := pkgNo s, mirrors := ms, ctr := ctr
    cells := List.replicate ((ms.filter (fun m => m = pkgNo s)).length) ctr }

/-- The request is answered at once, or the cut of the job begins and this package becomes the job's keeper. -/
def startCkpt (s : State) (snd : Sender) (b : BitVec 512) (must : Bool) : Res :=
  request_ s snd 0x20 (recSender s snd 3 (blk64 b 0 4))
    (match judgeCkpt s snd b must with
     | .error (res, ret) => answer s snd 0x20 res ret []
     | .ok c =>
       let s1 := if (ctrOf s c.sheet c.job).isSome then s else setCtr s (newCtr s c.sheet c.job 0)
       markBusy { s1 with svc := { s1.svc with ckpts := s1.svc.ckpts ++ [c] } } snd 0x20)

/-- CKPT (20, R379-R381, R389): a checkpoint request starts the cut of the job; with MODE 1 it is a migration. -/
def execCkpt (snd : Sender) (blk : BitVec 512) (s : State) : Res := startCkpt s snd blk false

/-- MIGRATE (20, R389): a checkpoint with MODE 1. -/
def execMigrate (snd : Sender) (blk : BitVec 512) (s : State) : Res := startCkpt s snd blk true

/-! ## The cut (20, R381-R383) -/

/-- Every group of the job on the package has reached the cut or has ended, and nothing of it is on its way that an image does
not capture. -/
def cutReached (s : State) (c : Ckpt) : Bool :=
  (jobGroups s c.sheet c.job).all (fun g => isOver g
    || (c.reached.contains g.key && !s.ops.any (fun o => o.g = g.key && !o.returned && holdsStop o)
      && (match g.stop with
        | .stopping _ => false
        | _ => true)))

/-- Step 1 of 20, R382: publication. The dirty words of mapped stash have been written back, and the peers told, before
(`execCutTaken`). -/
def publishCut (s : State) (c : Ckpt) : State :=
  let mine : List GKey → Bool := fun ws => ws.any (fun k => ofJob s c.sheet c.job k.launch)
  let own : Unpub → Bool := fun u => mine u.writers
  tickP (passHost (publishOver s 5 (fun n => mine n.writers) own) own)

/-- Steps 2-3 of 20, R382: queue contexts written back, behind a copy that is still to be made of their blocks, and streamer work
stopped. -/
def settleCut (s : State) (c : Ckpt) : State :=
  let mine : List GKey → Bool := fun ws => ws.any (fun k => ofJob s c.sheet c.job k.launch)
  let s1 := (s.qctxs.filter (fun q => mine (q.binds.map (fun b => b.1)))).foldl (fun t q =>
    writeNow (copiedFirst t (q.desc + 16) 8) (q.desc + 16) (leBytes 4 q.head ++ leBytes 4 q.tail)) s
  (jobParcels s1 c.sheet c.job).foldl (fun t p => match parcelOf t p.key with
    | some q => stopStreamer t q
    | none => t) s1

def setCkpt (s : State) (c : Ckpt) : State :=
  { s with svc := { s.svc with ckpts := s.svc.ckpts.map (fun x => if x.sheet = c.sheet && x.job = c.job then c else x) } }

/-- The cut is taken (20, R382): the blocks become pending, as they stand after step 1. An image that has become too large for its area
is refused as a request for it is. -/
def takeCut (s : State) (c : Ckpt) : State :=
  match allPages s c.pid .read (blockList c.regions) with
  | none => endCkpt s c 3 0
  | some pages =>
    let s1 := publishCut s c
    let s2 := settleCut s1 c
    let cut := cutRecord s2 c.sheet c.job (pages.map (fun b => (b.1, blockCells s1 b.2)))
    if c.room < imageSize cut then endCkpt s c 3 (imageSize cut)
    else
      let c1 := { c with stage := 1, pending := pages, cut := cut, dk := s2.svc.random, seen := if c.migrate then some (seenNow s c.pid) else none }
      setCkpt { s2 with svc := { s2.svc with random := s2.svc.random + 1 } } c1

/-- Publication for the cut goes on at a group: its parcel's dirty words leave, then its peers are told; none when all have. -/
def publishForCut (s : State) (gs : List Group) : Option State :=
  gs.findSome? (fun g =>
    if dirtyParts s g (fun _ => true) = [] && pubNotes s g 5 = [] then none
    else some (withFocus s g.key s.slot (fun t => match dirtyParts t t.g (fun _ => true) with
      | [] => (tellPeers t .nop 5).getD t
      | ps => quietStore (cleanWords t t.g (fun _ => true)) .nop ps)))

/-- CUT_TAKEN (20, R382): once what its publication stores outside has been accepted, the cut is taken. -/
def execCutTaken (job : Nat) (s : State) : Res :=
  match s.svc.ckpts.find? (fun c => c.job = job && c.stage = 0 && cutReached s c) with
  | none => .next s
  | some c =>
    let gs := jobGroups s c.sheet c.job
    if gs.any (fun g => !storesAccepted s g.key) then .next s
    else .next ((publishForCut s gs).getD (takeCut s c))

/-- CUT_TIMEOUT (20, R381): the checkpoint is abandoned, and every hold is released. -/
def execCutTimeout (job : Nat) (s : State) : Res :=
  match s.svc.ckpts.find? (fun c => c.job = job && c.stage = 0 && c.since + 1000 * c.tmo ≤ s.time) with
  | none => .next s
  | some c => .next (endCkpt s c 1 0)

/-! ## Copy-on-write (20, R384) -/

/-- A write waits for the block. -/
def wanted (s : State) (c : Ckpt) (b : Nat × List Nat) : Bool :=
  c.held.contains b.1 || (groups s).any (fun g => g.live && !isOver g
    && (publishAddrs s g).any (fun a => b.2.any (fun pg => pg ≤ a && a < pg + 4096)))

/-- BLOCK_COPY (20, R384): the copier seals a held block, else the lowest pending one; what waited for it goes on when it comes
again. A poisoned word ends the checkpoint. -/
def execBlockCopy (job : Nat) (s : State) : Res :=
  match s.svc.ckpts.find? (fun c => c.job = job && c.stage = 1) with
  | none => .next s
  | some c =>
    match (match c.pending.find? (wanted s c) with
      | some b => some b
      | none => c.pending.head?) with
    | none => .next (setCkpt s { c with stage := 2 })
    | some b =>
      if b.2.any (fun pg => (poisoned s pg 4096).isSome) then .next (endCkpt s c 6 0)
      else
        let left := c.pending.filter (fun x => x.1 != b.1)
        .next (setCkpt s { c with pending := left, held := c.held.filter (fun x => x != b.1), stage := if left = [] then 2 else 1 })

/-! ## The seal (20, R385, R387) -/

/-- Cores that the sheet may use. -/
def sheetCores (s : State) (sheet : Nat) : Nat := ((List.range Config.cores).filter (mayUse s (8 * sheet))).length

def bytesOf (n : Nat) (f : Nat → Byte) : List Byte := (List.range n).map f

/-- The data key of an image, by the draw of the random source. -/
def dataKey (dk : Nat) : List Byte := bytesOf 32 (Config.randomByte dk)

/-- Its nonce. -/
def nonce (dk : Nat) : List Byte := bytesOf 8 (fun i => Config.randomByte dk (32 + i))

/-- What the counter reads as: the largest value of CTR and the copies that this package holds of it (20, R386). -/
def ctrNow (k : JobCtr) : Nat := k.cells.foldl max k.ctr

/-- Manifest bytes [39:0]: MAGIC, JOB, KEEP, SHAPE, CHUNKS, TIME. -/
def manifestId (s : State) (c : Ckpt) (k : JobCtr) : List Byte :=
  leBytes 8 0x000000014B43574B ++ leBytes 8 c.job
    ++ leBytes 8 (k.keeper + 256 * k.mirrors.getD 0 0 + 65536 * k.mirrors.getD 1 0)
    ++ leBytes 4 ((c.cut.packages.length - 1) % 256 + 256 * (sheetCores s c.sheet % 1024) + 262144 * (c.cut.launches.length % 16384))
    ++ leBytes 4 (chunksOf (plainSize c.cut)) ++ leBytes 8 c.cut.time

/-- Manifest bytes [159:0], which are the additional data of every chunk. -/
def manifestHead (s : State) (c : Ckpt) (k : JobCtr) : List Byte :=
  manifestId s c k ++ nonce c.dk ++ leBytes 8 (ctrNow k + 1) ++ bytesOf 8 (Config.shakeByte Config.sealingKey)
    ++ leBytes 32 (prtOf s (8 * c.sheet)).featAccept.toNat ++ bytesOf 64 (Config.measureByte c.pid)

/-- Chunk `i` of the plaintext, encrypted, its tag behind it: the IV is the nonce and the chunk's index. -/
def sealedChunk (c : Ckpt) (aad plain : List Byte) (i : Nat) : List Byte :=
  let p := (plain.drop (65536 * i)).take 65536
  bytesOf (p.length + 16) (Config.gcmByte (dataKey c.dk) (nonce c.dk ++ leBytes 4 i) aad p)

/-- The chunks of the image. -/
def sealedChunks (s : State) (c : Ckpt) (k : JobCtr) : List (List Byte) :=
  let plain := plaintext c.cut
  (List.range (chunksOf plain.length)).map (sealedChunk c (manifestHead s c k) plain)

/-- KEK := SHAKE256(SK, M, C). -/
def keyKey (c : Ckpt) (k : JobCtr) : List Byte :=
  bytesOf 32 (Config.shakeByte (Config.sealingKey ++ bytesOf 64 (Config.measureByte c.pid) ++ leBytes 8 (ctrNow k + 1)))

/-- Manifest bytes [255:0], over which the signature goes: the head, TAGD over the chunks' tags, WDK. -/
def signedBytes (s : State) (c : Ckpt) (k : JobCtr) : List Byte :=
  let tags := ((sealedChunks s c k).map (fun x => x.drop (x.length - 16))).flatten
  manifestHead s c k ++ bytesOf 64 (Config.shakeByte tags) ++ bytesOf 32 (Config.wrapByte (keyKey c k) (dataKey c.dk))

/-- The manifest: the signed bytes, WRAP, SIG, zeros. -/
def manifest (s : State) (c : Ckpt) (k : JobCtr) : List Byte :=
  let signed := signedBytes s c k
  signed ++ bytesOf 20 (fun i => Config.wrapByte (keyKey c k) (dataKey c.dk) (32 + i))
    ++ bytesOf 2820 (Config.signByte k.keeper s.svc.sigs signed) ++ zeros 1000

/-- The image goes to its area. -/
def writeImage (s : State) (pid a : Nat) (bs : List Byte) : State :=
  let loc := a % 2 ^ 52
  if loc < 0xC000000000 then writeNow (copiedFirst s loc bs.length) loc bs
  else { s with hostOut := s.hostOut ++ (List.range bs.length).map (fun i => (hostKey pid (loc + i), bs.getD i 0#8)) }

/-- The image of a checkpoint, as a restore knows it again. -/
def imgOf (s : State) (c : Ckpt) (k : JobCtr) : Img :=
  { head := manifestId s c k ++ leBytes 8 (ctrNow k + 1), size := imageSize c.cut, sheet := c.sheet, pid := c.pid, job := c.job
    ctr := ctrNow k + 1, cut := c.cut, counters := c.seen.map Seen.counters, legend := (prtOf s (8 * c.sheet)).featAccept
    cores := sheetCores s c.sheet }

/-! ## The commit (20, R386) -/

/-- The manifest is signed, the image stands in its area, and C is on its way to the mirrors; the cells that stand for missing ones
have it (20, R386, step 1). -/
def signCkpt (s : State) (c : Ckpt) (k : JobCtr) : State :=
  let m := imgOf s c k
  let s1 := writeImage s c.pid c.img (manifest s c k ++ (sealedChunks s c k).flatten)
  let svc := s1.svc
  let s2 : State := { s1 with svc := { svc with sigs := svc.sigs + 1, imgs := svc.imgs.filter (fun x => x.head != m.head) ++ [m] } }
  setCkpt (setCtr s2 { k with cells := k.cells.map (fun _ => ctrNow k + 1) }) { c with stage := 3, ctr := ctrNow k + 1 }

/-- CTR := C, and a migration ends the job on its source (20, R386, R389). What reads of its counters give stays as it was before the
cut until the copies are dropped (21, R406). -/
def commitCkpt (s : State) (c : Ckpt) (k : JobCtr) : State :=
  let s1 := endCkpt (setCtr s { k with ctr := c.ctr, moved := c.migrate, seen := c.seen }) c 0 0
  if c.migrate then endJob s1 none c.sheet c.job else s1

/-- The next step of the commit: the signature, then the count of the copies, the keeper's cells among them. With fewer than two
the counter is as it was (20, R380, R386). -/
def commitStep (s : State) (c : Ckpt) (k : JobCtr) (copies : Nat) : State :=
  if c.stage = 2 then (if 2 ^ 20 ≤ s.svc.sigs then endCkpt s c 5 0 else signCkpt s c k)
  else if k.cells.length + copies < 2 then endCkpt (backCtr s c) c 4 0
  else commitCkpt s c k

/-- CHECKPOINT_COMMIT (20, R386, R389): the keeper's own commit goes on, another keeper's value is written into the copy here, or the
copies of a job that has moved are dropped. -/
def execCheckpointCommit (job : Nat) (a : CtrAct) (s : State) : Res :=
  match a with
  | .copy keeper v =>
    .next { s with svc := { s.svc with copies := s.svc.copies.filter (fun x => !(x.keeper = keeper && x.job = job)) ++ [⟨keeper, job, v⟩] } }
  | .drop keeper => .next { s with svc := { s.svc with
      copies := s.svc.copies.filter (fun x => !(x.keeper = keeper && x.job = job))
      ctrs := s.svc.ctrs.filter (fun k => !(k.keeper = keeper && k.job = job && k.moved)) } }
  | .own copies =>
    match s.svc.ckpts.find? (fun c => c.job = job && (c.stage = 2 || c.stage = 3)) with
    | none => .next s
    | some c => .next (match ctrOf s c.sheet c.job with
      | some k => commitStep s c k copies
      | none => endCkpt s c 4 0)

/-! ## Restore: the image and its checks (20, R386, R388; 22, R413) -/

/-- Bytes of the image area as the controller reads them; those of the host window are the environment's (log 1). -/
def areaBytes (s : State) (a n : Nat) : List Byte :=
  let loc := a % 2 ^ 52
  if loc < 0xC000000000 then viewBytes s Config.cores loc n else bytesOf n (fun i => Config.outsideByte s.free (loc + i))

/-- The part of an image that the list restores onto this package: package q of the image goes to entry q. -/
def ownPart (s : State) (plist : List Byte) : Option Nat :=
  (List.range plist.length).find? (fun q => (plist.getD q 0#8).toNat = pkgNo s)

/-- The image that stands in an area: one that this package has sealed is known by its manifest, wherever it stands now; any other is
decrypted (log 12). -/
def imageAt (s : State) (snd : Sender) (a n : Nat) (plist : List Byte) : Img :=
  let bs := areaBytes s a 96
  let head := bs.take 40 ++ (bs.drop 48).take 8
  let part : CutRec := (ownPart s plist).elim {} (Config.openedCut (areaBytes s a n))
  match s.svc.imgs.find? (fun m => m.head = head) with
  | some m => if (ownPart s plist).all (fun q => m.cut.packages[q]? = some (pkgNo s)) then m
    else { m with cut := { part with packages := m.cut.packages } }
  | none =>
    let shape := imgRead bs 24 4
    let pid := match snd.who with
      | .ld pid => pid
      | _ => (part.launches.head?).elim 0 Launch.pid
    { head := head, size := 4096 + 65552 * imgRead bs 28 4, sheet := sheetOf pid, pid := pid, job := imgRead bs 8 8 % 2 ^ 32
      ctr := imgRead bs 48 8, cut := { part with packages := List.replicate (shape % 256 + 1) 256 }
      counters := Config.openedCounters (areaBytes s a n), legend := BitVec.ofNat 256 (imgRead bs 64 32), cores := shape / 256 % 1024 }

/-- A read of a job's counter: the largest value of the copies that answer, those that this package holds and `reads` of others; none
with fewer than two (20, R386; log 99). -/
def readCtr (s : State) (sheet job : Nat) (reads : List Nat) : Option Nat :=
  let own := ((s.svc.ctrs.filter (fun k => k.sheet = sheet && k.job = job)).map (fun k => k.ctr :: k.cells)).flatten
  let l := (own ++ (s.svc.copies.filter (fun c => c.job = job)).map CtrCopy.ctr ++ reads).take 3
  if l.length < 2 then none else some (l.foldl max 0)

/-- A launch's GRID in its saved descriptor is that of the launch as saved (20, R388; DEDUCED, log 30). -/
def sameGrid (l : Launch) : Bool :=
  imgRead l.d.raw 0 4 = l.d.gx && imgRead l.d.raw 4 4 = l.d.gy && imgRead l.d.raw 8 4 = l.d.gz

/-- A result of 20, R380 in the order of 20, R388. -/
def judgeRestore (s : State) (m : Img) (pid npkg : Nat) (sigOk peersOk tagsOk : Bool) (reads : List Nat) : Nat :=
  let p := prtOf s (8 * sheetOf pid)
  if !sigOk then 7
  else if !peersOk then causeCode .sealPeer
  else if npkg != m.cut.packages.length || sheetCores s (sheetOf pid) != m.cores || !m.cut.launches.all sameGrid
      || p.featAccept != m.legend then causeCode .sealShape
  else match readCtr s m.sheet m.job reads with
    | none => 4
    | some c => if c != m.ctr then causeCode .sealStale else if tagsOk then 0 else 7

/-! ## Restore: the job comes back (20, R389) -/

/-- A block is written page by page. -/
def putBlock (s : State) (pages : List Nat) (cells : List Host.Cell) : State :=
  (List.range pages.length).foldl (fun t i => writeNow t (pages.getD i 0) (pageBytes cells i)) s

/-- What a restored job's records become: the launches' new handles, the partition, and how far its clauses' and operations' numbers
are moved, which are the model's. -/
structure Moved where
  handles : List (Nat × Nat)
  pid : Nat
  job : Nat
  ids : Nat

def Moved.launch (m : Moved) (h : Nat) : Nat := assocD h m.handles h

def Moved.key (m : Moved) (k : GKey) : GKey := ⟨m.launch k.launch, k.gid⟩

def Moved.pkey (m : Moved) (k : PKey) : PKey := ⟨m.launch k.launch, k.idx⟩

/-- The number of a clause or an operation; 0 names none. -/
def Moved.id (m : Moved) (i : Nat) : Nat := if i = 0 then 0 else i + m.ids

def Moved.path (m : Moved) (p : Path) : Path := { p with cq := p.cq.map (fun e => { e with id := m.id e.id }) }

def Moved.op (m : Moved) (core : Nat) (o : Op) : Op :=
  { o with g := m.key o.g, id := m.id o.id, clause := m.id o.clause, pid := m.pid, core := core }

def Moved.park (m : Moved) (core : Nat) (p : Park) : Park :=
  { p with p0 := m.path p.p0, p1 := m.path p.p1, replay := p.replay.map (m.op core) }

/-- The core of a parcel's group. -/
def coreFor (s : State) (k : PKey) : Nat := (parcelOf s k).elim 0 Parcel.core

/-- A group as the restoring partition holds it. -/
def Moved.group (m : Moved) (s : State) (g : Group) : Group :=
  let core := coreFor s ⟨m.launch g.key.launch, g.parcel⟩
  { g with key := m.key g.key, reply := g.reply.map m.key, pid := m.pid, core := core, d := { g.d with job := m.job }
           p0 := m.path g.p0, p1 := m.path g.p1, replay := g.replay.map (m.op core)
           park := g.park.map (m.park core), sup := g.sup.map (m.park core) }

/-- A launch is accepted again from its saved descriptor, with a new handle, and stands where it stood (17, R331; 20, R389; log 99). -/
def reaccept (s : State) (pid job : Nat) (l : Launch) : State × Nat :=
  let r := accept s pid Config.cores { l.d with job := job }
  ((launchOf r.1 r.2).elim r.1 (fun x => setLaunch r.1 { x with st := l.st, can := l.can, pinned := l.pinned, wgens := l.wgens }), r.2)

def reacceptAll (s : State) (pid job : Nat) (ls : List Launch) : State × List (Nat × Nat) :=
  ls.foldl (fun r l => let a := reaccept r.1 pid job l; (a.1, r.2 ++ [(l.handle, a.2)])) (s, [])

/-- Finds each parcel a core at its own stash range and puts it there; none when one finds no core. -/
def restoreParcels (s : State) (m : Moved) : List Parcel → Option State
  | [] => some s
  | p :: ps =>
    match launchOf s (m.launch p.key.launch) with
    | none => none
    | some l =>
      let q := { p with key := m.pkey p.key, pid := m.pid, core := Config.cores }
      match newCore s l q with
      | none => none
      | some c => restoreParcels { s with parcels := s.parcels ++ [{ q with core := c }] } m ps

/-- An allotment is loaded at its parcel's new place. -/
def loadAllot (s : State) (k : PKey) (cells : List Host.Cell) : State :=
  match parcelOf s k with
  | none => s
  | some p =>
    let at_ := stashKey p.core p.base
    let gone := s.stash.filter (fun c => !(at_ ≤ c.1 && c.1 < at_ + p.size))
    markFull { s with stash := cells.foldl (fun m c => cellSet m (at_ + c.1) c.2) gone } p.core (linesOf p.base p.size)

/-- A margin value goes to the new core of its parcel. -/
def Moved.margin (m : Moved) (s : State) (v : MVal) : MVal :=
  { v with launch := m.launch v.launch, core := coreFor s ⟨m.launch v.launch, v.parcel⟩ }

/-- A counter record is loaded: DONE and CAN are its own, OUT is what acceptance has counted again (17, R326). -/
def loadRec (s : State) (m : Moved) (r : CRec) : State :=
  let h := if r.lvl = 3 then m.job else if r.lvl = 0 then m.launch r.h else r.h
  let x := recOf s (sheetOf m.pid) r.lvl h
  setRec s { x with can := r.can, done := r.done, zeroAt := s.time, pids := if x.pids = [] then [m.pid] else x.pids }

/-- The bindings of a group are made again from their descriptors, through the restoring partition's translation (05, R140; 20, R389);
one whose descriptor is not there or is none is lost. -/
def rebind (s : State) (k : GKey) : State :=
  [4, 5, 6, 7].foldl (fun t n => match getG t k with
    | none => t
    | some g => match bindOf g n with
      | none => t
      | some b => match locate t g b.ga 64 .read with
        | .ok (.dev _, desc) =>
          let u := updG t k (fun h => setBind h n (some { b with desc := desc }))
          (match ctxOf u desc with
           | some q => setCtx u { q with binds := q.binds ++ [(k, n)] }
           | none => match makeCtx u g n desc b.ga with
             | .ok q => { u with qctxs := u.qctxs ++ [q] }
             | .error _ => updG u k (fun h => setBind h n none))
        | _ => updG t k (fun h => setBind h n none)) s

/-- A counter as the target loads it: one whose event it does not provide reads as unavailable (21, R401-R402). -/
def loadedEvc (evsel : W64) (evc : List W64) : List W64 :=
  (List.range 8).map (fun j =>
    let e := evsel.toNat / 2 ^ (8 * j) % 256
    if 10 ≤ e && e != 255 then 0x8000000000000000#64 else evc.getD j 0#64)

/-- The counter state that a migration carried (21, R402). -/
def loadCounters (s : State) (pid : Nat) (m : Img) : State :=
  match m.counters with
  | none => s
  | some c => setPrt s { prtOf s pid with evsel := c.evsel, evc := loadedEvc c.evsel c.evc, trcctl := c.trcctl, trcptr := c.trcptr
                                          trchead := c.trchead, watch := c.watch, carried := some ⟨c.cells, c.n, c.sat, []⟩ }

/-- Reduction slots that the job's groups left behind go: a handle from before the cut finds its slot FREE (20, R383; 14, R316). -/
def freeSlots (s : State) (job : Nat) : State :=
  { s with net := { s.net with slots := s.net.slots.map (fun e =>
      if e.st != 0 && e.job = job then { gen := (e.gen + 1) % 256 } else e) } }

/-- The largest number of a clause or an operation in what a cut records. -/
def maxId (c : CutRec) : Nat :=
  let ops : List Op → List Nat := fun os => os.map Op.id
  ((c.clauses.map Clause.id ++ (c.groups.map (fun g => ops g.replay ++ (g.p0.cq ++ g.p1.cq).map CEnt.id
    ++ ((g.park.toList ++ g.sup.toList).map (fun p => ops p.replay ++ (p.p0.cq ++ p.p1.cq).map CEnt.id)).flatten)).flatten).foldl max 0)

/-- A group that an image holds has the registers of every group. -/
def wholeGroup (g : Group) : Bool := g.s.length = 64 && (g.park.toList ++ g.sup.toList).all (fun p => p.s.length = 64)

/-- The launches are accepted again; and what names them. -/
def acceptJob (s : State) (m : Img) (pid job : Nat) : State × Moved :=
  let r := reacceptAll s pid job m.cut.launches
  ({ r.1 with nextId := s.nextId + s.nextId + maxId m.cut + 1 }, ⟨r.2, pid, job, s.nextId⟩)

/-- The groups and what is kept beside them, at the parcels' new places. -/
def restoreGroups (s : State) (v : Moved) (c : CutRec) : State :=
  { s with
    others := s.others ++ (c.groups.filter wholeGroup).map (v.group s)
    clauses := s.clauses ++ c.clauses.map (fun x => { x with id := v.id x.id, g := v.key x.g })
    margin := s.margin ++ c.margin.map (v.margin s)
    mbuf := s.mbuf ++ c.mbuf.map (v.margin s)
    anns := s.anns ++ c.anns.map (fun a => { a with src := v.key a.src, dst := v.key a.dst }) }

/-- Everything but the memory comes back: none while a parcel finds no core or the sheet has no room for the launches. -/
def restoreJob (s : State) (m : Img) (pid job : Nat) : Option State :=
  let c := m.cut
  if 1024 < liveLaunches s (sheetOf pid) + c.launches.length then none
  else
    let (s0, v) := acceptJob (freeSlots s m.job) m pid job
    match restoreParcels s0 v c.parcels with
    | none => none
    | some s1 =>
      let s2 := c.recs.foldl (fun t r => loadRec t v r) (restoreGroups s1 v c)
      let s3 := c.allots.foldl (fun t x => loadAllot t (v.pkey x.1) x.2) s2
      let s4 := c.empties.foldl (fun t x => { t with emptyLines := t.emptyLines ++ x.2.map (lineKey (coreFor t (v.pkey x.1))) }) s3
      let ks := (c.groups.filter wholeGroup).map (fun g => v.key g.key)
      let s5 := ks.foldl rebind s4
      let s6 := setCtr (loadCounters s5 pid m) (newCtr s5 (sheetOf pid) job m.ctr)
      some (c.parcels.foldl (fun t p => firstResidents t (v.pkey p.key) ((ks.filterMap (getG t)).filter (fun g =>
        parcelKey g = v.pkey p.key && !isOver g))) s6)

/-- The image, checked, is restored onto this package where the list names it; a restore waits for room as placement does. -/
def restoreOnto (s : State) (snd : Sender) (m : Img) (pid job : Nat) (plist : List Byte) : State :=
  match allPages s pid .write (m.cut.blocks.map (fun b => b.1)) with
  | none => answer s snd 0x21 3 0 []
  | some pages =>
    if (ownPart s plist).isNone then answer s snd 0x21 0 0 []
    else match restoreJob (pages.foldl (fun t b => putBlock t b.2 (assocD [] m.cut.blocks b.1)) s) m pid job with
      | none => s
      | some t => answer t snd 0x21 0 0 []

/-- RESTORE of an image (20, R388-R389): whether the signature, the packages and the tags hold, and what other copies of the counter
read, is what the instruction says. -/
def restoreImage (s : State) (snd : Sender) (m : Img) (job n : Nat) (plist : List Byte) (sigOk peersOk tagsOk : Bool)
    (reads : List Nat) : State :=
  if !featOn s m.pid 4 then answer s snd 0x21 3 0 []
  else if s.recs.any (fun x => x.sheet = sheetOf m.pid && x.lvl = 3 && x.h = job) then answer s snd 0x21 2 0 []
  else if n < m.size then answer s snd 0x21 3 m.size []
  else match judgeRestore s m m.pid plist.length sigOk peersOk tagsOk reads with
    | 0 => restoreOnto s snd m m.pid job plist
    | code => answer s snd 0x21 code 0 []

/-- RESTORE (20, R388-R389; 22, R413): an own LD restores its own jobs only (22, R410). -/
def execRestore (snd : Sender) (blk : BitVec 512) (sigOk peersOk : Bool) (seen : Opening) (s : State) : Res :=
  let r := blk64 blk
  let reader := match snd.who with
    | .ld pid => pid
    | _ => (imageAt s snd (r 0 8) (r 8 8) []).pid
  match readGen s (hostReader reader) (r 24 8) (r 32 1 + 1) with
  | .error _ => request_ s snd 0x21 (obsSender snd) (answer s snd 0x21 3 0 [])
  | .ok plist =>
    let m := imageAt s snd (r 0 8) (r 8 8) plist
    request_ s snd 0x21 (ownSender snd m.pid)
      (if imgPlace s (r 0 8) (r 8 8) then restoreImage s snd m (r 20 4) (r 8 8) plist sigOk peersOk seen.tagsOk seen.reads
       else answer s snd 0x21 3 0 [])

end Sys2Proof.Machine
end

