-- ==== Sys2Proof/Machine/BoxEv.lean ====
section
/-!
DEFINITION. Writes to the registers of a partition's space and of the mailboxes, and the request that BMGO submits (00, R5; 22, R409-R413).
-/

namespace Sys2Proof.Machine

/-! ## The request as it stands in the host's memory or in a datagram (22, R412-R413) -/

/-- Bytes of the block that a command needs. -/
def blockNeed (cmd arg : Nat) : Nat :=
  if cmd = 1 || cmd = 2 then 128 else if cmd = 3 || cmd = 4 || cmd = 0x11 then 16 else if cmd = 5 || cmd = 0x10 then 32
  else if 6 ≤ cmd && cmd ≤ 8 then 8 else if cmd = 0x12 then (if arg = 2 then 32 else 8) else if cmd = 0x15 then 56
  else if ckptCmd cmd then 64 else 0

/-- The values of ARG that a command lists; that of END_JOB is a handle, and those of a count or a cancel are levels, which they judge
themselves. -/
def argListed (cmd arg : Nat) : Bool :=
  if cmd = 3 || cmd = 6 || cmd = 7 || cmd = 0x0A || cmd = 0x10 then arg ≤ 1
  else if cmd = 4 then arg ≤ 2 else if cmd = 0x12 then arg ≤ 4 else if cmd = 9 then arg < 2 ^ 32
  else if cmd = 0x13 || cmd = 0x14 then true else arg = 0

/-- The group of a launch by its `%groupid`. -/
def namedGroup (s : State) (launch gid : Nat) : GKey :=
  ((groups s).find? (fun g => g.live && g.key.launch = launch && g.key.gid % 2 ^ 32 = gid)).elim ⟨launch, gid⟩ Group.key

/-- The block names no bytes that are RSV, and counts none beyond its end. -/
def blockForm (cmd blen : Nat) (b : List Byte) (snd : Sender) : Sender :=
  if cmd = 0x10 then
    (let x := if imgRead b 20 12 != 0 then Sender.rsv snd else snd
     if blen < imgRead b 16 4 + 32 then .arg x else x)
  else if cmd = 0x11 && (imgRead b 9 7 != 0 || 1 < imgRead b 8 1) then .rsv snd
  else snd

/-- The sender of a request, with what is wrong in the form of its header and block. -/
def boxSender (snd : Sender) (cmd : Nat) (h b : List Byte) : Sender :=
  let blen := imgRead h 0 4
  let arg := imgRead h 8 8
  let x0 := if imgRead h 24 40 != 0 then Sender.rsv snd else snd
  let x1 := if blen < blockNeed cmd arg || 65536 < blen then Sender.short x0 else x0
  blockForm cmd blen b (if argListed cmd arg then x1 else .arg x1)

/-- A word of 8 bytes of a block. -/
def boxWord (b : List Byte) (o : Nat) : W64 := BitVec.ofNat 64 (imgRead b o 8)

/-- The request of a header and a block is made. Whether a sealed image holds, and what other copies of a counter read, is the
environment's: free values, numbered from `fr`. -/
def serveRequest (snd : Sender) (cmd : Nat) (h b : List Byte) (fr : Nat) (s : State) : Res :=
  let blen := imgRead h 0 4
  let tgt := imgRead h 4 4
  let arg := imgRead h 8 8
  let x := boxSender snd cmd h b
  let w := boxWord b
  let free := (Config.unstated fr).toNat
  match cmd with
  | 0x01 => execPartWrite x tgt (BitVec.ofNat 1024 (imgRead b 0 128)) s
  | 0x02 => execPartRead x tgt s
  | 0x03 => if arg = 1 then execCoreOwnRead x tgt s else execCoreOwnWrite x tgt (BitVec.ofNat 128 (imgRead b 0 16)) s
  | 0x04 => if arg = 1 then execRootsWriteS1 x tgt (w 0) s else if arg = 2 then execRootsRead x tgt s else execRootsWrite x tgt (w 0) (w 8) s
  | 0x05 => execTlbi x tgt (BitVec.ofNat 256 (imgRead b 0 32)) s
  | 0x06 => if arg = 1 then execTamlyCfgRead x s else execTamlyCfgWrite x (w 0) s
  | 0x07 => if arg = 1 then execPeerRead x tgt (blen / 8) s else execPeerWrite x tgt ((List.range (blen / 8)).map (fun i => w (8 * i))) s
  | 0x08 => execIncset x (w 0) s
  | 0x09 => execEndJob x tgt arg s
  | 0x0A => if arg = 1 then execScopeStrict x s else execScopeNormal x s
  | 0x10 =>
    let k := namedGroup s (imgRead b 0 4) (imgRead b 4 4)
    let len := imgRead b 16 4
    if arg = 1 then execImageWrite x k (imgRead b 8 8) ((List.range (len / 8)).map (fun i => w (32 + 8 * i))) s
    else execImageRead x k (imgRead b 8 8) len s
  | 0x11 => execDebugStop x (imgRead b 0 4) (if imgRead b 8 1 % 2 = 1 then none else some (imgRead b 4 4)) s
  | 0x12 =>
    if arg = 0 then execSkctlWrite x tgt (w 0) s else if arg = 1 then execSkctlRead x tgt s
    else if arg = 2 then execSketchRead x (if tgt = 0xFFFFFFFF then none else some tgt) (BitVec.ofNat 32 (imgRead b 0 4)) s
    else if arg = 3 then execLogctlWrite x tgt (w 0) s else execLogctlRead x tgt s
  | 0x13 => execCountRead x arg tgt s
  | 0x14 => execHostCancel x arg tgt s
  | 0x15 => execRouterCount x s
  | 0x20 => execCkpt x (BitVec.ofNat 512 (imgRead b 0 64)) s
  | _ => execRestore x (BitVec.ofNat 512 (imgRead b 0 64)) (free % 2 = 1) (free / 2 % 2 = 1)
           ⟨free / 4 % 2 = 1, (List.range (free / 8 % 4)).map (fun i => (Config.unstated (fr + 1 + i)).toNat)⟩ s

/-! ## Writes (00, R5; 22, R409, R411) -/

/-- The bytes of a request: at BMADDR in the host's memory, or in the datagram; the environment's (log 1, 27). -/
def requestBytes (s : State) (snd : Sender) (o n : Nat) : List Byte :=
  (List.range n).map (fun i => Config.outsideByte s.free ((boxOf s snd).addr + o + i))

/-- A write of BMGO submits the request that stands at BMADDR: ignored while BUSY; a command that is not listed returns 0xFFFE (22, R409,
R412). The rows of the opcode table that are requests bring them with their bytes (log 27). -/
def goWrite (s : State) (snd : Sender) (cmd : Nat) : Res :=
  if boxBusy s snd then .next s
  else if !knownCmd cmd then .next (answer s snd cmd shortRes 0 [])
  else
    let h := requestBytes s snd 0 64
    serveRequest snd cmd h (requestBytes s snd 64 (imgRead h 0 4 % 65537)) s.free { s with free := s.free + 4 }

/-- A partition's own registers. -/
def partRegister (s : State) (pid : Nat) (r : PReg) (v : W64) : State :=
  let p := prtOf s pid
  match r with
  | .trapcfg => setPrt s { p with trapcfg := trapcfgOf s pid v }
  | .evbase => setPrt s { p with evbase := v &&& 0xFFFFFFFFFFFFFFC0#64 }
  | .evsize => if isPow2 v.toNat && 64 ≤ v.toNat && v.toNat ≤ 65536 then setPrt s { p with evsize := v.toNat } else s
  | .evhead => setPrt s { p with evhead := v.toNat }
  | .trcctl => setPrt s { p with trcctl := trcctlOf p v }
  | .trchead => setPrt s { p with trchead := v &&& 0xFFFFFFFF#64 }
  | .watch n => if n < 8 then setPrt s { p with watch := p.watch.set n (watchOf (p.watch.getD n ⟨0, 2, 0⟩) v) } else s
  | _ => s

/-- REGISTER_WRITE (00, R5; 22, R409, R411): RSV fields and registers that are not listed or read only are left alone. Every LD and the
management port have a mailbox; the fabric manager's LD and the port have nothing else to write. -/
def execRegisterWrite (snd : Sender) (r : PReg) (v : W64) (s : State) : Res :=
  match r with
  | .bmaddr => .next (setBox s snd (fun m => { m with addr := (v &&& 0x00FFFFFFFFFFFFC0#64).toNat }))
  | .bmgo => goWrite s snd (v.toNat % 256)
  | _ => .next (match snd.who with
    | .ld pid => partRegister s pid r v
    | _ => s)

end Sys2Proof.Machine
end

