-- ==== Sys2Proof/Machine/Salu.lean ====
section
/-!
DEFINITION. Scalar arithmetic and logic, immediates and constants (03, R61-R64).
-/

namespace Sys2Proof.Machine

/-- A register-to-register result (03, R61). -/
def salu2 (s : State) (d a b : SReg) (f : W64 → W64 → W64) : Res :=
  needS s [d, a, b] (.next (advance (ws s d (f (rs s a) (rs s b)))))

/-- A result of one register (03, R61). -/
def salu1 (s : State) (d a : SReg) (f : W64 → W64) : Res :=
  needS s [d, a] (.next (advance (ws s d (f (rs s a)))))

/-- A result of a register and the sign-extended immediate (03, R63). -/
def saluI (s : State) (d a : SReg) (i : BitVec 14) (f : W64 → W64 → W64) : Res :=
  needS s [d, a] (.next (advance (ws s d (f (rs s a) (i.signExtend 64)))))

/-- 1 or 0. -/
def flag64 (b : Bool) : W64 := if b then 1#64 else 0#64

/-- The high half of the signed product (03, R61). -/
def mulHigh (a b : W64) : W64 := BitVec.ofInt 64 (a.toInt * b.toInt / 2 ^ 64)

/-- The high half of the unsigned product (03, R61). -/
def mulHighU (a b : W64) : W64 := BitVec.ofNat 64 (a.toNat * b.toNat / 2 ^ 64)

/-- Division with its edges (03, R62). -/
def divS (a b : W64) : W64 := if b = 0#64 then 0xFFFFFFFFFFFFFFFF#64 else BitVec.ofInt 64 (a.toInt.tdiv b.toInt)

def divU (a b : W64) : W64 := if b = 0#64 then 0xFFFFFFFFFFFFFFFF#64 else BitVec.ofNat 64 (a.toNat / b.toNat)

def remS (a b : W64) : W64 := if b = 0#64 then a else BitVec.ofInt 64 (a.toInt.tmod b.toInt)

def remU (a b : W64) : W64 := if b = 0#64 then a else BitVec.ofNat 64 (a.toNat % b.toNat)

/-- Leading zeros of the low `n` bits (03, R61). -/
def clzFrom (a : Nat) : Nat → Nat
  | 0 => 0
  | n + 1 => if a.testBit n then 0 else 1 + clzFrom a n

def popFrom (a : Nat) : Nat → Nat
  | 0 => 0
  | n + 1 => (if a.testBit n then 1 else 0) + popFrom a n

/-- A shift count: the low six bits (03, R61-R62). -/
def sh6 (b : W64) : Nat := b.toNat % 64

/-- add (03, R61). -/
def execAdd (d a b : BitVec 6) (s : State) : Res := salu2 s d a b (fun a b => a + b)

/-- sub (03, R61). -/
def execSub (d a b : BitVec 6) (s : State) : Res := salu2 s d a b (fun a b => a - b)

/-- and (03, R61). -/
def execAnd (d a b : BitVec 6) (s : State) : Res := salu2 s d a b (fun a b => a &&& b)

/-- or (03, R61). -/
def execOr (d a b : BitVec 6) (s : State) : Res := salu2 s d a b (fun a b => a ||| b)

/-- xor (03, R61). -/
def execXor (d a b : BitVec 6) (s : State) : Res := salu2 s d a b (fun a b => a ^^^ b)

/-- shl (03, R61). -/
def execShl (d a b : BitVec 6) (s : State) : Res := salu2 s d a b (fun a b => a <<< sh6 b)

/-- shr (03, R61). -/
def execShr (d a b : BitVec 6) (s : State) : Res := salu2 s d a b (fun a b => a >>> sh6 b)

/-- sar (03, R61). -/
def execSar (d a b : BitVec 6) (s : State) : Res := salu2 s d a b (fun a b => a.sshiftRight (sh6 b))

/-- mul (03, R61). -/
def execMul (d a b : BitVec 6) (s : State) : Res := salu2 s d a b (fun a b => a * b)

/-- mulh (03, R61). -/
def execMulh (d a b : BitVec 6) (s : State) : Res := salu2 s d a b (fun a b => mulHigh a b)

/-- mulhu (03, R61). -/
def execMulhu (d a b : BitVec 6) (s : State) : Res := salu2 s d a b (fun a b => mulHighU a b)

/-- div (03, R61). -/
def execDiv (d a b : BitVec 6) (s : State) : Res := salu2 s d a b (fun a b => divS a b)

/-- divu (03, R61). -/
def execDivu (d a b : BitVec 6) (s : State) : Res := salu2 s d a b (fun a b => divU a b)

/-- rem (03, R61). -/
def execRem (d a b : BitVec 6) (s : State) : Res := salu2 s d a b (fun a b => remS a b)

/-- remu (03, R61). -/
def execRemu (d a b : BitVec 6) (s : State) : Res := salu2 s d a b (fun a b => remU a b)

/-- min (03, R61). -/
def execMin (d a b : BitVec 6) (s : State) : Res := salu2 s d a b (fun a b => if a.slt b then a else b)

/-- max (03, R61). -/
def execMax (d a b : BitVec 6) (s : State) : Res := salu2 s d a b (fun a b => if a.slt b then b else a)

/-- minu (03, R61). -/
def execMinu (d a b : BitVec 6) (s : State) : Res := salu2 s d a b (fun a b => if a.ult b then a else b)

/-- maxu (03, R61). -/
def execMaxu (d a b : BitVec 6) (s : State) : Res := salu2 s d a b (fun a b => if a.ult b then b else a)

/-- slt (03, R61). -/
def execSlt (d a b : BitVec 6) (s : State) : Res := salu2 s d a b (fun a b => flag64 (a.slt b))

/-- sltu (03, R61). -/
def execSltu (d a b : BitVec 6) (s : State) : Res := salu2 s d a b (fun a b => flag64 (a.ult b))

/-- seq (03, R61). -/
def execSeq (d a b : BitVec 6) (s : State) : Res := salu2 s d a b (fun a b => flag64 (a == b))

/-- andn (03, R61). -/
def execAndn (d a b : BitVec 6) (s : State) : Res := salu2 s d a b (fun a b => a &&& ~~~b)

/-- clz (03, R61). -/
def execClz (d a : BitVec 6) (s : State) : Res := salu1 s d a (fun a => BitVec.ofNat 64 (clzFrom a.toNat 64))

/-- popc (03, R61). -/
def execPopc (d a : BitVec 6) (s : State) : Res := salu1 s d a (fun a => BitVec.ofNat 64 (popFrom a.toNat 64))

/-- addi (03, R63). -/
def execAddi (d a : BitVec 6) (i : BitVec 14) (s : State) : Res := saluI s d a i (fun a i => a + i)

/-- andi (03, R63). -/
def execAndi (d a : BitVec 6) (i : BitVec 14) (s : State) : Res := saluI s d a i (fun a i => a &&& i)

/-- ori (03, R63). -/
def execOri (d a : BitVec 6) (i : BitVec 14) (s : State) : Res := saluI s d a i (fun a i => a ||| i)

/-- xori (03, R63). -/
def execXori (d a : BitVec 6) (i : BitVec 14) (s : State) : Res := saluI s d a i (fun a i => a ^^^ i)

/-- slti (03, R63). -/
def execSlti (d a : BitVec 6) (i : BitVec 14) (s : State) : Res := saluI s d a i (fun a i => flag64 (a.slt i))

/-- sltiu (03, R63). -/
def execSltiu (d a : BitVec 6) (i : BitVec 14) (s : State) : Res := saluI s d a i (fun a i => flag64 (a.ult i))

/-- shli (03, R63). -/
def execShli (d a i : BitVec 6) (s : State) : Res := salu1 s d a (fun a => a <<< i.toNat)

/-- shri (03, R63). -/
def execShri (d a i : BitVec 6) (s : State) : Res := salu1 s d a (fun a => a >>> i.toNat)

/-- sari (03, R63). -/
def execSari (d a i : BitVec 6) (s : State) : Res := salu1 s d a (fun a => a.sshiftRight i.toNat)

/-- The constant of an SU word (03, R64). -/
def imm20 (i : BitVec 20) : W64 := (i ++ 0#12 : BitVec (20 + 12)).signExtend 64

/-- lui (03, R64). -/
def execLui (d : BitVec 6) (i : BitVec 20) (s : State) : Res := needS s [d] (.next (advance (ws s d (imm20 i))))

/-- addpc (03, R64). -/
def execAddpc (d : BitVec 6) (i : BitVec 20) (s : State) : Res :=
  needS s [d] (.next (advance (ws s d ((cur s).pc + imm20 i))))

/-- One 16-bit quarter replaced (03, R64). -/
def putQuarter (x : W64) (q : BitVec 2) (v : BitVec 16) : W64 :=
  (x &&& ~~~(0xFFFF#64 <<< (16 * q.toNat))) ||| (v.zeroExtend 64 <<< (16 * q.toNat))

/-- movk (03, R64). -/
def execMovk (d : BitVec 6) (q : BitVec 2) (v : BitVec 16) (s : State) : Res :=
  needS s [d] (.next (advance (ws s d (putQuarter (rs s d) q v))))

end Sys2Proof.Machine
end

