-- ==== Sys2Proof/Machine/ScalarMem.lean ====
section
/-!
DEFINITION. Scalar loads, stores and atomics (05, R113-R115, R124-R125).
-/

namespace Sys2Proof.Machine

/-- The address of a scalar access (05, R113). -/
def scalarAddr (s : State) (a : SReg) (i : BitVec 14) : Nat := (rs s a + i.signExtend 64).toNat

/-- A scalar load issues with the source that it has read (19, R357): a stash load is performed at once, any other at its target (05,
R113-R115). -/
def issueLoad (s : State) (i : Instr) (d : SReg) (base : W64) (ga size : Nat) (sgn : Bool) (kind : PKind) (fa : Nat) : Res :=
  roomToIssue s .load (pathOfKind kind)
    (match kind with
     | .stash =>
       stashReady s fa size false none
         (.next (advance (issue s
           { id := 0, g := s.g.key, slot := s.slot, tag := 0, cls := .load, instr := i, pc := (cur s).pc.toNat
             mask := (cur s).mask, land := .sreg d size sgn, vals := [[base.toNat]]
             parts := [{ ga := ga, fa := fa, size := size, kind := .stash, st := .done
                         res := stashRead s s.g.core fa size }] })))
     | k =>
       .next (advance (issue s
         { id := 0, g := s.g.key, slot := s.slot, tag := 0, cls := .load, instr := i, pc := (cur s).pc.toNat
           mask := (cur s).mask, land := .sreg d size sgn, vals := [[base.toNat]]
           parts := [{ ga := ga, fa := fa, size := size, kind := k }] })))

/-- A scalar load (05, R113). -/
def scalarLoad (s : State) (i : Instr) (d a : SReg) (o : BitVec 14) (size : Nat) (sgn : Bool) : Res :=
  needS s [d, a]
    (let ga := scalarAddr s a o
     scalarAccess s .read ga size (fun kind fa => issueLoad s i d (rs s a) ga size sgn kind fa))

/-- A scalar store issues (05, R113). -/
def issueStore (s : State) (i : Instr) (v : Nat) (ga size : Nat) (kind : PKind) (fa : Nat) : Res :=
  roomToIssue s .store (pathOfKind kind)
    (match kind with
     | .stash =>
       stashReady s fa size true none
         (.next (advance (issue (stashStore s s.g fa (leBytes size v))
           { id := 0, g := s.g.key, slot := s.slot, tag := 0, cls := .store, instr := i, pc := (cur s).pc.toNat
             mask := (cur s).mask
             parts := [{ ga := ga, fa := fa, size := size, kind := .stash, wr := true, data := v, st := .done }] })))
     | k =>
       .next (advance (issue s
         { id := 0, g := s.g.key, slot := s.slot, tag := 0, cls := .store, instr := i, pc := (cur s).pc.toNat
           mask := (cur s).mask
           parts := [{ ga := ga, fa := fa, size := size, kind := k, wr := true, data := v }] })))

/-- A scalar store (05, R113). -/
def scalarStore (s : State) (i : Instr) (d a : SReg) (o : BitVec 14) (size : Nat) : Res :=
  needS s [d, a]
    (let ga := scalarAddr s a o
     scalarAccess s .write ga size
       (fun kind fa => issueStore s i ((rs s d).toNat % 2 ^ (8 * size)) ga size kind fa))

/-- A scalar atomic issues; a stash word is read and written at once (05, R124-R125). -/
def issueAtom (s : State) (i : Instr) (d : SReg) (op : AtomOp) (v c ga : Nat) (kind : PKind) (fa : Nat) : Res :=
  roomToIssue s .atomic (pathOfKind kind)
    (match kind with
     | .stash =>
       stashReady s fa 8 false none
         (let old := stashRead s s.g.core fa 8
          .next (advance (issue (stashStore s s.g fa (leBytes 8 (atomNew op 64 old v c)))
            { id := 0, g := s.g.key, slot := s.slot, tag := 0, cls := .atomic, instr := i, pc := (cur s).pc.toNat
              mask := (cur s).mask, land := .sreg d 8 false, aop := some op
              parts := [{ ga := ga, fa := fa, size := 8, kind := .stash, wr := true, data := v, cmp := c, st := .done
                          res := old }] })))
     | k =>
       .next (advance (issue s
         { id := 0, g := s.g.key, slot := s.slot, tag := 0, cls := .atomic, instr := i, pc := (cur s).pc.toNat
           mask := (cur s).mask, land := .sreg d 8 false, aop := some op
           parts := [{ ga := ga, fa := fa, size := 8, kind := k, wr := true, data := v, cmp := c }] })))

/-- A scalar atomic (05, R125): for `cas`, sd is read first as the compare value. -/
def scalarAtom (s : State) (i : Instr) (op : AtomOp) (d a b : SReg) : Res :=
  needS s [d, a, b]
    (let ga := (rs s a).toNat
     scalarAccess s .atomic ga 8 (fun kind fa => issueAtom s i d op (rs s b).toNat (rs s d).toNat ga kind fa))

/-- ldb (05, R113). -/
def execLdb (d a : BitVec 6) (i : BitVec 14) (s : State) : Res := scalarLoad s (.ldb d a i) d a i 1 true

/-- ldh (05, R113). -/
def execLdh (d a : BitVec 6) (i : BitVec 14) (s : State) : Res := scalarLoad s (.ldh d a i) d a i 2 true

/-- ldw (05, R113). -/
def execLdw (d a : BitVec 6) (i : BitVec 14) (s : State) : Res := scalarLoad s (.ldw d a i) d a i 4 true

/-- ldd (05, R113). -/
def execLdd (d a : BitVec 6) (i : BitVec 14) (s : State) : Res := scalarLoad s (.ldd d a i) d a i 8 false

/-- ldbu (05, R113). -/
def execLdbu (d a : BitVec 6) (i : BitVec 14) (s : State) : Res := scalarLoad s (.ldbu d a i) d a i 1 false

/-- ldhu (05, R113). -/
def execLdhu (d a : BitVec 6) (i : BitVec 14) (s : State) : Res := scalarLoad s (.ldhu d a i) d a i 2 false

/-- ldwu (05, R113). -/
def execLdwu (d a : BitVec 6) (i : BitVec 14) (s : State) : Res := scalarLoad s (.ldwu d a i) d a i 4 false

/-- stb (05, R113). -/
def execStb (d a : BitVec 6) (i : BitVec 14) (s : State) : Res := scalarStore s (.stb d a i) d a i 1

/-- sth (05, R113). -/
def execSth (d a : BitVec 6) (i : BitVec 14) (s : State) : Res := scalarStore s (.sth d a i) d a i 2

/-- stw (05, R113). -/
def execStw (d a : BitVec 6) (i : BitVec 14) (s : State) : Res := scalarStore s (.stw d a i) d a i 4

/-- std (05, R113). -/
def execStd (d a : BitVec 6) (i : BitVec 14) (s : State) : Res := scalarStore s (.std d a i) d a i 8

/-- satom.add (05, R125). -/
def execSatomAdd (d a b : BitVec 6) (s : State) : Res := scalarAtom s (.satomAdd d a b) .add d a b

/-- satom.swap (05, R125). -/
def execSatomSwap (d a b : BitVec 6) (s : State) : Res := scalarAtom s (.satomSwap d a b) .swap d a b

/-- satom.cas (05, R125). -/
def execSatomCas (d a b : BitVec 6) (s : State) : Res := scalarAtom s (.satomCas d a b) .cas d a b

/-- satom.min (05, R125). -/
def execSatomMin (d a b : BitVec 6) (s : State) : Res := scalarAtom s (.satomMin d a b) .min d a b

/-- satom.max (05, R125). -/
def execSatomMax (d a b : BitVec 6) (s : State) : Res := scalarAtom s (.satomMax d a b) .max d a b

/-- satom.minu (05, R125). -/
def execSatomMinu (d a b : BitVec 6) (s : State) : Res := scalarAtom s (.satomMinu d a b) .minu d a b

/-- satom.maxu (05, R125). -/
def execSatomMaxu (d a b : BitVec 6) (s : State) : Res := scalarAtom s (.satomMaxu d a b) .maxu d a b

/-- satom.and (05, R125). -/
def execSatomAnd (d a b : BitVec 6) (s : State) : Res := scalarAtom s (.satomAnd d a b) .and d a b

/-- satom.or (05, R125). -/
def execSatomOr (d a b : BitVec 6) (s : State) : Res := scalarAtom s (.satomOr d a b) .or d a b

/-- satom.xor (05, R125). -/
def execSatomXor (d a b : BitVec 6) (s : State) : Res := scalarAtom s (.satomXor d a b) .xor d a b

end Sys2Proof.Machine
end

