-- ==== Sys2Proof/Machine/SpecFam.lean ====
section
/-!
DEFINITION. Speculative windows (05, R151-R152).
-/

namespace Sys2Proof.Machine

def winOpen (l : Launch) (w : Nat) : Bool := l.windows.getLsbD w

def setWin (l : Launch) (w : Nat) (b : Bool) : Launch :=
  { l with windows := if b then l.windows ||| (1#16 <<< w) else l.windows &&& ~~~(1#16 <<< w) }

/-- Every SPW that names the window is invalid from now on, those in the images of stopped groups among them: they stay as they are,
and the count of the window's closings tells them apart (05, R155). -/
def dropSpw (s : State) (launch w : Nat) : State :=
  let f : Group → Group := fun g =>
    if g.key.launch = launch && (g.spw.map Prod.fst) = some w && g.stop = .running then { g with spw := none } else g
  let s1 : State := { s with g := f s.g, others := s.others.map f }
  match launchOf s1 launch with
  | some l => setLaunch s1 { l with wgens := assocSet l.wgens w (assocD 0 l.wgens w + 1) }
  | none => s1

/-- Words of a window on their way to their slices take another name, of the slots that `p` picks. -/
def renameFlight (s : State) (launch w name : Nat) (p : Nat → Bool) : State :=
  { s with ops := s.ops.map (fun o => if o.g.launch != launch then o else { o with parts := o.parts.map (fun q =>
      match q.spec with
      | some (x, sl) => if x = w && p sl && q.st != .done then { q with spec := some (name, sl) } else q
      | none => q) }) }

/-- Tells the peers' slices that hold tagged words of a window. -/
def tellWin (s : State) (i : Instr) (launch w : Nat) (x : Note) : State :=
  match notes x (awayAt s (fun a => a.g.launch = launch && a.win = some w)) with
  | [] => s
  | ps => quietStore s i ps

/-- The window's slots below `n` are marked for publication by group `k` and leave it under a name of their own, a window number
above 16; the words of the other slots are discarded, at their slices and on their way (05, R152, R155). -/
def markTags (s : State) (i : Instr) (launch w n : Nat) (k : GKey) : State :=
  let name := 16 + s.nextId
  let s1 := { s with
    nextId := s.nextId + 1
    spec := (s.spec.filter (fun t => !(t.launch = launch && t.win = w && n ≤ t.slot))).map (fun t =>
      if t.launch = launch && t.win = w then { t with win := name } else t) }
  let s2 := tellWin (renameFlight (renameFlight s1 launch w name (fun x => x < n)) launch w discardWin (fun x => n ≤ x)) i launch w
    (.mark w n name)
  let s3 := { s2 with away := s2.away.map (fun a => if a.g.launch = launch && a.win = some w then { a with win := some name } else a) }
  match launchOf s3 launch with
  | some l => if n = 0 then s3 else setLaunch s3 { l with marks := l.marks ++ [(k, name, n)] }
  | none => s3

/-- Opens a window if it is closed, and sets SPW. -/
def openWin (s : State) (w slot : Nat) : State :=
  match launchOf s s.g.key.launch with
  | some l =>
    let s1 := setLaunch s (setWin l w true)
    { s1 with g := { s1.g with spw := some (w, slot), spwGen := assocD 0 l.wgens w } }
  | none => { s with g := { s.g with spw := some (w, slot) } }

/-- spopen (05, R152): the words of an open window are discarded. -/
def execSpopen (a : BitVec 6) (w : BitVec 4) (s : State) : Res :=
  gated s 2 <| needS s [a]
    (let isOpen := match launchOf s s.g.key.launch with
      | some l => winOpen l w.toNat
      | none => false
     let s1 := if isOpen then markTags s (.spopen a w) s.g.key.launch w.toNat 0 s.g.key else s
     .next (advance (openWin s1 w.toNat ((rs s a).toNat % 8))))

/-- spslot (05, R152). -/
def execSpslot (a : BitVec 6) (w : BitVec 4) (s : State) : Res :=
  gated s 2 <| needS s [a] (.next (advance (openWin s w.toNat ((rs s a).toNat % 8))))

/-- spcommit (05, R152, R155). -/
def execSpcommit (a : BitVec 6) (w : BitVec 4) (s : State) : Res :=
  gated s 2 <| needS s [a]
    (let n := min (rs s a).toNat 8
     let launch := s.g.key.launch
     let s1 := dropSpw (markTags s (.spcommit a w) launch w.toNat n s.g.key) launch w.toNat
     .next (advance (match launchOf s1 launch with
       | some l => setLaunch s1 (setWin l w.toNat false)
       | none => s1)))

end Sys2Proof.Machine
end

