-- ==== Sys2Proof/Machine/Special.lean ====
section
/-!
DEFINITION. Special registers and the mode registers (03, R77-R79; 05, R149; 11, R258).
-/

namespace Sys2Proof.Machine

/-- The value of a special register (03, R77; 05, R149). -/
def special (s : State) (i : Nat) : Nat :=
  let g := s.g
  match i with
  | 0 => g.d.gx % 2 ^ 32
  | 1 => g.d.gy % 2 ^ 32
  | 2 => g.d.gz % 2 ^ 32
  | 3 => g.d.gx * g.d.gy * g.d.gz % 2 ^ 32
  | 4 => g.key.gid % 2 ^ 32
  | 5 => g.width
  | 6 => g.step
  | 7 => g.argp.toNat
  | 8 => g.stashbase.toNat
  | 9 => g.key.launch
  | 10 => sheetOf g.pid
  | 11 => s.time
  | 12 => pkgNo s
  | 13 => g.core
  | 14 => (cur s).mask.toNat
  | 15 => g.spill.toNat
  | 16 => g.d.lcode.toNat % 2 ^ 56
  | _ => 0

/-- gets (03, R77). -/
def execGets (d i : BitVec 6) (s : State) : Res :=
  needS s [d] (.next (advance (ws s d (BitVec.ofNat 64 (special s i.toNat)))))

/-- sets (03, R77-R78); `%argp` waits for the path's earlier clauses to issue (11, R258). A %spill of 2^20, which a 20-bit register
cannot hold, traps also where the spill area is empty (DESIGN CHOICE, log 83). -/
def execSets (a i : BitVec 6) (s : State) : Res :=
  needS s [a]
    (let v := rs s a
     if i = 7#6 then
       if !clausesIssued (cur s) then waitFor s .earlier
       else .next (advance { s with g := { s.g with argp := v } })
     else if i = 8#6 then
       if v.toNat % 16 != 0 then trapS s .align
       else if 2 ^ 20 ≤ v.toNat then trapS s .stashRange
       else .next (advance { s with g := { s.g with stashbase := BitVec.ofNat 20 v.toNat } })
     else if i = 15#6 then
       if v.toNat % 64 != 0 then trapS s .align
       else if 2 ^ 20 < v.toNat + s.g.d.spill || 2 ^ 20 ≤ v.toNat then trapS s .stashRange
       else if s.g.spillCnt != 0 then trapS s .divStack
       else .next (advance { s with g := { s.g with spill := BitVec.ofNat 20 v.toNat } })
     else trapS s .illEnc)

/-- The mode family waits until every clause the path enqueued has completed (03, R79). -/
def needDone (s : State) (k : Res) : Res := if clausesDone s then k else waitFor s .earlier

/-- setmode (03, R79). -/
def execSetmode (a : BitVec 6) (s : State) : Res :=
  needS s [a] (needDone s
    (let v := rs s a
     if v.extractLsb' 0 3 = 0#3 || v.extractLsb' 0 3 = 7#3 || (v.extractLsb' 0 3 = 6#3 && !featOn s s.g.pid 3) then trapS s .illRnd
     else .next (advance (setCur s { cur s with gmode := v.truncate 32 &&& gmodeMask }))))

/-- getmode (03, R79). -/
def execGetmode (d : BitVec 6) (s : State) : Res :=
  needS s [d] (needDone s (.next (advance (ws s d ((cur s).gmode.zeroExtend 64)))))

/-- setfmt (03, R79). -/
def execSetfmt (a : BitVec 6) (s : State) : Res :=
  needS s [a] (needDone s (.next (advance (setCur s { cur s with gfmt := rs s a &&& gfmtMask }))))

/-- getfmt (03, R79). -/
def execGetfmt (d : BitVec 6) (s : State) : Res :=
  needS s [d] (needDone s (.next (advance (ws s d (cur s).gfmt))))

end Sys2Proof.Machine
end

