-- ==== Sys2Proof/Machine/Sys.lean ====
section
/-!
DEFINITION. The sys family and `rett` (19, R365-R368).
-/

namespace Sys2Proof.Machine

/-- trap: the stop point lies after it (19, R356, R365). -/
def execTrap (n : BitVec 6) (s : State) : Res :=
  .next (takeTrap (advance s) { cause := .user n, slot := s.slot, info := n.toNat })

/-- brkpt (19, R365). -/
def execBrkpt (k : BitVec 8) (s : State) : Res :=
  .next (takeTrap (advance s) { cause := .brkpt, slot := s.slot, info := k.toNat })

/-- yield: the path counts as blocked, its wake condition true, until it next runs or an eviction decision has looked at
it; it resumes at the next instruction (19, R365). -/
def execYield (s : State) : Res :=
  let t := advance s
  .next (setCur t { cur t with wait := some .yield })

/-- contset (19, R366). -/
def execContset (a : BitVec 6) (s : State) : Res :=
  needS s [a]
    (if s.g.park.isSome then trapS s .stepDiv
     else if (rs s a).extractLsb' 0 2 != 0#2 then trapS s .align
     else .next (advance { s with g := { s.g with cont := rs s a } }))

/-- The parked state comes back (19, R367). -/
def unpark (g : Group) (p : Park) : Group :=
  { g with p0 := { p.p0 with wait := none, exempt := !p.frame.slot }, p1 := { p.p1 with wait := none, exempt := p.frame.slot }
           s := p.s, replay := p.replay, park := none, contDone := none, image := none }

/-- What the focused group has parked, as the park area of its image now has it (19, R366-R367). -/
def parkedOf (s : State) (p : Park) : Park :=
  match imageBytes s s.g with
  | some img => loadPark s.g img (offPark s.g) p
  | none => p

/-- contret (19, R367): of a failed request the parked cause is taken as a stop, at which the accesses that the continuation has left
unfinished are captured or waited for (19, R356-R357). -/
def execContret (s : State) : Res :=
  match s.g.park with
  | none => trapS s .priv
  | some p =>
    if (pathOf s.g (!s.slot)).occ || s.g.spillCnt != 0 then trapS s .stepDiv
    else match s.g.contDone with
      | none => waitFor s .cont
      | some failed =>
        let q := parkedOf s p
        let g1 := unpark s.g q
        if failed then .next (tryLand { s with g := { g1 with stop := .stopping q.frame, why := .failed }, slot := q.frame.slot })
        else .next (goOn { s with g := g1, slot := q.frame.slot } q.frame.dfr q.frame)

/-- nop (19, R365). -/
def execNop (s : State) : Res := .next (advance s)

/-- rett (19, R364, R368). -/
def execRett (s : State) : Res := if s.g.super then .next (resumeFocus s) else trapS s .priv

end Sys2Proof.Machine
end

