-- ==== Sys2Proof/Machine/Tcfg.lean ====
section
/-!
DEFINITION. Tile control registers (10, R240, R242).
-/

namespace Sys2Proof.Machine

/-- tcfg: earlier clauses of the path have issued, and so have read the old value (10, R242). -/
def execTcfg (a : BitVec 6) (n : BitVec 4) (s : State) : Res :=
  needS s [a]
    (if !clausesIssued (cur s) then waitFor s .earlier
     else .next (advance { s with g := { s.g with tc := s.g.tc.set n.toNat (rs s a &&& tcMask) } }))

/-- tcfg.r (10, R242). -/
def execTcfgR (d : BitVec 6) (n : BitVec 4) (s : State) : Res :=
  needS s [d]
    (if !clausesIssued (cur s) then waitFor s .earlier
     else .next (advance (ws s d (s.g.tc.getD n.toNat 0#64))))

end Sys2Proof.Machine
end

