-- ==== Sys2Proof/Machine/UnitEv.lean ====
section
/-!
DEFINITION. Errors of units, start-up, clocks, power and resets of the package (04, R93; 12, R269; 14, R298-R301; 22,
R415-R420).
-/

namespace Sys2Proof.Machine

/-! ## Units (22, R415-R416) -/

def testingOf (s : State) (u : UnitId) : Option Bool := (s.svc.testing.find? (fun t => t.1 = u)).map (fun t => t.2)

/-- A notice that stops no group (19, R355). -/
def addNotice (s : State) (c : Cause) : State := { s with notices := s.notices ++ [(c, s.time)] }

/-- The words that an uncorrected error of a unit leaves poisoned; which, the spec does not say: a free choice (log 9). A
pseudo-channel's are those of one 32-byte unit of its stack, at the controller; a slice's is a word that it holds (04, R84-R85,
R92). -/
def poisonSome (s : State) (u : UnitId) : State :=
  let v := (Config.unstated s.free).toNat
  match u with
  | .channel st pc =>
    let x := 16384 * (v / 8 % 2 ^ 22) + 256 * (pc % 64) + 32 * (v % 8)
    let ws := ((List.range 8).map (fun i => ofStack st (x + 4 * i))).filter (fun w => !s.memPoison.contains w)
    { s with free := s.free + 1, memPoison := s.memPoison ++ ws }
  | .slice n =>
    let ws := (s.lines.filter (fun l => l.slice = n)).map (fun l => lineWords l.addr l.valid) |>.flatten
    match ws[v % max 1 ws.length]? with
    | some w => { s with free := s.free + 1, poison := if s.poison.contains w then s.poison else s.poison ++ [w] }
    | none => { s with free := s.free + 1 }
  | _ => s

/-- UNIT_ERROR (22, R415-R416): the notice, and the unit is isolated and tested; a second error fails the test. -/
def execUnitError (u : UnitId) (corrected : Bool) (s : State) : Res :=
  let s1 := addNotice s (if corrected then .errCorrected else .unitErr)
  let s2 := if corrected then s1 else poisonSome s1 u
  let s3 := match u with
    | .core n => setCore s2 { coreOf s2 n with leaveAt := s.time }
    | _ => s2
  let t := s3.svc.testing
  .next { s3 with svc := { s3.svc with
    testing := if t.any (fun x => x.1 = u) then t.map (fun x => if x.1 = u then (u, true) else x) else t ++ [(u, false)] } }

/-- A slice's lines leave its cache, written back with their poison, and the requests held behind fills come again (22, R415). -/
def flushSlice (s : State) (sl : Nat) : State :=
  let mine := s.lines.filter (fun l => l.slice = sl)
  (mine.map Line.held).flatten.foldl (fun (t : State) h => match (opOf t h.1) with
    | some o => (match o.parts[h.2]? with
      | some p => if p.st = .held then putPart t o h.2 { p with st := .todo } else t
      | none => t)
    | none => t) (mine.foldl evictLine s)

/-- Every budget whose SLMASK has been written loses a slice from it (22, R415). -/
def loseSlice (s : State) (sl : Nat) : State :=
  { s with prts := s.prts.map (fun p => { p with slmask := p.slmask.map (fun m => m &&& ~~~(1#256 <<< sl)) }) }

/-- Takes a spare: the counts after it, if one is left. -/
def takeSpare (l : List Nat) (i : Nat) : Option (List Nat) := if l.getD i 0 = 0 then none else some (l.set i (l.getD i 0 - 1))

/-- A unit that has failed its test is retired; a spare takes its number (22, R415). -/
def retireUnit (s : State) (u : UnitId) : State :=
  let v := s.svc
  match u with
  | .core n => match takeSpare v.coreSpares (n / 192) with
    | some l => { s with svc := { v with coreSpares := l } }
    | none => { s with svc := { v with stoppedCores := v.stoppedCores ++ [n] } }
  | .slice n =>
    let s1 := flushSlice s n
    (match takeSpare v.sliceSpares (n / 64) with
     | some l => { s1 with svc := { s1.svc with sliceSpares := l } }
     | none => loseSlice { s1 with svc := { s1.svc with retired := s1.svc.retired ++ [u] } } n)
  | .channel st _ => match takeSpare v.chanSpares st with
    | some l => { s with svc := { v with chanSpares := l } }
    | none => { s with svc := { v with retired := v.retired ++ [u] } }
  | .lane _ _ => { s with svc := { v with retired := v.retired ++ [u] } }
  | .tamly port _ => retireLane s port

/-- A slice cannot be retired yet: a line of it that is to be written back has a pseudo-channel under test (22, R415; log 101). -/
def keepsDirty (s : State) (u : UnitId) : Bool :=
  match u with
  | .slice n => s.lines.any (fun l => l.slice = n && l.dirty != 0#32 && chanTesting s l.addr)
  | _ => false

/-- SELF_TEST_DONE (22, R415-R416): a test that fails may have found an uncorrectable word, which is a free choice. -/
def execSelfTestDone (u : UnitId) (pass : Bool) (s : State) : Res :=
  match testingOf s u with
  | none => .next s
  | some second =>
    if !(pass && !second) && keepsDirty s u then .next s
    else
    let s1 : State := { s with svc := { s.svc with testing := s.svc.testing.filter (fun t => t.1 != u) } }
    let s2 : State := { s1 with free := s1.free + 1 }
    .next (if pass && !second then s1
      else retireUnit (if (Config.outsideByte s1.free 0).toNat % 2 = 1 then poisonSome s2 u else s2) u)

/-! ## Start-up (12, R269; 22, R417) -/

/-- Start-up is complete once the firmware has verified and the start-up self-test has passed: STRICT_SCOPE ends (12, R269). -/
def completeStart (s : State) : State :=
  if s.fwOk && s.selfTest && !s.started then { s with strict := false, started := true } else s

/-- FIRMWARE_VERIFY (22, R417) of one image: the signature check's outcome is the argument (log 12). Once an image has failed, the package
stays in recovery. -/
def execFirmwareVerify (ok : Bool) (measurement : BitVec 512) (s : State) : Res :=
  if s.started then .next s
  else
    let bad := s.svc.fwBad || !ok
    .next (completeStart { s with fwOk := !bad, svc := { s.svc with fwBad := bad, measures := s.svc.measures ++ [measurement] } })

/-- STARTUP_COMPLETE (12, R269): the start-up self-test has passed. -/
def execStartupComplete (s : State) : Res :=
  .next (if s.started then s else completeStart { s with selfTest := true })

/-! ## Clocks and power (22, R419-R420) -/

/-- CLOCK_HOLDOVER (22, R419). -/
def execClockHoldover (s : State) : Res := .next { s with holdover := true }

/-- PTP_MASTER_HEARD (22, R419). -/
def execPtpMasterHeard (s : State) : Res := .next { s with holdover := false }

/-- POWER_CAP (22, R420): the arithmetic clock is lowered in steps of 100 MHz. -/
def execPowerCap (mhz : Nat) (s : State) : Res :=
  if mhz % 100 = 0 && 0 < mhz && mhz < s.mhz then .next { s with mhz := mhz } else .next s

/-- POWER_CAP_LIFTED (22, R420). -/
def execPowerCapLifted (mhz : Nat) (s : State) : Res :=
  if mhz % 100 = 0 && s.mhz < mhz && mhz ≤ 1600 then .next { s with mhz := mhz } else .next s

/-- Every group has to leave its core, as at the end of a slice, and none is admitted (18, R351; 22, R420). -/
def overheat (s : State) : State :=
  if s.svc.hot then s
  else { s with svc := { s.svc with hot := true }, cores := s.cores.map (fun r => { r with leaveAt := s.time }) }

/-- The groups that have not stopped. -/
def unstopped (s : State) : List Group :=
  (groups s).filter (fun g => g.live && g.resident && (match g.stop with
    | .running => true
    | .stopping _ => true
    | .pageWait _ => true
    | _ => false))

/-- THERMAL_SHUTDOWN (22, R420): every group stops as at slice end; once none is left the package powers down (log 100). -/
def execThermalShutdown (s : State) : Res :=
  let s1 := overheat s
  .next (if unstopped s1 = [] then { s1.parcels.foldl stopStreamer s1 with powered := false } else s1)

/-! ## Resets (14, R298-R301; 22, R418) -/

/-- POWER_ON (22, R418): everything is as after reset; the agenda, the free values, and what the Burard controller keeps of
counters and signatures go on (log 2, 28). -/
def execPowerOn (s : State) : Res :=
  let svc : Svc := { ctrs := s.svc.ctrs, copies := s.svc.copies, sigs := s.svc.sigs, random := s.svc.random }
  .next { State.reset with agenda := s.agenda, free := s.free, nextId := s.nextId, time := s.time, svc := svc }

/-- PACKAGE_RESET (14, R301): INC rises, every peer is DOWN, and the notice goes out. Memory, the clock and what the Burard
controller keeps stay (log 28). -/
def execPackageReset (s : State) : Res :=
  let inc := (s.net.inc + 1) % 65536
  let net : Net := { inc := inc, incSet := true, row := s.net.row, col := s.net.col, tokenSeen := s.time
                     domain := s.net.domain, peers := (List.range 256).map (fun n => (n, 0, 2)) }
  let svc : Svc := { ctrs := s.svc.ctrs, copies := s.svc.copies, sigs := s.svc.sigs, random := s.svc.random, measures := s.svc.measures
                     retired := s.svc.retired, coreSpares := s.svc.coreSpares, sliceSpares := s.svc.sliceSpares
                     chanSpares := s.svc.chanSpares, stoppedCores := s.svc.stoppedCores, imgs := s.svc.imgs }
  let s1 : State := { State.reset with
    agenda := s.agenda, free := s.free, nextId := s.nextId, time := s.time, mem := s.mem
    memPoison := (s.poison ++ s.memPoison.filter (fun w => !s.poison.contains w)).filter (wordPoisoned s)
    holdover := s.holdover, mhz := s.mhz, net := net, svc := svc }
  let lost := s.svc.ckpts.filter (fun c => c.stage < 3)
  .next (lost.foldl (fun t c => answer t c.snd 0x20 6 0 []) (sendNotice s1 (pkgNo s1) inc 0))

end Sys2Proof.Machine
end

