-- ==== Sys2Proof/Machine/Dispatch.lean ====
section
/-!
DEFINITION. The meaning of each instruction, one arm per constructor.
-/

namespace Sys2Proof.Machine

def exec (i : Instr) (s : State) : Host.Outcome State Fault Refusal :=
  match i with
  | .add x0 x1 x2 => Sys2Proof.Machine.execAdd x0 x1 x2 s
  | .sub x0 x1 x2 => Sys2Proof.Machine.execSub x0 x1 x2 s
  | .and x0 x1 x2 => Sys2Proof.Machine.execAnd x0 x1 x2 s
  | .or x0 x1 x2 => Sys2Proof.Machine.execOr x0 x1 x2 s
  | .xor x0 x1 x2 => Sys2Proof.Machine.execXor x0 x1 x2 s
  | .shl x0 x1 x2 => Sys2Proof.Machine.execShl x0 x1 x2 s
  | .shr x0 x1 x2 => Sys2Proof.Machine.execShr x0 x1 x2 s
  | .sar x0 x1 x2 => Sys2Proof.Machine.execSar x0 x1 x2 s
  | .mul x0 x1 x2 => Sys2Proof.Machine.execMul x0 x1 x2 s
  | .mulh x0 x1 x2 => Sys2Proof.Machine.execMulh x0 x1 x2 s
  | .mulhu x0 x1 x2 => Sys2Proof.Machine.execMulhu x0 x1 x2 s
  | .div x0 x1 x2 => Sys2Proof.Machine.execDiv x0 x1 x2 s
  | .divu x0 x1 x2 => Sys2Proof.Machine.execDivu x0 x1 x2 s
  | .rem x0 x1 x2 => Sys2Proof.Machine.execRem x0 x1 x2 s
  | .remu x0 x1 x2 => Sys2Proof.Machine.execRemu x0 x1 x2 s
  | .min x0 x1 x2 => Sys2Proof.Machine.execMin x0 x1 x2 s
  | .max x0 x1 x2 => Sys2Proof.Machine.execMax x0 x1 x2 s
  | .minu x0 x1 x2 => Sys2Proof.Machine.execMinu x0 x1 x2 s
  | .maxu x0 x1 x2 => Sys2Proof.Machine.execMaxu x0 x1 x2 s
  | .slt x0 x1 x2 => Sys2Proof.Machine.execSlt x0 x1 x2 s
  | .sltu x0 x1 x2 => Sys2Proof.Machine.execSltu x0 x1 x2 s
  | .seq x0 x1 x2 => Sys2Proof.Machine.execSeq x0 x1 x2 s
  | .clz x0 x1 => Sys2Proof.Machine.execClz x0 x1 s
  | .popc x0 x1 => Sys2Proof.Machine.execPopc x0 x1 s
  | .andn x0 x1 x2 => Sys2Proof.Machine.execAndn x0 x1 x2 s
  | .addi x0 x1 x2 => Sys2Proof.Machine.execAddi x0 x1 x2 s
  | .andi x0 x1 x2 => Sys2Proof.Machine.execAndi x0 x1 x2 s
  | .ori x0 x1 x2 => Sys2Proof.Machine.execOri x0 x1 x2 s
  | .xori x0 x1 x2 => Sys2Proof.Machine.execXori x0 x1 x2 s
  | .shli x0 x1 x2 => Sys2Proof.Machine.execShli x0 x1 x2 s
  | .shri x0 x1 x2 => Sys2Proof.Machine.execShri x0 x1 x2 s
  | .sari x0 x1 x2 => Sys2Proof.Machine.execSari x0 x1 x2 s
  | .slti x0 x1 x2 => Sys2Proof.Machine.execSlti x0 x1 x2 s
  | .sltiu x0 x1 x2 => Sys2Proof.Machine.execSltiu x0 x1 x2 s
  | .lui x0 x1 => Sys2Proof.Machine.execLui x0 x1 s
  | .addpc x0 x1 => Sys2Proof.Machine.execAddpc x0 x1 s
  | .movk x0 x1 x2 => Sys2Proof.Machine.execMovk x0 x1 x2 s
  | .beq x0 x1 x2 => Sys2Proof.Machine.execBeq x0 x1 x2 s
  | .bne x0 x1 x2 => Sys2Proof.Machine.execBne x0 x1 x2 s
  | .blt x0 x1 x2 => Sys2Proof.Machine.execBlt x0 x1 x2 s
  | .bge x0 x1 x2 => Sys2Proof.Machine.execBge x0 x1 x2 s
  | .bltu x0 x1 x2 => Sys2Proof.Machine.execBltu x0 x1 x2 s
  | .bgeu x0 x1 x2 => Sys2Proof.Machine.execBgeu x0 x1 x2 s
  | .jmp x0 => Sys2Proof.Machine.execJmp x0 s
  | .call x0 => Sys2Proof.Machine.execCall x0 s
  | .jmpr x0 x1 => Sys2Proof.Machine.execJmpr x0 x1 s
  | .split x0 x1 x2 => Sys2Proof.Machine.execSplit x0 x1 x2 s
  | .join => Sys2Proof.Machine.execJoin s
  | .pany x0 x1 x2 => Sys2Proof.Machine.execPany x0 x1 x2 s
  | .pall x0 x1 x2 => Sys2Proof.Machine.execPall x0 x1 x2 s
  | .pcnt x0 x1 x2 => Sys2Proof.Machine.execPcnt x0 x1 x2 s
  | .pmask x0 x1 x2 => Sys2Proof.Machine.execPmask x0 x1 x2 s
  | .cls x0 => Sys2Proof.Machine.execCls x0 s
  | .clsr x0 => Sys2Proof.Machine.execClsr x0 s
  | .spopen x0 x1 => Sys2Proof.Machine.execSpopen x0 x1 s
  | .spslot x0 x1 => Sys2Proof.Machine.execSpslot x0 x1 s
  | .spcommit x0 x1 => Sys2Proof.Machine.execSpcommit x0 x1 s
  | .ldb x0 x1 x2 => Sys2Proof.Machine.execLdb x0 x1 x2 s
  | .ldh x0 x1 x2 => Sys2Proof.Machine.execLdh x0 x1 x2 s
  | .ldw x0 x1 x2 => Sys2Proof.Machine.execLdw x0 x1 x2 s
  | .ldd x0 x1 x2 => Sys2Proof.Machine.execLdd x0 x1 x2 s
  | .ldbu x0 x1 x2 => Sys2Proof.Machine.execLdbu x0 x1 x2 s
  | .ldhu x0 x1 x2 => Sys2Proof.Machine.execLdhu x0 x1 x2 s
  | .ldwu x0 x1 x2 => Sys2Proof.Machine.execLdwu x0 x1 x2 s
  | .stb x0 x1 x2 => Sys2Proof.Machine.execStb x0 x1 x2 s
  | .sth x0 x1 x2 => Sys2Proof.Machine.execSth x0 x1 x2 s
  | .stw x0 x1 x2 => Sys2Proof.Machine.execStw x0 x1 x2 s
  | .std x0 x1 x2 => Sys2Proof.Machine.execStd x0 x1 x2 s
  | .gets x0 x1 => Sys2Proof.Machine.execGets x0 x1 s
  | .sets x0 x1 => Sys2Proof.Machine.execSets x0 x1 s
  | .tkld x0 x1 x2 x3 => Sys2Proof.Machine.execTkld x0 x1 x2 x3 s
  | .tkred x0 x1 => Sys2Proof.Machine.execTkred x0 x1 s
  | .tkredQ x0 x1 x2 => Sys2Proof.Machine.execTkredQ x0 x1 x2 s
  | .tkdrop x0 => Sys2Proof.Machine.execTkdrop x0 s
  | .waitp x0 x1 => Sys2Proof.Machine.execWaitp x0 x1 s
  | .waitf x0 => Sys2Proof.Machine.execWaitf x0 s
  | .fence x0 => Sys2Proof.Machine.execFence x0 s
  | .pub x0 => Sys2Proof.Machine.execPub x0 s
  | .acq x0 => Sys2Proof.Machine.execAcq x0 s
  | .step => Sys2Proof.Machine.execStep s
  | .stepq x0 => Sys2Proof.Machine.execStepq x0 s
  | .qbind x0 x1 => Sys2Proof.Machine.execQbind x0 x1 s
  | .qunbind x0 x1 => Sys2Proof.Machine.execQunbind x0 x1 s
  | .qpush x0 x1 => Sys2Proof.Machine.execQpush x0 x1 s
  | .qpushT x0 x1 x2 => Sys2Proof.Machine.execQpushT x0 x1 x2 s
  | .qpop x0 x1 => Sys2Proof.Machine.execQpop x0 x1 s
  | .qtry x0 x1 x2 => Sys2Proof.Machine.execQtry x0 x1 x2 s
  | .qlen x0 x1 => Sys2Proof.Machine.execQlen x0 x1 s
  | .amsg x0 x1 x2 x3 => Sys2Proof.Machine.execAmsg x0 x1 x2 x3 s
  | .amsgReply x0 x1 => Sys2Proof.Machine.execAmsgReply x0 x1 s
  | .launch x0 x1 => Sys2Proof.Machine.execLaunch x0 x1 s
  | .waitw x0 x1 x2 => Sys2Proof.Machine.execWaitw x0 x1 x2 s
  | .cancel x0 x1 => Sys2Proof.Machine.execCancel x0 x1 s
  | .wcount x0 x1 x2 => Sys2Proof.Machine.execWcount x0 x1 x2 s
  | .trap x0 => Sys2Proof.Machine.execTrap x0 s
  | .brkpt x0 => Sys2Proof.Machine.execBrkpt x0 s
  | .yield => Sys2Proof.Machine.execYield s
  | .contset x0 => Sys2Proof.Machine.execContset x0 s
  | .contret => Sys2Proof.Machine.execContret s
  | .nop => Sys2Proof.Machine.execNop s
  | .rett => Sys2Proof.Machine.execRett s
  | .binit x0 x1 => Sys2Proof.Machine.execBinit x0 x1 s
  | .bexpect x0 x1 => Sys2Proof.Machine.execBexpect x0 x1 s
  | .barrive x0 => Sys2Proof.Machine.execBarrive x0 s
  | .bwait x0 x1 => Sys2Proof.Machine.execBwait x0 x1 s
  | .btest x0 x1 => Sys2Proof.Machine.execBtest x0 x1 s
  | .mfree x0 => Sys2Proof.Machine.execMfree x0 s
  | .satomAdd x0 x1 x2 => Sys2Proof.Machine.execSatomAdd x0 x1 x2 s
  | .satomSwap x0 x1 x2 => Sys2Proof.Machine.execSatomSwap x0 x1 x2 s
  | .satomCas x0 x1 x2 => Sys2Proof.Machine.execSatomCas x0 x1 x2 s
  | .satomMin x0 x1 x2 => Sys2Proof.Machine.execSatomMin x0 x1 x2 s
  | .satomMax x0 x1 x2 => Sys2Proof.Machine.execSatomMax x0 x1 x2 s
  | .satomMinu x0 x1 x2 => Sys2Proof.Machine.execSatomMinu x0 x1 x2 s
  | .satomMaxu x0 x1 x2 => Sys2Proof.Machine.execSatomMaxu x0 x1 x2 s
  | .satomAnd x0 x1 x2 => Sys2Proof.Machine.execSatomAnd x0 x1 x2 s
  | .satomOr x0 x1 x2 => Sys2Proof.Machine.execSatomOr x0 x1 x2 s
  | .satomXor x0 x1 x2 => Sys2Proof.Machine.execSatomXor x0 x1 x2 s
  | .setmode x0 => Sys2Proof.Machine.execSetmode x0 s
  | .getmode x0 => Sys2Proof.Machine.execGetmode x0 s
  | .setfmt x0 => Sys2Proof.Machine.execSetfmt x0 s
  | .getfmt x0 => Sys2Proof.Machine.execGetfmt x0 s
  | .rsta x0 x1 x2 => Sys2Proof.Machine.execRsta x0 x1 x2 s
  | .fralloc x0 x1 => Sys2Proof.Machine.execFralloc x0 x1 s
  | .frcontrib x0 x1 => Sys2Proof.Machine.execFrcontrib x0 x1 s
  | .frcontribQ x0 x1 x2 => Sys2Proof.Machine.execFrcontribQ x0 x1 x2 s
  | .frwait x0 x1 x2 => Sys2Proof.Machine.execFrwait x0 x1 x2 s
  | .tcfg x0 x1 => Sys2Proof.Machine.execTcfg x0 x1 s
  | .tcfgR x0 x1 => Sys2Proof.Machine.execTcfgR x0 x1 s
  | .iadd x0 => Sys2Proof.Machine.execIadd x0 s
  | .isub x0 => Sys2Proof.Machine.execIsub x0 s
  | .imul x0 => Sys2Proof.Machine.execImul x0 s
  | .imulh x0 => Sys2Proof.Machine.execImulh x0 s
  | .imulhu x0 => Sys2Proof.Machine.execImulhu x0 s
  | .imad x0 => Sys2Proof.Machine.execImad x0 s
  | .imin x0 => Sys2Proof.Machine.execImin x0 s
  | .imax x0 => Sys2Proof.Machine.execImax x0 s
  | .iminu x0 => Sys2Proof.Machine.execIminu x0 s
  | .imaxu x0 => Sys2Proof.Machine.execImaxu x0 s
  | .iabs x0 => Sys2Proof.Machine.execIabs x0 s
  | .iand x0 => Sys2Proof.Machine.execIand x0 s
  | .ior x0 => Sys2Proof.Machine.execIor x0 s
  | .ixor x0 => Sys2Proof.Machine.execIxor x0 s
  | .iandn x0 => Sys2Proof.Machine.execIandn x0 s
  | .ishl x0 => Sys2Proof.Machine.execIshl x0 s
  | .ishr x0 => Sys2Proof.Machine.execIshr x0 s
  | .isar x0 => Sys2Proof.Machine.execIsar x0 s
  | .ipopc x0 => Sys2Proof.Machine.execIpopc x0 s
  | .iclz x0 => Sys2Proof.Machine.execIclz x0 s
  | .ibfe x0 => Sys2Proof.Machine.execIbfe x0 s
  | .ibfi x0 => Sys2Proof.Machine.execIbfi x0 s
  | .icmp x0 => Sys2Proof.Machine.execIcmp x0 s
  | .isel x0 => Sys2Proof.Machine.execIsel x0 s
  | .imov x0 => Sys2Proof.Machine.execImov x0 s
  | .iadd64 x0 => Sys2Proof.Machine.execIadd64 x0 s
  | .imad64 x0 => Sys2Proof.Machine.execImad64 x0 s
  | .fadd x0 => Sys2Proof.Machine.execFadd x0 s
  | .fsub x0 => Sys2Proof.Machine.execFsub x0 s
  | .fmul x0 => Sys2Proof.Machine.execFmul x0 s
  | .ffma x0 => Sys2Proof.Machine.execFfma x0 s
  | .fmin x0 => Sys2Proof.Machine.execFmin x0 s
  | .fmax x0 => Sys2Proof.Machine.execFmax x0 s
  | .fminnan x0 => Sys2Proof.Machine.execFminnan x0 s
  | .fmaxnan x0 => Sys2Proof.Machine.execFmaxnan x0 s
  | .fcmp x0 => Sys2Proof.Machine.execFcmp x0 s
  | .fclass x0 => Sys2Proof.Machine.execFclass x0 s
  | .frnd x0 => Sys2Proof.Machine.execFrnd x0 s
  | .fscale x0 => Sys2Proof.Machine.execFscale x0 s
  | .fdot2 x0 => Sys2Proof.Machine.execFdot2 x0 s
  | .fdot4 x0 => Sys2Proof.Machine.execFdot4 x0 s
  | .cvtif x0 => Sys2Proof.Machine.execCvtif x0 s
  | .cvtfi x0 => Sys2Proof.Machine.execCvtfi x0 s
  | .cvtff x0 => Sys2Proof.Machine.execCvtff x0 s
  | .cvtn x0 => Sys2Proof.Machine.execCvtn x0 s
  | .cvtw x0 => Sys2Proof.Machine.execCvtw x0 s
  | .qscale x0 => Sys2Proof.Machine.execQscale x0 s
  | .pack x0 => Sys2Proof.Machine.execPack x0 s
  | .unpack x0 => Sys2Proof.Machine.execUnpack x0 s
  | .rcpa x0 => Sys2Proof.Machine.execRcpa x0 s
  | .rsqrta x0 => Sys2Proof.Machine.execRsqrta x0 s
  | .exp2a x0 => Sys2Proof.Machine.execExp2a x0 s
  | .log2a x0 => Sys2Proof.Machine.execLog2a x0 s
  | .sinpa x0 => Sys2Proof.Machine.execSinpa x0 s
  | .cospa x0 => Sys2Proof.Machine.execCospa x0 s
  | .tanha x0 => Sys2Proof.Machine.execTanha x0 s
  | .sqrt x0 => Sys2Proof.Machine.execSqrt x0 s
  | .fdiv x0 => Sys2Proof.Machine.execFdiv x0 s
  | .lld x0 => Sys2Proof.Machine.execLld x0 s
  | .lst x0 => Sys2Proof.Machine.execLst x0 s
  | .latom x0 => Sys2Proof.Machine.execLatom x0 s
  | .ltkld x0 => Sys2Proof.Machine.execLtkld x0 s
  | .ltkred x0 => Sys2Proof.Machine.execLtkred x0 s
  | .lpref x0 => Sys2Proof.Machine.execLpref x0 s
  | .tld x0 => Sys2Proof.Machine.execTld x0 s
  | .tst x0 => Sys2Proof.Machine.execTst x0 s
  | .tzero x0 => Sys2Proof.Machine.execTzero x0 s
  | .tmovi x0 => Sys2Proof.Machine.execTmovi x0 s
  | .tmovo x0 => Sys2Proof.Machine.execTmovo x0 s
  | .tsum x0 => Sys2Proof.Machine.execTsum x0 s
  | .mma x0 => Sys2Proof.Machine.execMma x0 s
  | .mdist x0 => Sys2Proof.Machine.execMdist x0 s
  | .ald x0 => Sys2Proof.Machine.execAld x0 s
  | .adrain x0 => Sys2Proof.Machine.execAdrain x0 s
  | .aclr x0 => Sys2Proof.Machine.execAclr x0 s
  | .mtopk x0 => Sys2Proof.Machine.execMtopk x0 s
  | .xpub x0 => Sys2Proof.Machine.execXpub x0 s
  | .nbvalid x0 => Sys2Proof.Machine.execNbvalid x0 s
  | .rng x0 => Sys2Proof.Machine.execRng x0 s
  | .rseed x0 => Sys2Proof.Machine.execRseed x0 s
  | .sample x0 => Sys2Proof.Machine.execSample x0 s
  | .kop x0 => Sys2Proof.Machine.execKop x0 s
  | .shfl x0 => Sys2Proof.Machine.execShfl x0 s
  | .lbcast x0 => Sys2Proof.Machine.execLbcast x0 s
  | .gred x0 => Sys2Proof.Machine.execGred x0 s
  | .gscan x0 => Sys2Proof.Machine.execGscan x0 s
  | .illegalEncoding x0 => Sys2Proof.Machine.execIllegalEncoding x0 s
  | .stepClose x0 => Sys2Proof.Machine.execStepClose x0 s
  | .stepEntry x0 => Sys2Proof.Machine.execStepEntry x0 s
  | .clauseDecode x0 x1 => Sys2Proof.Machine.execClauseDecode x0 x1 s
  | .clauseIssue x0 x1 x2 => Sys2Proof.Machine.execClauseIssue x0 x1 x2 s
  | .longLatencyComplete x0 => Sys2Proof.Machine.execLongLatencyComplete x0 s
  | .accessReturn x0 => Sys2Proof.Machine.execAccessReturn x0 s
  | .sliceAccess x0 x1 => Sys2Proof.Machine.execSliceAccess x0 x1 s
  | .mergingFillLands x0 x1 => Sys2Proof.Machine.execMergingFillLands x0 x1 s
  | .hostWindowPass x0 x1 x2 => Sys2Proof.Machine.execHostWindowPass x0 x1 x2 s
  | .lreq x0 x1 => Sys2Proof.Machine.execLreq x0 x1 s
  | .evrespResume x0 x1 => Sys2Proof.Machine.execEvrespResume x0 x1 s
  | .evrespFail x0 x1 => Sys2Proof.Machine.execEvrespFail x0 x1 s
  | .evrespCancel x0 x1 => Sys2Proof.Machine.execEvrespCancel x0 x1 s
  | .partWrite x0 x1 x2 => Sys2Proof.Machine.execPartWrite x0 x1 x2 s
  | .coreOwnWrite x0 x1 x2 => Sys2Proof.Machine.execCoreOwnWrite x0 x1 x2 s
  | .rootsWrite x0 x1 x2 x3 => Sys2Proof.Machine.execRootsWrite x0 x1 x2 x3 s
  | .tlbi x0 x1 x2 => Sys2Proof.Machine.execTlbi x0 x1 x2 s
  | .featAccept x0 x1 => Sys2Proof.Machine.execFeatAccept x0 x1 s
  | .registerWrite x0 x1 x2 => Sys2Proof.Machine.execRegisterWrite x0 x1 x2 s
  | .sheetBind x0 x1 x2 => Sys2Proof.Machine.execSheetBind x0 x1 x2 s
  | .hostMemAccess x0 x1 x2 x3 => Sys2Proof.Machine.execHostMemAccess x0 x1 x2 x3 s
  | .packetHop x0 x1 => Sys2Proof.Machine.execPacketHop x0 x1 s
  | .replyArrival x0 => Sys2Proof.Machine.execReplyArrival x0 s
  | .powerOn => Sys2Proof.Machine.execPowerOn s
  | .thermalShutdown => Sys2Proof.Machine.execThermalShutdown s
  | .firmwareVerify x0 x1 => Sys2Proof.Machine.execFirmwareVerify x0 x1 s
  | .startupComplete => Sys2Proof.Machine.execStartupComplete s
  | .tamlyIdWrite x0 => Sys2Proof.Machine.execTamlyIdWrite x0 s
  | .slotRefill x0 => Sys2Proof.Machine.execSlotRefill x0 s
  | .pathRotation x0 x1 => Sys2Proof.Machine.execPathRotation x0 x1 s
  | .forcedPublication x0 x1 => Sys2Proof.Machine.execForcedPublication x0 x1 s
  | .scopeRetry x0 x1 => Sys2Proof.Machine.execScopeRetry x0 x1 s
  | .marginValueArrival x0 x1 => Sys2Proof.Machine.execMarginValueArrival x0 x1 s
  | .closeAnnouncement x0 => Sys2Proof.Machine.execCloseAnnouncement x0 s
  | .ticketFetchLands x0 x1 => Sys2Proof.Machine.execTicketFetchLands x0 x1 s
  | .ticketLeaseExpiry x0 x1 => Sys2Proof.Machine.execTicketLeaseExpiry x0 x1 s
  | .queueElementAccess x0 => Sys2Proof.Machine.execQueueElementAccess x0 s
  | .popBufferFill x0 x1 => Sys2Proof.Machine.execPopBufferFill x0 x1 s
  | .pushBufferDrain x0 x1 => Sys2Proof.Machine.execPushBufferDrain x0 x1 s
  | .handlerSpawn x0 => Sys2Proof.Machine.execHandlerSpawn x0 s
  | .amsgEnqueue x0 => Sys2Proof.Machine.execAmsgEnqueue x0 s
  | .groupEnd x0 x1 => Sys2Proof.Machine.execGroupEnd x0 x1 s
  | .eviction x0 => Sys2Proof.Machine.execEviction x0 s
  | .entrantAdmission x0 => Sys2Proof.Machine.execEntrantAdmission x0 s
  | .streamerCommandStart x0 => Sys2Proof.Machine.execStreamerCommandStart x0 s
  | .sectorLands x0 x1 x2 => Sys2Proof.Machine.execSectorLands x0 x1 x2 s
  | .streamerFault x0 x1 x2 x3 => Sys2Proof.Machine.execStreamerFault x0 x1 x2 x3 s
  | .mapOperation x0 => Sys2Proof.Machine.execMapOperation x0 s
  | .mcastStart x0 => Sys2Proof.Machine.execMcastStart x0 s
  | .mappedFillLands x0 x1 => Sys2Proof.Machine.execMappedFillLands x0 x1 s
  | .flitRetry x0 => Sys2Proof.Machine.execFlitRetry x0 s
  | .laneRetire x0 => Sys2Proof.Machine.execLaneRetire x0 s
  | .suspectTimeout x0 => Sys2Proof.Machine.execSuspectTimeout x0 s
  | .compassTokenArrival x0 => Sys2Proof.Machine.execCompassTokenArrival x0 s
  | .tokenReissue => Sys2Proof.Machine.execTokenReissue s
  | .sequencedApply x0 x1 => Sys2Proof.Machine.execSequencedApply x0 x1 s
  | .packageReset => Sys2Proof.Machine.execPackageReset s
  | .resetNotice x0 x1 => Sys2Proof.Machine.execResetNotice x0 x1 s
  | .requestTimeout x0 x1 => Sys2Proof.Machine.execRequestTimeout x0 x1 s
  | .tagQuarantineEnd x0 x1 => Sys2Proof.Machine.execTagQuarantineEnd x0 x1 s
  | .rstaSegment x0 x1 => Sys2Proof.Machine.execRstaSegment x0 x1 s
  | .rstaAck x0 x1 => Sys2Proof.Machine.execRstaAck x0 x1 s
  | .doorSegment x0 x1 => Sys2Proof.Machine.execDoorSegment x0 x1 s
  | .reductionRequest x0 => Sys2Proof.Machine.execReductionRequest x0 s
  | .reductionTimer x0 => Sys2Proof.Machine.execReductionTimer x0 s
  | .launchRelease x0 => Sys2Proof.Machine.execLaunchRelease x0 s
  | .launchPlacement x0 => Sys2Proof.Machine.execLaunchPlacement x0 s
  | .launchEnd x0 => Sys2Proof.Machine.execLaunchEnd x0 s
  | .recordDrop x0 x1 x2 => Sys2Proof.Machine.execRecordDrop x0 x1 x2 s
  | .sliceStart x0 => Sys2Proof.Machine.execSliceStart x0 s
  | .sliceEnd x0 => Sys2Proof.Machine.execSliceEnd x0 s
  | .saveTimeout x0 => Sys2Proof.Machine.execSaveTimeout x0 s
  | .pageWalk x0 x1 x2 x3 => Sys2Proof.Machine.execPageWalk x0 x1 x2 x3 s
  | .preciseStop x0 => Sys2Proof.Machine.execPreciseStop x0 s
  | .lateFaultArrival x0 x1 x2 => Sys2Proof.Machine.execLateFaultArrival x0 x1 x2 s
  | .eventRecordWrite x0 => Sys2Proof.Machine.execEventRecordWrite x0 s
  | .ckpt x0 x1 => Sys2Proof.Machine.execCkpt x0 x1 s
  | .migrate x0 x1 => Sys2Proof.Machine.execMigrate x0 x1 s
  | .cutTaken x0 => Sys2Proof.Machine.execCutTaken x0 s
  | .cutTimeout x0 => Sys2Proof.Machine.execCutTimeout x0 s
  | .blockCopy x0 => Sys2Proof.Machine.execBlockCopy x0 s
  | .checkpointCommit x0 x1 => Sys2Proof.Machine.execCheckpointCommit x0 x1 s
  | .restore x0 x1 x2 x3 x4 => Sys2Proof.Machine.execRestore x0 x1 x2 x3 x4 s
  | .replayHorizon x0 => Sys2Proof.Machine.execReplayHorizon x0 s
  | .partRead x0 x1 => Sys2Proof.Machine.execPartRead x0 x1 s
  | .coreOwnRead x0 x1 => Sys2Proof.Machine.execCoreOwnRead x0 x1 s
  | .rootsWriteS1 x0 x1 x2 => Sys2Proof.Machine.execRootsWriteS1 x0 x1 x2 s
  | .rootsRead x0 x1 => Sys2Proof.Machine.execRootsRead x0 x1 s
  | .tamlyCfgWrite x0 x1 => Sys2Proof.Machine.execTamlyCfgWrite x0 x1 s
  | .tamlyCfgRead x0 => Sys2Proof.Machine.execTamlyCfgRead x0 s
  | .peerWrite x0 x1 x2 => Sys2Proof.Machine.execPeerWrite x0 x1 x2 s
  | .peerRead x0 x1 x2 => Sys2Proof.Machine.execPeerRead x0 x1 x2 s
  | .incset x0 x1 => Sys2Proof.Machine.execIncset x0 x1 s
  | .endJob x0 x1 x2 => Sys2Proof.Machine.execEndJob x0 x1 x2 s
  | .scopeNormal x0 => Sys2Proof.Machine.execScopeNormal x0 s
  | .scopeStrict x0 => Sys2Proof.Machine.execScopeStrict x0 s
  | .imageRead x0 x1 x2 x3 => Sys2Proof.Machine.execImageRead x0 x1 x2 x3 s
  | .imageWrite x0 x1 x2 x3 => Sys2Proof.Machine.execImageWrite x0 x1 x2 x3 s
  | .debugStop x0 x1 x2 => Sys2Proof.Machine.execDebugStop x0 x1 x2 s
  | .skctlWrite x0 x1 x2 => Sys2Proof.Machine.execSkctlWrite x0 x1 x2 s
  | .skctlRead x0 x1 => Sys2Proof.Machine.execSkctlRead x0 x1 s
  | .sketchRead x0 x1 x2 => Sys2Proof.Machine.execSketchRead x0 x1 x2 s
  | .logctlWrite x0 x1 x2 => Sys2Proof.Machine.execLogctlWrite x0 x1 x2 s
  | .logctlRead x0 x1 => Sys2Proof.Machine.execLogctlRead x0 x1 s
  | .countRead x0 x1 x2 => Sys2Proof.Machine.execCountRead x0 x1 x2 s
  | .hostCancel x0 x1 x2 => Sys2Proof.Machine.execHostCancel x0 x1 x2 s
  | .routerCount x0 => Sys2Proof.Machine.execRouterCount x0 s
  | .evselWrite x0 x1 => Sys2Proof.Machine.execEvselWrite x0 x1 s
  | .unitError x0 x1 => Sys2Proof.Machine.execUnitError x0 x1 s
  | .selfTestDone x0 x1 => Sys2Proof.Machine.execSelfTestDone x0 x1 s
  | .clockHoldover => Sys2Proof.Machine.execClockHoldover s
  | .powerCap x0 => Sys2Proof.Machine.execPowerCap x0 s
  | .sheetUnbind x0 => Sys2Proof.Machine.execSheetUnbind x0 s
  | .portFailure x0 => Sys2Proof.Machine.execPortFailure x0 s
  | .ptpMasterHeard => Sys2Proof.Machine.execPtpMasterHeard s
  | .powerCapLifted x0 => Sys2Proof.Machine.execPowerCapLifted x0 s

end Sys2Proof.Machine
end

