-- ==== Sys2Proof/Machine/Schedule.lean ====
section
/-!
DEFINITION. What happens next: the turns of the agenda, and the order the machine takes without one (log 2).
-/

namespace Sys2Proof.Machine

/-! ## Instructions of the scalar and lane streams -/

/-- The word traps with ILL_ENC: it is no instruction, or one of a feature that the sheet has not accepted (01, R14-R16; 22, R414). -/
def encTraps (s : State) (i : Instr) : Bool :=
  match i with
  | .illegalEncoding _ => true
  | .rsta _ _ _ => !featOn s s.g.pid 1
  | .fralloc _ _ => !featOn s s.g.pid 1
  | .frcontrib _ _ => !featOn s s.g.pid 1
  | .frcontribQ _ _ _ => !featOn s s.g.pid 1
  | .frwait _ _ _ => !featOn s s.g.pid 1
  | .spopen _ _ => !featOn s s.g.pid 2
  | .spslot _ _ => !featOn s s.g.pid 2
  | .spcommit _ _ => !featOn s s.g.pid 2
  | _ => false

/-- The fault that a turn raised in the focused group, with nothing delivered that has gone on. -/
def raised (s : State) (g : Group) : Option Frame :=
  match g.stop with
  | .stopping f => some f
  | .hostWait f => some f
  | .running => if g.super && !s.g.super then g.sup.map Park.frame else none
  | _ => none

/-- What the turn of an instruction missed in the core's L1 TLB (21, R394): the requests it issued, and the access that a page refused. -/
def turnMisses (s t : State) : State :=
  let t1 := (t.ops.filter (fun o => s.nextId ≤ o.id && o.cls != .engine)).foldl opMisses t
  match (getG t1 s.g.key).bind (fun g => (raised s g).map (fun f => (g, f))) with
  | some (g, f) =>
    if f.cause = .prot && !inStashWindow f.addr && !s.tlb1.any (fun e => e.own = g.core && e.pid = g.pid && e.page = f.addr / 4096 && permOk f.acc e.r e.w e.x)
    then noteEvent t1 g 4 (faultPc g f) 1 else t1
  | none => t1

/-- The same with the fetch of a scalar instruction before it. -/
def scalarMisses (s t : State) : State :=
  let pc := (cur s).pc
  turnMisses s (if inStashWindow pc.toNat then t else noteMiss t (getG t s.g.key) s.g.core s.g.pid pc.toNat .fetch pc)

/-- The focused path fetches and executes its next scalar instruction (01, R6-R7). A word that traps with ILL_ENC is counted nowhere:
it has no effect but the trap (01, R16). -/
def scalarTurn (s : State) : Res :=
  match fetchScalar s with
  | .error (c, stg) =>
    .next (turnMisses s (takeTrap s { cause := c, stg := stg, acc := .fetch, slot := s.slot, addr := (cur s).pc.toNat }))
  | .ok w =>
    match exec (decodeScalar w) s with
    | .next t => .next (scalarMisses s (if encTraps s (decodeScalar w) then t else afterScalar t s.g.key s.slot (cur s).pc))
    | r => r

/-- The core's scalar unit takes the path's instruction now (17, R339). -/
def scalarWins (s : State) (g : Group) (slot : Bool) : Bool :=
  (winner s g.core scalarUnit).any (fun w => w.key = g.key && w.slot = slot)

/-- The focused path's instruction has issued to the scalar unit. -/
def takeUnit (s : State) : State :=
  let t := countPassed s s.g.core scalarUnit s.g.d.prio
  setCur t { cur t with due := none }

/-- A path runs its next scalar instruction when the scalar unit takes it; one that has issued and waits tries again at any turn. -/
def runScalar (s : State) (k : GKey) (slot : Bool) : Res :=
  match getG s k with
  | some g =>
    if !mayRun s g slot then .next s
    else if (pathOf g slot).wait.isSome then scalarTurn (focusOn s k slot)
    else if scalarWins s g slot then scalarTurn (takeUnit (focusOn s k slot))
    else .next s
  | none => .next s

/-- The focused slot's running clause executes its next lane instruction (01, R26). -/
def laneTurn (s : State) : Res :=
  match curEnt s with
  | none => .next s
  | some e =>
    match e.code[e.idx]? with
    | none => .next s
    | some w =>
      match decodeLane w with
      | .ok i => (match exec i s with
        | .next t => .next (turnMisses s t)
        | r => r)
      | .error c => laneTrap s c

def runLane (s : State) (k : GKey) (slot : Bool) : Res :=
  match getG s k with
  | some g => if active g then laneTurn (focusOn s k slot) else .next s
  | none => .next s

/-! ## Time (21, R394; 22, R419) -/

/-- The cycles that a blocked group spends at its blocking points are counted. -/
def countBlocked (s : State) (ns : Nat) : State :=
  (groups s).foldl (fun t g =>
    if g.live && g.resident && blocked s g then noteEvent t g 3 (blockPc s g) (ns * s.mhz / 1000) else t) s

/-- Meridian time advances. -/
def tick (s : State) (ns : Nat) : State :=
  let t := countBlocked s ns
  { t with time := t.time + ns }

/-! ## Without an agenda -/

def groupActs (g : Group) : List (State → Res) :=
  let k := g.key
  [execPreciseStop k, execSlotRefill k, fun s => runLane s k false, fun s => runLane s k true, execClauseDecode k false,
   execClauseDecode k true, execStepClose k, execStepEntry k, execPathRotation k false, execPathRotation k true]
    ++ [4, 5, 6, 7].map (fun n => execPopBufferFill k n) ++ [4, 5, 6, 7].map (fun n => execPushBufferDrain k n)

def opActs (o : Op) : List (State → Res) :=
  [execLongLatencyComplete o.id, execAccessReturn o.id] ++ ((List.range o.parts.length).map (fun j =>
    [execSliceAccess o.id j, execRstaSegment o.id j, execDoorSegment o.id j, execRstaAck o.id j])).flatten

/-- The pipes of the cores whose groups have clauses to issue (17, R339). -/
def issueActs (s : State) : List (State → Res) :=
  let cs := (groups s).foldl (fun l g => if l.contains g.core then l else l ++ [g.core]) []
  (cs.map (fun c => (List.range Config.pipes).filterMap (fun p =>
    (winner s c p).map (fun w => execClauseIssue w.key w.slot p)))).flatten

/-- The scalar streams: those that wait and those that the scalar units take are the only ones that go on. -/
def scalarActs (s : State) : List (State → Res) :=
  ((groups s).map (fun g => [fun s => runScalar s g.key false, fun s => runScalar s g.key true])).flatten

def parcelActs (p : Parcel) : List (State → Res) :=
  let k := p.key
  [execStreamerCommandStart k, execMcastStart k, execMapOperation k, execHandlerSpawn k, execEntrantAdmission k, execEviction k]
    ++ (p.started.map (fun x => (List.range (landings x.cmd)).map (fun i => execSectorLands k x.cmd.seq i))).flatten
    ++ p.mfill.map (fun l => execMappedFillLands k l)

/-- The slices' own work. -/
def sliceActs (s : State) : List (State → Res) :=
  (s.lines.filter (fun l => l.fill)).map (fun l => execMergingFillLands l.slice l.addr)
    ++ (s.tickets.map (fun e => [execTicketFetchLands e.slice e.idx, execTicketLeaseExpiry e.slice e.idx])).flatten
    ++ s.qctxs.map (fun q => execQueueElementAccess q.desc)
    ++ (List.range s.msgs.length).map (fun n => execAmsgEnqueue n)
    ++ s.margin.map (fun m => execMarginValueArrival m.slice 0)
    ++ (List.range s.anns.length).map (fun n => execCloseAnnouncement n)

/-- The router's: a packet may leave by any port that its route allows. -/
def netActs (s : State) : List (State → Res) :=
  let hops : HopSrc → List (State → Res) := fun src =>
    execPacketHop src .eject :: (List.range 32).map (fun p => execPacketHop src (.port p))
  hops .own ++ ((List.range s.net.bufs.length).map (fun n => hops (.buffered n))).flatten
    ++ ((List.range s.net.relief.length).map (fun n => hops (.relief n))).flatten
    ++ (s.net.window ++ s.net.pins).map (fun k => execSequencedApply k.spkg k.tsl)
    ++ s.net.arrived.map (fun k => execReplyArrival k)
    ++ (s.net.tags.map (fun t => [execRequestTimeout t.die t.tag, execTagQuarantineEnd t.die t.tag])).flatten
    ++ (List.range s.net.rreqs.length).map (fun n => execReductionRequest n)
    ++ (List.range s.net.slots.length).map (fun i => execReductionTimer i)
    ++ (List.range s.net.bufs.length).map (fun n => execSuspectTimeout n) ++ [execTokenReissue]
    ++ (s.net.tokens.filter (fun t => t.1 = 32)).map (fun t => execCompassTokenArrival ⟨t.2.2, t.2.1⟩)

/-- Launches, partitions, cores and the Burard controller. -/
def workActs (s : State) : List (State → Res) :=
  (s.launches.map (fun l => [execLaunchRelease l.handle, execLaunchPlacement l.handle, execLaunchEnd l.handle])).flatten
    ++ ((groups s).map (fun g => [execGroupEnd g.key false, execGroupEnd g.key true])).flatten
    ++ (s.cores.map (fun r => [execSliceStart r.core, execSliceEnd r.core, execSaveTimeout r.core])).flatten
    ++ s.prts.map (fun p => execEventRecordWrite p.pid)
    ++ s.recs.map (fun r => execRecordDrop r.sheet r.lvl r.h)
    ++ (s.svc.ckpts.map (fun c => [execCutTaken c.job, execCutTimeout c.job, execBlockCopy c.job])).flatten
    ++ s.svc.logs.map (fun l => execReplayHorizon l.job) ++ (if s.svc.hot then [execThermalShutdown] else [])

/-- A group in its place by key. -/
def insertGroup (g : Group) : List Group → List Group
  | [] => [g]
  | h :: l =>
    if g.key.launch < h.key.launch || (g.key.launch = h.key.launch && g.key.gid ≤ h.key.gid) then g :: h :: l else h :: insertGroup g l

/-- The state whatever group is in focus. -/
def unfocused (s : State) : State := { s with g := Group.nobody, slot := false, others := (groups s).foldr insertGroup [] }

/-- The first act that changes something. -/
def firstOf (s : State) : List (State → Res) → Option State
  | [] => none
  | f :: fs => match f s with
    | .next t => if unfocused t = unfocused s then firstOf s fs else some t
    | _ => firstOf s fs

/-- The kinds of act; the last is the passage of time. -/
def autoActs (s : State) : List (List (State → Res)) :=
  [((groups s).map groupActs).flatten, (s.ops.map opActs).flatten, issueActs s, scalarActs s, sliceActs s,
   (s.parcels.map parcelActs).flatten, netActs s, workActs s, [fun s => .next (tick s 1)]]

/-- What the machine does without an agenda: the first of its own acts that changes something, the kinds of act taking turns, and the
acts of a kind too, so that none waits for ever (17, R340; log 2). -/
def autoStep (s : State) : State :=
  let s1 := { s with round := s.round + 1 }
  (firstOf s1 (((autoActs s).map (fun l => l.rotateLeft (s.round / 9))).rotateLeft s.round).flatten).getD s1

end Sys2Proof.Machine
end

