-- ==== Sys2Proof/Machine/Step.lean ====
section
/-!
DEFINITION. One step of the machine.
-/

namespace Sys2Proof.Machine

/-- After a turn: what has become eligible is noted (17, R339), and which partitions have become runnable (18, R350). -/
def afterTurn (r : Res) : Res :=
  match r with
  | .next t => .next (noteShares (noteEligible t))
  | r => r

/-- The turn is the application of power. -/
def isPowerOn (i : Instr) : Bool :=
  match i with
  | .powerOn => true
  | _ => false

/-- A turn of the agenda; a package that has powered down waits for POWER_ON (22, R420). -/
def runTurn (t : Turn) (s : State) : Res :=
  match t with
  | .act i => if s.powered || isPowerOn i then exec i s else .fault .poweredDown
  | .scalar k slot => if s.powered then runScalar s k slot else .fault .poweredDown
  | .lane k slot => if s.powered then runLane s k slot else .fault .poweredDown
  | .tick ns => if s.powered then .next (tick s ns) else .fault .poweredDown

/-- One step: the next turn of the agenda, or what the machine does without one (log 2). -/
def step (s : State) : Host.Outcome State Fault Refusal :=
  match s.agenda with
  | t :: r => afterTurn (runTurn t { s with agenda := r })
  | [] => if s.powered then afterTurn (.next (autoStep s)) else .fault .poweredDown

/-! ## An instruction where the next step finds it (log 3) -/

/-- Where the words stand: generic and local address of the scalar word, address of the clause. -/
def State.fetchAddr : Nat := 0x10000

/-- A group of four cells of launch 128 on core 0, of sheet 0. -/
def State.fetchGroup (s : State) : Group :=
  if s.g.live then s.g
  else { Group.start ⟨128, 0⟩ 0 0 0 0 4 4 { Desc.zero with entry := 0x10000#64 } with everRan := true }

/-- The clause whose next instruction is the lane word. -/
def State.fetchClause (w : Nat) : CEnt :=
  { addr := State.fetchAddr, mask := 0xF#32, hdr := some ⟨0#12, true, 0#4, true, 1#4, 0#32, 0#32⟩, code := [BitVec.ofNat 96 w]
    id := 1, running := true }

/-- The sheet of the group may run the group's core, with every feature accepted. -/
def State.fetchSheet (s : State) (g : Group) : State :=
  setCore (setPrt s { prtOf s (8 * sheetOf g.pid) with
      bound := true, featAccept := 0xFF#256, acceptWritten := true, msize := 0xC000000000 })
    { coreOf s g.core with mode := 1, pids := 8 * sheetOf g.pid :: List.replicate 7 0x3FF }

/-- A scalar word at the group's PC: translated, in memory, and no other view of it. -/
def State.fetchScalarWord (s : State) (g : Group) (w : Nat) : State :=
  let a := State.fetchAddr
  let other : Nat → Bool := fun x => x < a || a + 4 ≤ x
  { s with
    g := { g with p0 := { g.p0 with occ := true, pc := BitVec.ofNat 64 a, wait := none, waiting := false, due := some 0 }
                  p1 := { g.p1 with due := none }, stop := .running, resident := true }
    others := s.others.map (fun h => { h with p0 := { h.p0 with due := none }, p1 := { h.p1 with due := none } })
    slot := false
    agenda := [.scalar g.key false]
    tlb1 := ⟨g.core, g.pid, a / 4096, pkgNo s * 2 ^ 52 + a, true, true, true⟩ :: s.tlb1
    mem := cellWrite s.mem a (leBytes 4 w)
    unpub := s.unpub.filter (fun u => other u.addr)
    narrow := s.narrow.filter (fun u => other u.addr)
    poison := s.poison.filter other
    memPoison := s.memPoison.filter other
    doors := s.doors.filter (fun d => a + 4 ≤ d.base || d.base + 16 * d.count ≤ a) }

/-- A lane word in the running clause of the group's slot 0. -/
def State.fetchLaneWord (s : State) (g : Group) (w : Nat) : State :=
  { s with
    g := { g with p0 := { g.p0 with occ := true, wait := none, cq := [State.fetchClause w] }, stop := .running, resident := true }
    slot := false
    agenda := [.lane g.key false] }

/-- `s` with an instruction where the next step fetches it. -/
def State.withFetchWord (s : State) (nbits w : Nat) : State :=
  let g := State.fetchGroup s
  let t := State.fetchSheet s g
  if nbits ≤ 32 then State.fetchScalarWord t g (w % 2 ^ 32) else State.fetchLaneWord t g (w % 2 ^ 96)

end Sys2Proof.Machine
end

