-- ==== Sys2Proof/Safety.lean ====
section
/-!
DEFINITION. What counts as a safe run, and the terms that the statements use.
-/

namespace Sys2Proof

open Sys2Proof.Machine

/-- A step that gives a next state. -/
def Safety.goesOn (s : State) : Prop := ∃ t, step s = .next t

/-- A run of `n` steps that all give a next state. -/
def Safety.runs : Nat → State → State → Prop
  | 0, s, t => s = t
  | n + 1, s, t => ∃ u, step s = .next u ∧ Safety.runs n u t

/-- A state from which the machine goes on for ever. -/
def Safety.safe (s : State) : Prop := ∀ n t, Safety.runs n s t → Safety.goesOn t

/-- No register of the list awaits a load (05, R115). -/
abbrev Safety.settled (s : State) (l : List SReg) : Prop := l.all (fun r => (pendingS s r).isNone) = true

/-- The scalar register file after a write: s0 is not written (01, R9). -/
def Safety.written (l : List W64) (d : SReg) (v : W64) : List W64 := if d = 0#6 then l else l.set d.toNat v

/-- `t` is `s` with the focused path at `pc`, its wait over, and the group's register file `regs`; nothing else of the machine
has changed. -/
def Safety.movedTo (s t : State) (pc : W64) (regs : List W64) : Prop :=
  t = { s with g := { setPath s.g s.slot { cur s with pc := pc, wait := none, exempt := false } with s := regs } }

/-- The instruction has written `v` to register `d`, the path stands at the next word, and nothing else has changed. -/
def Safety.wrote (s t : State) (d : SReg) (v : W64) : Prop :=
  Safety.movedTo s t ((cur s).pc + 4#64) (Safety.written s.g.s d v)

/-- Executing `i` gives a next state: `v` is in register `d`, the path stands at the next word, nothing else has changed. -/
def Safety.setsTo (i : Instr) (s : State) (d : SReg) (v : W64) : Prop := ∃ t, exec i s = .next t ∧ Safety.wrote s t d v

/-- Executing `i` gives a next state with the path at `pc` and the group's registers `regs`; nothing else has changed. -/
def Safety.goes (i : Instr) (s : State) (pc : W64) (regs : List W64) : Prop :=
  ∃ t, exec i s = .next t ∧ Safety.movedTo s t pc regs

/-- The path stands at the next word, and nothing else of the machine has changed. -/
def Safety.passed (s t : State) : Prop := Safety.movedTo s t ((cur s).pc + 4#64) s.g.s

/-- Executing `i` gives a next state of which `P` holds. -/
def Safety.completes (i : Instr) (s : State) (P : State → Prop) : Prop := ∃ t, exec i s = .next t ∧ P t

/-- The loads that the scalar instruction `i` waits for have returned: `b` are their bytes, `t` is the state in which it goes on. -/
def Safety.loaded (s : State) (i : Instr) (b : List Byte) (t : State) : Prop :=
  ∃ o, descOp s i = some o ∧ (∀ p ∈ o.parts, p.st = .done ∧ p.err = none) ∧
    b = (o.parts.map (fun p => leBytes p.size p.res)).flatten ∧ t = dropDesc s i

/-- The store of `bs` into a descriptor can issue: the instruction goes on in `u`. -/
def Safety.stores (s s' : State) (i : Instr) (ga : Nat) (bs : List Byte) (u : State) : Prop :=
  ∀ k, descStore s s' i ga bs k = k u

/-- The focused path's publication has nothing left to wait for: its clauses have issued and its accesses of every path have
retired, or it has waited for them before; its stores are accepted; no mapped word is dirty, and no peer is to be told (05, R122). -/
abbrev Safety.published (s : State) (i : Instr) (sc : Nat) (paths : List Nat) : Prop :=
  storesAccepted s s.g.key = true ∧
  ((cur s).wait = some .told ∨
    tellPeers s i sc = none ∧ ((cur s).wait = some .written ∨
      (cur s).cq = [] ∧ (∀ p ∈ paths, pathCount s s.g.key p = 0) ∧ writeBack s i = none))

/-- The sources of the focused slot's lane instruction `i` are readable: the instruction goes on in `s1`, which has lost what the
sources pop and the halo words they used, with what they read. -/
def Safety.reads (s : State) (i : Instr) (s1 : State) (x : LaneIn) : Prop := ∀ k, withLane s i none k = k s1 x

/-- A lane instruction lands its results: what each acting lane gets, with its flags, goes to dest; the clause goes on. -/
def Safety.landed (s : State) (x : LaneIn) (f : LaneF) (wide : Bool) (md : RMode) (nd : Nat)
    (h : Nat → (Nat → Nat) → Nat × FFlags) : State :=
  laneNext (landLanes s (cur s).tag x.act f.dest.toNat wide md nd h) x.e x.act.length

/-- No armed watch of the partition covers the scalar access, or the watch check is over for this instruction (21, R400). -/
abbrev Safety.unwatched (s : State) (l : List (Nat × Acc × Nat × Nat)) : Prop :=
  (cur s).exempt = true ∨ watchFind s s.g.pid l = none

/-- There is room for one more access of the class on the paths, and no fence of the group holds it (05, R108, R121; 19, R358). -/
abbrev Safety.room (s : State) (cls : OpCls) (paths : BitVec 4) : Prop :=
  fenceHolds s = false ∧ countersFull s paths = none ∧ (capturable cls = true → captureFull s = false)

/-- The stash range holds its bytes: no earlier access to them is still to be made, no line is empty, no mapped word is to be
filled (05, R109; 06, R158-R159). -/
abbrev Safety.stashFull (s : State) (off n : Nat) (wr : Bool) : Prop :=
  stashPending s off n wr = false ∧ emptyLine s s.g.core off n = none ∧ mapNeed s s.g off n wr = none

/-- An access has issued: one operation joins those in flight under the next number, its core has counted its requests, the path
stands at the next word, and nothing else of the machine has changed. `o` gives the operation but for its number and for which of
its requests carry a timing header. -/
def Safety.issued (s t : State) (o : Op) : Prop :=
  ∃ (cs : List CoreRec) (ps : List Part),
    (∀ c, { coreOf { s with cores := cs } c with request := 0 } = { coreOf s c with request := 0 }) ∧
    ps.map (fun p => { p with sampled := false, walked := false }) = o.parts.map (fun p => { p with sampled := false, walked := false }) ∧
    t = { s with cores := cs, nextId := s.nextId + 1, ops := s.ops ++ [{ o with id := s.nextId, parts := ps }]
                 g := setPath s.g s.slot { cur s with pc := (cur s).pc + 4#64, wait := none, exempt := false } }

/-- An operation of the focused path's scalar stream, with the sources that it holds for a stop (19, R357). -/
def Safety.scalarOp (s : State) (cls : OpCls) (i : Instr) (land : Land) (aop : Option AtomOp) (p : Part) (vals : List (List Nat) := []) : Op :=
  { id := 0, g := s.g.key, slot := s.slot, tag := (cur s).tag, pc := (cur s).pc.toNat, core := s.g.core, pid := s.g.pid, cls := cls
    instr := i, mask := (cur s).mask, cmask := (cur s).mask, parts := [p], land := land, aop := aop, paths := pathOfKind p.kind
    gmode := (cur s).gmode, gfmt := (cur s).gfmt, vals := vals }

/-- Where a scalar access of `n` bytes goes wrong or goes on: it traps with ALIGN where its address is no multiple of `n`, with the
fault of its address where that has one, else it does what `k` says of the place it goes to (05, R114). -/
def Safety.scalarAccess (s : State) (i : Instr) (acc : Acc) (ga n : Nat) (k : PKind → Nat → Prop) : Prop :=
  Safety.unwatched s [(0, acc, ga, n)] →
    (ga % n ≠ 0 → exec i s = .next (takeTrap s { cause := .align, acc := acc, slot := s.slot, addr := ga })) ∧
    (ga % n = 0 → ∀ c stg, locate s s.g ga n acc = .error (c, stg) →
      exec i s = .next (takeTrap s { cause := c, stg := stg, acc := acc, slot := s.slot, addr := ga })) ∧
    (ga % n = 0 → ∀ kind fa, locate s s.g ga n acc = .ok (kind, fa) → k kind fa)

/-- Executing the lane instruction, its sources read, lands `h` in each acting lane and goes on: the statement of an instruction of
fixed latency. -/
def Safety.gives (s : State) (i : Instr) (f : LaneF) (wide : Bool) (md : RMode) (nd : Nat)
    (h : LaneIn → Nat → (Nat → Nat) → Nat × FFlags) : Prop :=
  ∀ s1 x, Safety.reads s i s1 x → Safety.completes i s (fun t => t = Safety.landed s1 x f wide md nd (h x))

/-- Every byte of memory that a core can read is the same. -/
def Safety.sameMemory (s t : State) : Prop := ∀ core a, viewByte t core a = viewByte s core a

/-- A request of the mailbox is ignored while the sender's BUSY is 1; else one from a sender that may make it (`ok`) leaves `t`, or is
refused for its form, and one from any other is answered with 0xFFFF and has no other effect (22, R409-R412). -/
def Safety.asked (i : Instr) (s : State) (snd : Sender) (cmd : Nat) (ok : Bool) (t : State) : Prop :=
  (boxBusy s snd = true → exec i s = .next s) ∧
  (boxBusy s snd = false → ok = true → formRes snd cmd = none → Safety.completes i s (fun u => u = t)) ∧
  (∀ r, boxBusy s snd = false → ok = true → formRes snd cmd = some r → exec i s = .next (answer s snd cmd r 0 [])) ∧
  (boxBusy s snd = false → ok = false → exec i s = .next (answer s snd cmd notSender 0 []))

/-- A group's scalar register file, and every file kept beside it, has its 64 registers (01, R9; 07, R179). -/
def Safety.whole (g : Group) : Prop :=
  g.s.length = 64 ∧ (∀ p, g.park = some p → p.s.length = 64) ∧ (∀ p, g.sup = some p → p.s.length = 64)

/-- What every step keeps: device memory and the stashes stand in their canonical form, and every group of the machine, of a cut and
of an image has its 64 scalar registers. -/
def Safety.inv (s : State) : Prop :=
  Memory.wf s.mem = true ∧ Memory.wf s.stash = true ∧ Safety.whole s.g ∧ (∀ g ∈ s.others, Safety.whole g) ∧
  (∀ c ∈ s.svc.ckpts, ∀ g ∈ c.cut.groups, Safety.whole g) ∧ (∀ m ∈ s.svc.imgs, ∀ g ∈ m.cut.groups, Safety.whole g)

end Sys2Proof
end

