-- ==== Sys2Proof/WellFormed.lean ====
section
/-!
DEFINITION. Which instructions an encoding can hold, and which a clause may hold.
-/

namespace Sys2Proof

/-- A scalar instruction whose fields an encoding can hold (01, R11, R14, R15, R73, R78, R110, R131). -/
def wfScalar : Instr → Bool
  | .split k i _ => !(k = 0#3 && i = 1#1)
  | .pany _ i k => !(k = 0#3 && i = 1#1)
  | .pall _ i k => !(k = 0#3 && i = 1#1)
  | .pcnt _ i k => !(k = 0#3 && i = 1#1)
  | .pmask _ i k => !(k = 0#3 && i = 1#1)
  | .gets _ i => i < 17#6
  | .sets _ i => i = 7#6 || i = 8#6 || i = 15#6
  | .tkld _ _ l _ => l != 0#6 && l < 33#6
  | .waitp _ p => p < 4#6
  | .fence s => s < 6#3
  | .pub s => s < 6#3
  | .acq s => s < 6#3
  | .illegalEncoding w => decide (decodeScalar w = .illegalEncoding w)
  | i => (encodeScalar i).isSome

/-- A lane instruction that passes the decode checks of its launch and path (01, R25 item 2). -/
def wfLane (cx : LaneCx) (i : Instr) : Bool := decide (laneCheck cx i = none)

/-- An event of the table: it has no word. -/
def isEvent (i : Instr) : Bool := (encode i).isNone

end Sys2Proof
end

