-- ==== Sys2Proof/Certificates/Slice0/Obligations.lean ====
section
/-!
DEFINITION. The statements about this model, for the provers.
-/

open Sys2Proof Sys2Proof.Machine

/-! ## The scalar stream (03) -/

/-- 03, R61-R62: the twenty-five register-to-register results. The operands are the registers as they read, s0 as zero; nothing but
sd and the path's PC changes, and no flag is set. Then the corners: division by zero and of the most negative number, and the bits
that a shift count ignores. -/
def Obligations.RegisterArithmeticGivesTheTableResult : Prop :=
  (∀ d a b : BitVec 6, let word : BitVec 8 → Instr := fun n => decodeScalar (0x00#6 ++ d ++ a ++ b ++ n)
     word 0#8 = .add d a b ∧ word 1#8 = .sub d a b ∧ word 2#8 = .and d a b ∧ word 3#8 = .or d a b ∧
     word 4#8 = .xor d a b ∧ word 5#8 = .shl d a b ∧ word 6#8 = .shr d a b ∧ word 7#8 = .sar d a b ∧
     word 8#8 = .mul d a b ∧ word 9#8 = .mulh d a b ∧ word 10#8 = .mulhu d a b ∧ word 11#8 = .div d a b ∧
     word 12#8 = .divu d a b ∧ word 13#8 = .rem d a b ∧ word 14#8 = .remu d a b ∧ word 15#8 = .min d a b ∧
     word 16#8 = .max d a b ∧ word 17#8 = .minu d a b ∧ word 18#8 = .maxu d a b ∧ word 19#8 = .slt d a b ∧
     word 20#8 = .sltu d a b ∧ word 21#8 = .seq d a b ∧ decodeScalar (0x00#6 ++ d ++ a ++ 0#6 ++ 22#8) = .clz d a ∧
     decodeScalar (0x00#6 ++ d ++ a ++ 0#6 ++ 23#8) = .popc d a ∧ word 24#8 = .andn d a b) ∧
  (∀ (s : State) (d a b : BitVec 6), Safety.settled s [d, a, b] →
     let x := rs s a
     let y := rs s b
     Safety.setsTo (.add d a b) s d (x + y) ∧
     Safety.setsTo (.sub d a b) s d (x - y) ∧
     Safety.setsTo (.and d a b) s d (x &&& y) ∧
     Safety.setsTo (.or d a b) s d (x ||| y) ∧
     Safety.setsTo (.xor d a b) s d (x ^^^ y) ∧
     Safety.setsTo (.shl d a b) s d (x <<< (y.toNat % 64)) ∧
     Safety.setsTo (.shr d a b) s d (x >>> (y.toNat % 64)) ∧
     Safety.setsTo (.sar d a b) s d (x.sshiftRight (y.toNat % 64)) ∧
     Safety.setsTo (.mul d a b) s d (x * y) ∧
     Safety.setsTo (.mulh d a b) s d ((x.signExtend 128 * y.signExtend 128).extractLsb' 64 64) ∧
     Safety.setsTo (.mulhu d a b) s d ((x.zeroExtend 128 * y.zeroExtend 128).extractLsb' 64 64) ∧
     Safety.setsTo (.div d a b) s d (if y = 0#64 then 0xFFFFFFFFFFFFFFFF#64 else x.sdiv y) ∧
     Safety.setsTo (.divu d a b) s d (if y = 0#64 then 0xFFFFFFFFFFFFFFFF#64 else x / y) ∧
     Safety.setsTo (.rem d a b) s d (if y = 0#64 then x else x.srem y) ∧
     Safety.setsTo (.remu d a b) s d (if y = 0#64 then x else x % y) ∧
     Safety.setsTo (.min d a b) s d (if x.toInt ≤ y.toInt then x else y) ∧
     Safety.setsTo (.max d a b) s d (if y.toInt ≤ x.toInt then x else y) ∧
     Safety.setsTo (.minu d a b) s d (if x.toNat ≤ y.toNat then x else y) ∧
     Safety.setsTo (.maxu d a b) s d (if y.toNat ≤ x.toNat then x else y) ∧
     Safety.setsTo (.slt d a b) s d (if x.toInt < y.toInt then 1#64 else 0#64) ∧
     Safety.setsTo (.sltu d a b) s d (if x.toNat < y.toNat then 1#64 else 0#64) ∧
     Safety.setsTo (.seq d a b) s d (if x = y then 1#64 else 0#64) ∧
     Safety.setsTo (.clz d a) s d x.clz ∧
     Safety.setsTo (.popc d a) s d (BitVec.ofNat 64 ((List.range 64).countP (fun i => x.getLsbD i))) ∧
     Safety.setsTo (.andn d a b) s d (x &&& ~~~y)) ∧
  (∀ (s : State) (d a b : BitVec 6), Safety.settled s [d, a, b] →
     (rs s b = 0#64 →
       Safety.setsTo (.div d a b) s d 0xFFFFFFFFFFFFFFFF#64 ∧ Safety.setsTo (.divu d a b) s d 0xFFFFFFFFFFFFFFFF#64 ∧
       Safety.setsTo (.rem d a b) s d (rs s a) ∧ Safety.setsTo (.remu d a b) s d (rs s a)) ∧
     (rs s a = 0x8000000000000000#64 → rs s b = 0xFFFFFFFFFFFFFFFF#64 →
       Safety.setsTo (.div d a b) s d 0x8000000000000000#64 ∧ Safety.setsTo (.rem d a b) s d 0#64) ∧
     (∀ y : W64, y.extractLsb' 0 6 = (rs s b).extractLsb' 0 6 →
       Safety.setsTo (.shl d a b) s d (rs s a <<< (y.extractLsb' 0 6).toNat) ∧
       Safety.setsTo (.shr d a b) s d (rs s a >>> (y.extractLsb' 0 6).toNat) ∧
       Safety.setsTo (.sar d a b) s d ((rs s a).sshiftRight (y.extractLsb' 0 6).toNat)))


/-- 03, R63-R64: the nine immediate results, and the three instructions that build constants; `movk` keeps every bit outside its
quarter. -/
def Obligations.ImmediatesAndConstantsGiveTheTableResult : Prop :=
  (∀ (d a n : BitVec 6) (i : BitVec 14), let word : BitVec 6 → Instr := fun op => decodeScalar (op ++ d ++ a ++ i)
     let shift : BitVec 6 → Instr := fun op => decodeScalar (op ++ d ++ a ++ 0#8 ++ n)
     word 1#6 = .addi d a i ∧ word 2#6 = .andi d a i ∧ word 3#6 = .ori d a i ∧ word 4#6 = .xori d a i ∧ word 8#6 = .slti d a i ∧
     word 9#6 = .sltiu d a i ∧ shift 5#6 = .shli d a n ∧ shift 6#6 = .shri d a n ∧ shift 7#6 = .sari d a n ∧
     (i.extractLsb' 6 8 ≠ 0#8 → ∀ op ∈ [5#6, 6#6, 7#6], word op = .illegalEncoding (op ++ d ++ a ++ i))) ∧
  (∀ (d : BitVec 6) (i : BitVec 20) (q : BitVec 2) (v : BitVec 16),
     decodeScalar (0x0A#6 ++ d ++ i) = .lui d i ∧ decodeScalar (0x0B#6 ++ d ++ i) = .addpc d i ∧
     decodeScalar (0x0C#6 ++ d ++ 0#2 ++ q ++ v) = .movk d q v) ∧
  (∀ (s : State) (d a : BitVec 6), Safety.settled s [d, a] →
     let x := rs s a
     (∀ i : BitVec 14,
       let y := i.signExtend 64
       Safety.setsTo (.addi d a i) s d (x + y) ∧
       Safety.setsTo (.andi d a i) s d (x &&& y) ∧
       Safety.setsTo (.ori d a i) s d (x ||| y) ∧
       Safety.setsTo (.xori d a i) s d (x ^^^ y) ∧
       Safety.setsTo (.slti d a i) s d (if x.toInt < i.toInt then 1#64 else 0#64) ∧
       Safety.setsTo (.sltiu d a i) s d (if x.toNat < y.toNat then 1#64 else 0#64)) ∧
     (∀ n : BitVec 6,
       Safety.setsTo (.shli d a n) s d (x <<< n.toNat) ∧
       Safety.setsTo (.shri d a n) s d (x >>> n.toNat) ∧
       Safety.setsTo (.sari d a n) s d (x.sshiftRight n.toNat))) ∧
  (∀ (s : State) (d : BitVec 6), Safety.settled s [d] →
     (∀ i : BitVec 20,
       Safety.setsTo (.lui d i) s d (BitVec.ofInt 64 (i.toInt * 4096)) ∧
       Safety.setsTo (.addpc d i) s d ((cur s).pc + BitVec.ofInt 64 (i.toInt * 4096))) ∧
     (∀ (q : BitVec 2) (v : BitVec 16), ∃ w : W64, Safety.setsTo (.movk d q v) s d w ∧
       ∀ n < 64, w.getLsbD n = if n / 16 = q.toNat then v.getLsbD (n % 16) else (rs s d).getLsbD n))


/-- 01, R9: a write to s0 is discarded and s0 reads as zero; a write to any other register is read back, and the others keep
what they read. The register file has its 64 registers. -/
def Obligations.RegistersReadBackAndZeroStays : Prop :=
  ∀ (s : State) (r : BitVec 6) (v : W64), s.g.s.length = 64 →
    ws s 0#6 v = s ∧ rs (ws s r v) 0#6 = 0#64 ∧ (r ≠ 0#6 → rs (ws s r v) r = v) ∧
    (∀ q, q ≠ r → rs (ws s r v) q = rs s q) ∧ (ws s r v).g.s.length = 64

/-- 03, R65, with 09, R237: a taken branch goes to its target, one not taken to the next word; only the PC of the path moves. A
transfer to address 0 is only for a reconverged group. -/
def Obligations.BranchesCompareAndMove : Prop :=
  (∀ (c a : BitVec 6) (o : BitVec 14), let word : BitVec 6 → Instr := fun op => decodeScalar (op ++ c ++ a ++ o)
    word 0x10#6 = .beq c a o ∧ word 0x11#6 = .bne c a o ∧ word 0x12#6 = .blt c a o ∧ word 0x13#6 = .bge c a o ∧
    word 0x14#6 = .bltu c a o ∧ word 0x15#6 = .bgeu c a o) ∧
  ∀ (s : State) (c a : BitVec 6) (o : BitVec 14), Safety.settled s [c, a] →
    let x := rs s c
    let y := rs s a
    let t := (cur s).pc + 4#64 * o.signExtend 64
    let goes : Instr → Prop → Prop := fun i taken =>
      (taken → (t ≠ 0#64 ∨ reconverged s = true) → Safety.goes i s t s.g.s) ∧
      (taken → t = 0#64 → reconverged s = false → exec i s = .next (takeTrap s { cause := .stepDiv, slot := s.slot })) ∧
      (¬taken → Safety.goes i s ((cur s).pc + 4#64) s.g.s)
    goes (.beq c a o) (x = y) ∧ goes (.bne c a o) (x ≠ y) ∧
    goes (.blt c a o) (x.toInt < y.toInt) ∧ goes (.bge c a o) (y.toInt ≤ x.toInt) ∧
    goes (.bltu c a o) (x.toNat < y.toNat) ∧ goes (.bgeu c a o) (y.toNat ≤ x.toNat)

/-- 03, R66-R67, with 09, R237: jumps and their links; the source of `jmpr` is read before its link is written, and a target that
is no multiple of 4 traps with ALIGN before any register is written. -/
def Obligations.JumpsLinkAndMove : Prop :=
  ∀ s : State,
    (∀ o : BitVec 26,
      let t := (cur s).pc + 4#64 * o.signExtend 64
      (t ≠ 0#64 ∨ reconverged s = true) →
        Safety.goes (.jmp o) s t s.g.s ∧
        (Safety.settled s [62#6] → Safety.goes (.call o) s t (Safety.written s.g.s 62#6 ((cur s).pc + 4#64)))) ∧
    (∀ d a : BitVec 6, Safety.settled s [d, a] →
      let t := rs s a
      (t.toNat % 4 = 0 → (t ≠ 0#64 ∨ reconverged s = true) →
        Safety.goes (.jmpr d a) s t (Safety.written s.g.s d ((cur s).pc + 4#64))) ∧
      (t.toNat % 4 ≠ 0 →
        exec (.jmpr d a) s = .next (takeTrap s { cause := .align, slot := s.slot, addr := t.toNat })))

/-- 03, R68: `split` by cases: no lane of the mask goes, every lane goes, or the path divides, the other slot free or its path
pushed onto the spill stack. -/
def Obligations.SplitDividesThePath : Prop :=
  ∀ (s : State) (k : BitVec 3) (inv : BitVec 1) (o : BitVec 14),
    let c := cur s
    let w := pathOf s.g (!s.slot)
    let p := predMask s k inv
    let t := c.pc + 4#64 * o.signExtend 64
    c.cq = [] → pendingReg s (0x88 + k.toNat) = false →
    (c.depth = 255 → exec (.split k inv o) s = .next (takeTrap s { cause := .divStack, slot := s.slot })) ∧
    (c.depth ≠ 255 → (p = 0#32 ∨ t ≠ 0#64) →
      (p = 0#32 → exec (.split k inv o) s = .next (setCur s
        { c with depth := c.depth + 1, pc := c.pc + 4#64, wait := none, exempt := false })) ∧
      (p ≠ 0#32 → p = c.mask → exec (.split k inv o) s = .next (setCur s
        { c with depth := c.depth + 1, pc := t, wait := none, exempt := false })) ∧
      (p ≠ 0#32 → p ≠ c.mask →
        let divided : State → State → Prop := fun s0 u =>
          pathOf u.g s.slot = { c with depth := c.depth + 1, mask := c.mask &&& ~~~p, pc := c.pc + 4#64, wait := none, exempt := false } ∧
          pathOf u.g (!s.slot) = { c with occ := true, pc := t, mask := p, depth := c.depth + 1, waiting := false, rot := 0, scnt := 0
                                          cq := [], wait := none, exempt := false, tag := s.nextId } ∧
          u = { s0 with nextId := s.nextId + 1, g := { s0.g with p0 := u.g.p0, p1 := u.g.p1 } }
        (w.occ = false → ∃ u, exec (.split k inv o) s = .next u ∧ divided s u) ∧
        (w.occ = true → w.cq = [] → s.g.spillCnt < spillCap s.g → ∃ u, exec (.split k inv o) s = .next u ∧ divided (spillPush s w) u) ∧
        (w.occ = true → w.cq = [] → spillCap s.g ≤ s.g.spillCnt →
          exec (.split k inv o) s = .next (takeTrap s { cause := .divStack, slot := s.slot }))))

/-- 03, R70: `join` by cases: at depth 0; merging a path that waits in the other slot, or on the spill stack; waiting for a path at
least as deep; going on. -/
def Obligations.JoinMergesWaitsOrPasses : Prop :=
  ∀ s : State,
    let c := cur s
    let w := pathOf s.g (!s.slot)
    let at_ : W32 → Path := fun m =>
      { c with mask := m, depth := c.depth - 1, waiting := false, pc := c.pc + 4#64, wait := none, exempt := false }
    c.cq = [] →
    (c.depth = 0 → ∃ t, exec .join s = .next t ∧ Safety.passed s t) ∧
    (c.depth ≠ 0 →
      ((w.occ = true ∧ w.waiting = true ∧ w.pc = c.pc ∧ w.depth = c.depth) →
        ∃ t, exec .join s = .next t ∧ pathOf t.g s.slot = at_ (c.mask ||| w.mask) ∧ (pathOf t.g (!s.slot)).occ = false) ∧
      (∀ i, ¬(w.occ = true ∧ w.waiting = true ∧ w.pc = c.pc ∧ w.depth = c.depth) →
        indexWhere (meets c) (spillPaths s s.g) = some i →
        ∃ t, exec .join s = .next t ∧ pathOf t.g s.slot = at_ (c.mask ||| (spillPath s s.g i).mask) ∧
          t.g.spillCnt = s.g.spillCnt - 1) ∧
      (¬(w.occ = true ∧ w.waiting = true ∧ w.pc = c.pc ∧ w.depth = c.depth) →
        indexWhere (meets c) (spillPaths s s.g) = none →
        (otherDeep s c.depth = true →
          exec .join s = .next (setCur s { c with waiting := true, wait := some .join })) ∧
        (otherDeep s c.depth = false → exec .join s = .next (setCur s (at_ c.mask)))))

/-- 03, R73: a predicate reduced over the path's active mask. -/
def Obligations.PredicatesReduceOverTheMask : Prop :=
  (∀ (d : BitVec 6) (inv : BitVec 1) (k : BitVec 3),
    let w : BitVec 6 → BitVec 6 → BitVec 4 → W32 := fun a sub z => 0x1B#6 ++ d ++ a ++ sub ++ z ++ inv ++ k
    let word : BitVec 6 → Instr := fun sub => decodeScalar (w 0#6 sub 0#4)
    (¬(inv = 1#1 ∧ k = 0#3) → word 0#6 = .pany d inv k ∧ word 1#6 = .pall d inv k ∧ word 2#6 = .pcnt d inv k ∧
      word 3#6 = .pmask d inv k) ∧
    (∀ a sub z, (inv = 1#1 ∧ k = 0#3) ∨ a ≠ 0#6 ∨ 3#6 < sub ∨ z ≠ 0#4 →
      decodeScalar (w a sub z) = .illegalEncoding (w a sub z))) ∧
  (∀ (s : State) (d : BitVec 6) (inv : BitVec 1) (k : BitVec 3), Safety.settled s [d] →
    (cur s).cq ≠ [] ∨ pendingReg s (0x88 + k.toNat) = true →
    ∀ i ∈ [Instr.pany d inv k, .pall d inv k, .pcnt d inv k, .pmask d inv k], ∃ w, exec i s = waitFor s w) ∧
  ∀ (s : State) (d : BitVec 6) (inv : BitVec 1) (k : BitVec 3),
    Safety.settled s [d] → (cur s).cq = [] → pendingReg s (0x88 + k.toNat) = false →
    let r := s.g.k.getD k.toNat 0#32
    let p := (if inv = 1#1 then ~~~r else r) &&& (cur s).mask
    Safety.setsTo (.pany d inv k) s d (if p ≠ 0#32 then 1#64 else 0#64) ∧
    Safety.setsTo (.pall d inv k) s d (if p = (cur s).mask then 1#64 else 0#64) ∧
    Safety.setsTo (.pcnt d inv k) s d (BitVec.ofNat 64 ((List.range 32).countP (fun l => p.getLsbD l))) ∧
    Safety.setsTo (.pmask d inv k) s d (p.zeroExtend 64)

/-- 03, R74-R75: `cls` and `clsr` put a clause at the end of the path's queue, under the path's mask; a full queue stalls the
path. -/
def Obligations.ClausesAreEnqueued : Prop :=
  ∀ s : State,
    let queued : Instr → Nat → Prop := fun i n =>
      ((cur s).cq.length < 8 → exec i s = .next (setCur s { cur s with
          pc := (cur s).pc + 4#64, wait := none, exempt := false
          cq := (cur s).cq ++ [{ addr := s.g.d.lcode.toNat + 12 * n, mask := (cur s).mask }] })) ∧
      (8 ≤ (cur s).cq.length → exec i s = waitFor s .queueSlot)
    (∀ o : BitVec 26, queued (.cls o) o.toNat) ∧
    (∀ a : BitVec 6, Safety.settled s [a] → queued (.clsr a) ((rs s a).extractLsb' 0 26).toNat)

/-- 03, R77-R78: what `gets` reads of each special register, and what `sets` writes and refuses. That `%spill` of 2^20 traps with
STASH_RANGE where the spill area is empty is the model's choice (log 83). -/
def Obligations.SpecialRegistersReadAndWrite : Prop :=
  ∀ (s : State) (d : BitVec 6), Safety.settled s [d] →
    let reads : BitVec 6 → Nat → Prop := fun i v => Safety.setsTo (.gets d i) s d (BitVec.ofNat 64 v)
    reads 0#6 (s.g.d.gx % 2 ^ 32) ∧ reads 1#6 (s.g.d.gy % 2 ^ 32) ∧ reads 2#6 (s.g.d.gz % 2 ^ 32) ∧
    reads 3#6 (s.g.d.gx * s.g.d.gy * s.g.d.gz % 2 ^ 32) ∧ reads 4#6 (s.g.key.gid % 2 ^ 32) ∧ reads 5#6 s.g.width ∧
    reads 6#6 s.g.step ∧ reads 7#6 s.g.argp.toNat ∧ reads 8#6 s.g.stashbase.toNat ∧ reads 9#6 s.g.key.launch ∧
    reads 10#6 (sheetOf s.g.pid) ∧ reads 11#6 s.time ∧ reads 12#6 (16 * s.net.row + s.net.col) ∧ reads 13#6 s.g.core ∧
    reads 14#6 (cur s).mask.toNat ∧ reads 15#6 s.g.spill.toNat ∧ reads 16#6 (s.g.d.lcode.toNat % 2 ^ 56) ∧
    (let v := (rs s d).toNat
     let traps : BitVec 6 → Cause → Prop := fun i c => exec (.sets d i) s = .next (takeTrap s { cause := c, slot := s.slot })
     ((cur s).cq = [] → exec (.sets d 7#6) s = .next (advance { s with g := { s.g with argp := rs s d } })) ∧
     (v % 16 ≠ 0 → traps 8#6 .align) ∧ (v % 16 = 0 → 2 ^ 20 ≤ v → traps 8#6 .stashRange) ∧
     (v % 16 = 0 → v < 2 ^ 20 →
       exec (.sets d 8#6) s = .next (advance { s with g := { s.g with stashbase := BitVec.ofNat 20 v } })) ∧
     (v % 64 ≠ 0 → traps 15#6 .align) ∧ (v % 64 = 0 → (2 ^ 20 < v + s.g.d.spill ∨ 2 ^ 20 ≤ v) → traps 15#6 .stashRange) ∧
     (v % 64 = 0 → v + s.g.d.spill ≤ 2 ^ 20 → v < 2 ^ 20 → s.g.spillCnt ≠ 0 → traps 15#6 .divStack) ∧
     (v % 64 = 0 → v + s.g.d.spill ≤ 2 ^ 20 → v < 2 ^ 20 → s.g.spillCnt = 0 →
       exec (.sets d 15#6) s = .next (advance { s with g := { s.g with spill := BitVec.ofNat 20 v } })) ∧
     (∀ i : BitVec 6, i ≠ 7#6 → i ≠ 8#6 → i ≠ 15#6 → traps i .illEnc))

/-- 03, R79: the mode family; a rounding mode of 0 or 7 traps, and so does 6 where the sheet has not accepted stochastic rounding. -/
def Obligations.ModeRegistersReadAndWrite : Prop :=
  ∀ (s : State) (a : BitVec 6), Safety.settled s [a] → clausesDone s = true →
    let v := rs s a
    let rm := (v.extractLsb' 0 3).toNat
    ((rm = 0 ∨ rm = 7 ∨ (rm = 6 ∧ featOn s s.g.pid 3 = false)) →
      exec (.setmode a) s = .next (takeTrap s { cause := .illRnd, slot := s.slot })) ∧
    (rm ≠ 0 → rm ≠ 7 → (rm ≠ 6 ∨ featOn s s.g.pid 3 = true) →
      exec (.setmode a) s = .next (advance (setCur s { cur s with gmode := v.truncate 32 &&& 0x00001F1F#32 }))) ∧
    exec (.setfmt a) s = .next (advance (setCur s { cur s with gfmt := v &&& 0x00000003FFFFFFFF#64 })) ∧
    Safety.setsTo (.getmode a) s a ((cur s).gmode.zeroExtend 64) ∧
    Safety.setsTo (.getfmt a) s a (cur s).gfmt

/-- 05, R113-R115: the seven scalar loads. What they load is extended as R113 says; the access issues, and only the operations in
flight, the core's request number and the path's PC change: the register is written when the access returns. -/
def Obligations.ScalarLoadsIssueAndExtend : Prop :=
  (∀ v : Nat,
    extend64 1 true v = (BitVec.ofNat 8 v).signExtend 64 ∧ extend64 2 true v = (BitVec.ofNat 16 v).signExtend 64 ∧
    extend64 4 true v = (BitVec.ofNat 32 v).signExtend 64 ∧ extend64 8 false v = BitVec.ofNat 64 v ∧
    extend64 1 false v = (BitVec.ofNat 8 v).zeroExtend 64 ∧ extend64 2 false v = (BitVec.ofNat 16 v).zeroExtend 64 ∧
    extend64 4 false v = (BitVec.ofNat 32 v).zeroExtend 64) ∧
  ∀ (s : State) (d a : BitVec 6) (i : BitVec 14), Safety.settled s [d, a] →
    let ga := (rs s a + i.signExtend 64).toNat
    let loads : Instr → Nat → Bool → Prop := fun ins n sgn =>
      Safety.scalarAccess s ins .read ga n (fun kind fa =>
        let part : Part := { ga := ga, fa := fa, size := n, kind := kind }
        Safety.room s .load (pathOfKind kind) →
        (kind ≠ .stash → ∃ t, exec ins s = .next t ∧ Safety.issued s t (Safety.scalarOp s .load ins (.sreg d n sgn) none part [[(rs s a).toNat]])) ∧
        (kind = .stash → Safety.stashFull s fa n false →
          ∃ t, exec ins s = .next t ∧ Safety.issued s t (Safety.scalarOp s .load ins (.sreg d n sgn) none
            { part with st := .done, res := stashRead s s.g.core fa n } [[(rs s a).toNat]])))
    loads (.ldb d a i) 1 true ∧ loads (.ldh d a i) 2 true ∧ loads (.ldw d a i) 4 true ∧ loads (.ldd d a i) 8 false ∧
    loads (.ldbu d a i) 1 false ∧ loads (.ldhu d a i) 2 false ∧ loads (.ldwu d a i) 4 false

/-- 05, R113-R114: the four scalar stores. Sent to memory, the access issues and no byte changes yet. In the stash, the bytes at the
computed offset are the low bytes of the register and every other byte of every stash is as before. The stash is in its canonical form, which
every step keeps. -/
def Obligations.ScalarStoresIssueOrWriteTheStash : Prop :=
  ∀ (s : State) (d a : BitVec 6) (i : BitVec 14), Memory.wf s.stash = true → Safety.settled s [d, a] →
    let ga := (rs s a + i.signExtend 64).toNat
    let stores : Instr → Nat → Prop := fun ins n =>
      let v := (rs s d).toNat % 2 ^ (8 * n)
      Safety.scalarAccess s ins .write ga n (fun kind fa =>
        let part : Part := { ga := ga, fa := fa, size := n, kind := kind, wr := true, data := v }
        Safety.room s .store (pathOfKind kind) →
        (kind ≠ .stash → ∃ t, exec ins s = .next t ∧ Safety.issued s t (Safety.scalarOp s .store ins .none none part)) ∧
        (kind = .stash → Safety.stashFull s fa n true →
          ∃ t, exec ins s = .next t ∧
            Safety.issued (stashStore s s.g fa (leBytes n v)) t (Safety.scalarOp s .store ins .none none { part with st := .done }) ∧
            stashRead t s.g.core fa n = v ∧
            (∀ x, (x < stashKey s.g.core fa ∨ stashKey s.g.core fa + n ≤ x) → cellGet t.stash x = cellGet s.stash x) ∧
            t.mem = s.mem ∧ t.unpub = s.unpub ∧ t.narrow = s.narrow ∧ t.hostOut = s.hostOut ∧ t.hostHeld = s.hostHeld))
    stores (.stb d a i) 1 ∧ stores (.sth d a i) 2 ∧ stores (.stw d a i) 4 ∧ stores (.std d a i) 8

/-- 05, R124-R125: the ten scalar atomics: the new value of the word, the compare value that `cas` reads from sd, the old value that
the register gets. In the stash the word is read and written at once, and every other byte is as before. -/
def Obligations.ScalarAtomicsIssueOrChangeTheStash : Prop :=
  (∀ old v c : Nat, old < 2 ^ 64 → v < 2 ^ 64 →
    let x : W64 := BitVec.ofNat 64 old
    let y : W64 := BitVec.ofNat 64 v
    atomNew .add 64 old v c = (x + y).toNat ∧ atomNew .swap 64 old v c = v ∧
    atomNew .cas 64 old v c = (if old = c then v else old) ∧
    atomNew .min 64 old v c = (if x.toInt ≤ y.toInt then old else v) ∧
    atomNew .max 64 old v c = (if y.toInt ≤ x.toInt then old else v) ∧
    atomNew .minu 64 old v c = Nat.min old v ∧ atomNew .maxu 64 old v c = Nat.max old v ∧
    atomNew .and 64 old v c = (x &&& y).toNat ∧ atomNew .or 64 old v c = (x ||| y).toNat ∧
    atomNew .xor 64 old v c = (x ^^^ y).toNat) ∧
  ∀ (s : State) (d a b : BitVec 6), Memory.wf s.stash = true → Safety.settled s [d, a, b] →
    let ga := (rs s a).toNat
    let atoms : Instr → AtomOp → Prop := fun ins op =>
      let v := (rs s b).toNat
      let c := (rs s d).toNat
      Safety.scalarAccess s ins .atomic ga 8 (fun kind fa =>
        let part : Part := { ga := ga, fa := fa, size := 8, kind := kind, wr := true, data := v, cmp := c }
        let old := stashRead s s.g.core fa 8
        Safety.room s .atomic (pathOfKind kind) →
        (kind ≠ .stash →
          ∃ t, exec ins s = .next t ∧ Safety.issued s t (Safety.scalarOp s .atomic ins (.sreg d 8 false) (some op) part)) ∧
        (kind = .stash → Safety.stashFull s fa 8 false →
          ∃ t, exec ins s = .next t ∧
            Safety.issued (stashStore s s.g fa (leBytes 8 (atomNew op 64 old v c))) t
              (Safety.scalarOp s .atomic ins (.sreg d 8 false) (some op) { part with st := .done, res := old }) ∧
            stashRead t s.g.core fa 8 = atomNew op 64 old v c ∧
            (∀ x, (x < stashKey s.g.core fa ∨ stashKey s.g.core fa + 8 ≤ x) → cellGet t.stash x = cellGet s.stash x)))
    atoms (.satomAdd d a b) .add ∧ atoms (.satomSwap d a b) .swap ∧ atoms (.satomCas d a b) .cas ∧
    atoms (.satomMin d a b) .min ∧ atoms (.satomMax d a b) .max ∧ atoms (.satomMinu d a b) .minu ∧
    atoms (.satomMaxu d a b) .maxu ∧ atoms (.satomAnd d a b) .and ∧ atoms (.satomOr d a b) .or ∧ atoms (.satomXor d a b) .xor

/-- 05, R128, R133: the fields of a ticket stand at their places in its word; which ticket is foreign, stale, or good. -/
def Obligations.TicketWordsAndTheirChecks : Prop :=
  (∀ e : Ticket, e.slice < 256 → e.idx < 1024 → e.gen < 128 → e.pid < 1024 →
     let t := ticketOf e
     t.extractLsb' 24 8 = BitVec.ofNat 8 e.slice ∧ t.extractLsb' 14 10 = BitVec.ofNat 10 e.idx ∧
     t.extractLsb' 7 7 = BitVec.ofNat 7 e.gen ∧ t.extractLsb' 0 7 = BitVec.ofNat 7 (e.pid / 8) ∧
     tkSlice t = e.slice ∧ tkEntry t = e.idx ∧ tkGen t = e.gen ∧ tkSheet t = sheetOf e.pid) ∧
  (∀ (s : State) (t : W32),
     let e := entryOf s (tkSlice t) (tkEntry t)
     let mine := (t.extractLsb' 0 7).toNat = s.g.pid / 8 ∧ (e.st = .free ∨ e.pid = s.g.pid)
     let live := e.st ≠ .free ∧ e.st ≠ .draining ∧ e.gen = (t.extractLsb' 7 7).toNat
     (¬mine → checkTicket s t = .foreign) ∧ (mine → ¬live → checkTicket s t = .stale) ∧
     (mine → live → e.st = .fetching → checkTicket s t = .fetching) ∧ (mine → live → e.st = .filled → checkTicket s t = .ready) ∧
     (mine → live → e.st = .faulted → ∀ c a, e.fault = some (c, a) → checkTicket s t = .faulted c a))


/-- 05, R131-R137: `tkld` allocates the lowest free entry of the slice beside the core; `tkred` and `tkred.q` deliver a FILLED entry
and free it under the next generation, or answer a stale or foreign ticket with a trap, or with a status; `tkdrop` releases an entry;
an isolated slice holds all of them (22, R415; log 101). That a redeem of a FETCHING entry has issued with its operands is 19, R357,
and how the model keeps it log 71; on which paths it counts, log 62. -/
def Obligations.TicketsAreAllocatedRedeemedAndDropped : Prop :=
  (∀ (s : State) (d a l : BitVec 6) (c : BitVec 2), Safety.settled s [d, a] →
    let ga := (rs s a).toNat
    let n := 16 * l.toNat
    let sl := coreSlice s.g.core
    Safety.unwatched s [(0, .read, ga, n)] →
    (ga % 16 ≠ 0 → exec (.tkld d a l c) s = .next (takeTrap s { cause := .align, slot := s.slot, addr := ga })) ∧
    (ga % 16 = 0 → whereIs ga n ≠ .outside →
      exec (.tkld d a l c) s = .next (takeTrap s { cause := .stashRange, slot := s.slot, addr := ga })) ∧
    (ga % 16 = 0 → whereIs ga n = .outside → Safety.room s .tkld 8#4 → sliceIsolated s sl = true →
      exec (.tkld d a l c) s = waitFor s .slice) ∧
    (ga % 16 = 0 → whereIs ga n = .outside → Safety.room s .tkld 8#4 → sliceIsolated s sl = false →
      ticketRoom s s.g.pid sl c.toNat 1 = false → exec (.tkld d a l c) s = waitFor s (.ticket c.toNat 1)) ∧
    (ga % 16 = 0 → whereIs ga n = .outside → Safety.room s .tkld 8#4 → sliceIsolated s sl = false →
      ticketRoom s s.g.pid sl c.toNat 1 = true →
      Safety.completes (.tkld d a l c) s (fun t =>
        let e := entryOf t sl (freeIdx s sl)
        e.st = .fetching ∧ e.len = n ∧ e.cls = c.toNat ∧ e.pid = s.g.pid ∧ e.ga = ga ∧ e.deadline = none ∧ e.fault = none ∧
        e.gen = (entryOf s sl (freeIdx s sl)).gen ∧
        t.g = { setPath s.g s.slot { cur s with pc := (cur s).pc + 4#64, wait := none, exempt := false } with
                s := Safety.written s.g.s d ((ticketOf e).zeroExtend 64) } ∧
        t.mem = s.mem ∧ t.stash = s.stash))) ∧
  (∀ (s : State) (i : Instr) (a x : BitVec 6),
    (descOp s i = none → redeemArgs s i a x = ((rs s a).truncate 32, (rs s x).toNat)) ∧
    (∀ o t off, descOp s i = some o → o.vals = [[t], [off]] → redeemArgs s i a x = (BitVec.ofNat 32 t, off))) ∧
  (∀ (s : State) (d a x : BitVec 6), Safety.settled s [a, x, d] → ∀ i ∈ [Instr.tkred a x, .tkredQ d a x],
    let t := (redeemArgs s i a x).1
    let off := (redeemArgs s i a x).2
    let e := entryOf s (tkSlice t) (tkEntry t)
    let traps : Cause → Nat → Prop := fun c y => exec i s = .next (takeTrap s { cause := c, slot := s.slot, addr := y })
    let free := (descOp s i).isSome = true ∨ Safety.room s .tkred redeemPaths
    let status : State → Nat → State := fun u v => if i = .tkred a x then u else ws u d (BitVec.ofNat 64 v)
    let held := sliceIsolated s (tkSlice t) = true
    (off % 128 ≠ 0 → traps .align off) ∧
    (off % 128 = 0 → held → free → exec i s = waitFor (holdRedeem s i t off) .slice) ∧
    (off % 128 = 0 → ¬held → checkTicket s t = .foreign →
      (i = .tkred a x → traps .tkForeign 0) ∧
      (i = .tkredQ d a x → exec i s = .next (advance (ws (dropDesc s i) d 2#64)))) ∧
    (off % 128 = 0 → ¬held → checkTicket s t = .stale →
      (i = .tkred a x → traps .tkStale 0) ∧
      (i = .tkredQ d a x → exec i s = .next (advance (ws (dropDesc s i) d 1#64)))) ∧
    (off % 128 = 0 → ¬held → off + e.len ≤ 2 ^ 20 → inAllot s s.g off e.len = true → free →
      (checkTicket s t = .fetching → exec i s = waitFor (holdRedeem s i t off) (.fetching e.slice e.idx)) ∧
      (∀ c y, checkTicket s t = .faulted c y → e.fgroup ≠ some s.g.key →
        exec i s = .next (takeTrap (setEntry (holdRedeem s i t off) { e with fgroup := some s.g.key, deadline := none })
          { cause := c, tk := true, stg := e.stg, slot := s.slot, addr := y, info := t.toNat })) ∧
      (checkTicket s t = .ready → Safety.completes i s (fun u =>
        u = advance (status (deliverStash (dropDesc s i) i t off) 0) ∧
        entryOf u e.slice e.idx = { slice := e.slice, idx := e.idx, gen := (e.gen + 1) % 128 } ∧
        u.mem = s.mem ∧ u.stash = s.stash)))) ∧
  (∀ (s : State) (a : BitVec 6), Safety.settled s [a] →
    let t : W32 := (rs s a).truncate 32
    let e := entryOf s (tkSlice t) (tkEntry t)
    let traps : Cause → Prop := fun c => exec (.tkdrop a) s = .next (takeTrap s { cause := c, slot := s.slot })
    let held := sliceIsolated s (tkSlice t) = true
    (held → exec (.tkdrop a) s = waitFor s .slice) ∧
    (¬held → checkTicket s t = .foreign → traps .tkForeign) ∧ (¬held → checkTicket s t = .stale → traps .tkStale) ∧
    (¬held → checkTicket s t = .fetching →
      Safety.completes (.tkdrop a) s (fun u => u = advance (setEntry s { e with st := .draining }))) ∧
    (¬held → (checkTicket s t = .ready ∨ ∃ c y, checkTicket s t = .faulted c y) →
      Safety.completes (.tkdrop a) s (fun u =>
        u = advance (setEntry s { slice := e.slice, idx := e.idx, gen := (e.gen + 1) % 128 }))))

/-- 05, R152 and 22, R414: the three window instructions where the sheet has accepted their feature, and the trap where it has not. -/
def Obligations.SpeculativeWindowsOpenAndCommit : Prop :=
  ∀ (s : State) (a : BitVec 6) (w : BitVec 4),
    let h := s.g.key.launch
    (featOn s s.g.pid 2 = false → ∀ i ∈ [Instr.spopen a w, .spslot a w, .spcommit a w],
      exec i s = .next (takeTrap s { cause := .illEnc, slot := s.slot })) ∧
    (featOn s s.g.pid 2 = true → Safety.settled s [a] → ∀ l, launchOf s h = some l →
      (∃ t, exec (.spopen a w) s = .next t ∧ t.g.spw = some (w.toNat, (rs s a).toNat % 8) ∧ t.g.s = s.g.s ∧
        (launchOf t h).map (fun l => l.windows.getLsbD w.toNat) = some true ∧ t.mem = s.mem ∧ t.stash = s.stash ∧
        (l.windows.getLsbD w.toNat = true → t.spec = s.spec.filter (fun x => !(x.launch = h && x.win = w.toNat))) ∧
        (l.windows.getLsbD w.toNat = false → t.spec = s.spec)) ∧
      (∃ t, exec (.spslot a w) s = .next t ∧ t.g.spw = some (w.toNat, (rs s a).toNat % 8) ∧ t.g.s = s.g.s ∧
        (launchOf t h).map (fun l => l.windows.getLsbD w.toNat) = some true ∧ t.spec = s.spec ∧ t.mem = s.mem ∧ t.stash = s.stash) ∧
      (∃ t, exec (.spcommit a w) s = .next t ∧ t.g.s = s.g.s ∧ 
        (s.g.stop = .running → t.g.spw = (if s.g.spw.map Prod.fst = some w.toNat then none else s.g.spw)) ∧
        (launchOf t h).map (fun l => l.windows.getLsbD w.toNat) = some false ∧ t.mem = s.mem ∧ t.stash = s.stash ∧
        (∀ x ∈ t.spec, ¬(x.launch = h ∧ x.win = w.toNat)) ∧
        (∀ x ∈ s.spec, x.launch = h → x.win = w.toNat → x.slot < Nat.min (rs s a).toNat 8 →
          { x with win := 16 + s.nextId } ∈ t.spec)))

/-- 05, R110-R111, R121-R123: the waits and fences, with what each waits for; that a queued clause which will raise a flag holds
`waitf` too is the model's reading (log 31). How peers are told of a publication, and that it waits until they have heard, is the
model's (log 48). -/
def Obligations.WaitsAndFencesGoOnWhenDrained : Prop :=
  (∀ (s : State) (a p : BitVec 6), Safety.settled s [a] →
    (pathCount s s.g.key p.toNat ≤ (rs s a).toNat → ∃ t, exec (.waitp a p) s = .next t ∧ Safety.passed s t) ∧
    ((rs s a).toNat < pathCount s s.g.key p.toNat →
      exec (.waitp a p) s = waitFor s (.counter p.toNat (rs s a).toNat))) ∧
  (∀ (s : State) (m : BitVec 12),
    ((∀ i < 12, m.getLsbD i = true → s.g.flags.getD i 0 = 0) → (∀ e ∈ (cur s).cq, comingFlags s s.g e &&& m = 0#12) →
      ∃ t, exec (.waitf m) s = .next t ∧ Safety.passed s t) ∧
    ((∃ i < 12, m.getLsbD i = true ∧ s.g.flags.getD i 0 ≠ 0) → exec (.waitf m) s = waitFor s (.flags m)) ∧
    ((∃ e ∈ (cur s).cq, comingFlags s s.g e &&& m ≠ 0#12) → exec (.waitf m) s = waitFor s (.flags m))) ∧
  (∀ (s : State) (sc : BitVec 3),
    let paths := if sc.toNat ≤ 2 then [1] else if sc.toNat ≤ 4 then [0, 1, 3] else [0, 1, 2, 3]
    let drained := ∀ p ∈ paths, pathCount s s.g.key p = 0
    let begun := (cur s).wait = some .written ∨ (cur s).wait = some .told
    let loading : Op → Prop := fun o => o.g = s.g.key ∧ (o.cls = .load ∨ o.cls = .halo ∧ o.parts ≠ [])
    ((cur s).cq ≠ [] → exec (.fence sc) s = waitFor s .earlier ∧ (¬begun → exec (.pub sc) s = waitFor s .earlier)) ∧
    ((cur s).cq = [] → ¬drained →
      exec (.fence sc) s = waitFor s .fence ∧ (¬begun → exec (.pub sc) s = waitFor s .fence)) ∧
    ((cur s).cq = [] → drained → Safety.completes (.fence sc) s (Safety.passed s)) ∧
    (∀ u, (cur s).cq = [] → drained → ¬begun → writeBack s (.pub sc) = some u → exec (.pub sc) s = waitFor u .written) ∧
    ((cur s).wait = some .written → storesAccepted s s.g.key = false → exec (.pub sc) s = waitFor s .written) ∧
    (∀ u, (cur s).wait = some .written → storesAccepted s s.g.key = true → tellPeers s (.pub sc) sc.toNat = some u →
      exec (.pub sc) s = waitFor u .told) ∧
    (Safety.published s (.pub sc) sc.toNat paths →
      Safety.completes (.pub sc) s (fun t => t = advance (publicationPoint s s.g sc.toNat))) ∧
    ((∃ o ∈ s.ops, loading o ∧ o.returned = false) → exec (.acq sc) s = waitFor s .drain) ∧
    ((∀ o ∈ s.ops, loading o → o.returned = true) →
      Safety.completes (.acq sc) s (fun t => t = advance (snapshotPoint s s.g sc.toNat))))

/-- 07, R195, with 20, R381: `step` and `stepq` by cases. The close waits for the write-back of mapped words, for the stores and for
the telling of peers, as a publication does; a cut that is pending holds `stepq` as it holds `step`. That `step` traps with STEP_DIV in
supervisor state, in a continuation and in a handler is the model's reading (log 32), and how the peers are told its choice (log 48). -/
def Obligations.StepsCloseAndEnter : Prop :=
  (∀ s : State,
    let alone := (pathOf s.g (!s.slot)).occ = false ∧ s.g.spillCnt = 0
    let plain := s.g.handler = none ∧ s.g.park = none ∧ s.g.super = false ∧ alone
    (¬plain → exec .step s = .next (takeTrap s { cause := .stepDiv, slot := s.slot }) ∧
      ∀ d : BitVec 6, Safety.settled s [d] → exec (.stepq d) s = .next (takeTrap s { cause := .stepDiv, slot := s.slot })) ∧
    (plain → clausesDone s = false → exec .step s = waitFor s .earlier ∧
      ∀ d : BitVec 6, Safety.settled s [d] → exec (.stepq d) s = waitFor s .earlier) ∧
    (∀ i ∈ [Instr.step] ++ (List.range 64).map (fun d => Instr.stepq (BitVec.ofNat 6 d)),
      (∀ d, i = .stepq d → Safety.settled s [d]) → plain → clausesDone s = true → s.g.isOpen = true →
      (∀ u, (cur s).wait ≠ some (.stepClose false) → (cur s).wait ≠ some (.stepClose true) → writeBack s i = some u →
        exec i s = waitFor u (.stepClose false)) ∧
      (∀ told, (cur s).wait = some (.stepClose told) → storesAccepted s s.g.key = false →
        exec i s = waitFor s (.stepClose told)) ∧
      (∀ u, (cur s).wait = some (.stepClose false) → storesAccepted s s.g.key = true → tellPeers s i 5 = some u →
        exec i s = waitFor u (.stepClose true)))) ∧
  (∀ s u : State,
    let plain := s.g.handler = none ∧ s.g.park = none ∧ s.g.super = false ∧ (pathOf s.g (!s.slot)).occ = false ∧ s.g.spillCnt = 0
    let closes : Instr → Prop := fun i =>
      u = s ∧ s.g.isOpen = false ∨
      u = closeStep s ∧ s.g.isOpen = true ∧ storesAccepted s s.g.key = true ∧
        ((cur s).wait = some (.stepClose true) ∨
          tellPeers s i 5 = none ∧ ((cur s).wait = some (.stepClose false) ∨ writeBack s i = none))
    plain → clausesDone s = true →
    (closes .step →
      (mayEnter u u.g = true → Safety.completes .step s (fun t => t = advance (enterStep u))) ∧
      (mayEnter u u.g = false → exec .step s = waitFor u .stepEntry)) ∧
    (∀ d : BitVec 6, Safety.settled s [d] → closes (.stepq d) →
      (mayEnter u u.g = true → Safety.completes (.stepq d) s (fun t => t = advance (ws (enterStep u) d 1#64))) ∧
      (mayEnter u u.g = false → cutOf u u.g.key.launch = none →
        Safety.completes (.stepq d) s (fun t => t = advance (ws u d 0#64))) ∧
      (mayEnter u u.g = false → cutOf u u.g.key.launch ≠ none → exec (.stepq d) s = waitFor u .cutHold)))

/-- 05, R140-R142: the queue registers by number: which a push and a pop take, with their waits and their status forms. -/
def Obligations.QueueRegistersPushAndPop : Prop :=
  (∀ (s : State) (a : BitVec 6) (n : BitVec 3), Safety.settled s [a] →
    let ga := (rs s a).toNat
    (n.toNat < 4 → exec (.qbind a n) s = .next (takeTrap s { cause := .qregBad, slot := s.slot })) ∧
    (4 ≤ n.toNat → pushDrained s.g n.toNat = true → ga % 64 ≠ 0 →
      exec (.qbind a n) s = .next (takeTrap s { cause := .align, slot := s.slot, addr := ga })) ∧
    (4 ≤ n.toNat → bindOf s.g n.toNat = none → ga % 64 = 0 → ∀ sl desc, locate s s.g ga 64 .read = .ok (.dev sl, desc) →
      (∀ q, ctxOf s desc = some q →
        exec (.qbind a n) s = .next (advance { setCtx s { q with binds := q.binds ++ [(s.g.key, n.toNat)] } with
          g := setBind s.g n.toNat (some { desc := desc, esz := q.esz, ga := ga }) })) ∧
      (∀ q u, ctxOf s desc = none → (s.qctxs.filter (fun q => q.slice = sl)).length < 256 → descReady s s.g desc = .ok u →
        makeCtx u u.g n.toNat desc ga = .ok q →
        exec (.qbind a n) s = .next (advance { u with
          qctxs := u.qctxs ++ [q], g := setBind u.g n.toNat (some { desc := desc, esz := q.esz, ga := ga }) })))) ∧
  (∀ (s : State) (d a : BitVec 6) (n : BitVec 3), Safety.settled s [d, a] →
    let k := n.toNat
    let bad : Instr → Prop := fun i => exec i s = .next (takeTrap s { cause := .qregBad, slot := s.slot })
    -- registers that cannot be pushed, and those that are not bound
    ((1 ≤ k ∧ k < 4) ∨ (4 ≤ k ∧ bindOf s.g k = none) → bad (.qpush a n) ∧ bad (.qpushT d a n)) ∧
    (k = 0 ∨ (4 ≤ k ∧ bindOf s.g k = none) → bad (.qpop d n) ∧ bad (.qtry d a n) ∧ bad (.qlen d n)) ∧
    (k < 4 ∨ bindOf s.g k = none → bad (.qunbind d n)) ∧
    (∀ b, 4 ≤ k → bindOf s.g k = some b → b.pushb = [] →
      (∀ u, unbind s k = .ok u → exec (.qunbind d n) s = .next (advance (ws u d (BitVec.ofNat 64 b.popb.length)))) ∧
      (∀ u, unbind s k = .error (.held u) → exec (.qunbind d n) s = waitFor u .slice) ∧
      (unbind s k = .error .prot → exec (.qunbind d n) s = .next (takeTrap s { cause := .prot, slot := s.slot }))) ∧
    -- a bound register: its slice
    (∀ b q, 4 ≤ k → bindOf s.g k = some b → ctxOf s b.desc = some q →
      let v := (rs s a).toNat % 2 ^ (8 * elemSize q.esz)
      (∀ u, slicePush s q s.g s.slot v = .ok u →
        exec (.qpush a n) s = .next (advance u) ∧ exec (.qpushT d a n) s = .next (advance (ws u d 1#64))) ∧
      (q.cap ≤ ctxCount q →
        exec (.qpush a n) s = waitFor (joinWaiters s q s.g.key s.slot 1) (.queueFull k) ∧
        exec (.qpushT d a n) s = .next (advance (ws s d 0#64))) ∧
      (∀ v r, b.popb = v :: r →
        let u : State := { s with g := setBind s.g k (some { b with popb := r }) }
        exec (.qpop d n) s = .next (advance (ws u d (BitVec.ofNat 64 v))) ∧
        exec (.qtry d a n) s = .next (advance (ws (ws u d (BitVec.ofNat 64 v)) a 1#64))) ∧
      (∀ u x, b.popb = [] → slicePop s q s.g s.slot noLane = .ok (u, x) →
        exec (.qpop d n) s = .next (advance (ws u d (BitVec.ofNat 64 x))) ∧
        exec (.qtry d a n) s = .next (advance (ws (ws u d (BitVec.ofNat 64 x)) a 1#64))) ∧
      (b.popb = [] → ctxCount q = 0 →
        exec (.qpop d n) s = waitFor (joinWaiters s q s.g.key s.slot 0) (.queueEmpty k) ∧
        exec (.qtry d a n) s = .next (advance (ws s a 0#64))) ∧
      Safety.setsTo (.qlen d n) s d (BitVec.ofNat 64 (b.popb.length + ctxCount q))) ∧
    -- the streamer's command words and its status register
    (k = 0 →
      (∀ u, pushQ0 s s.g (rs s a) = some (.ok u) →
        exec (.qpush a n) s = .next (advance u) ∧ exec (.qpushT d a n) s = .next (advance (ws u d 1#64))) ∧
      (pushQ0 s s.g (rs s a) = none →
        exec (.qpush a n) s = waitFor s (.queueFull 0) ∧ exec (.qpushT d a n) s = .next (advance (ws s d 0#64)))) ∧
    (∀ p, k = 1 → parcelOf s (parcelKey s.g) = some p → s.g.key.gid = p.prodGid → s.g.handler = none →
      (∀ v r, p.q1 = v :: r → exec (.qpop d n) s = .next (advance (ws (setParcel s { p with q1 := r }) d v)) ∧
        exec (.qtry d a n) s = .next (advance (ws (ws (setParcel s { p with q1 := r }) d v) a 1#64))) ∧
      (p.q1 = [] → exec (.qpop d n) s = waitFor s (.queueEmpty 1) ∧ exec (.qtry d a n) s = .next (advance (ws s a 0#64))) ∧
      Safety.setsTo (.qlen d n) s d (BitVec.ofNat 64 p.q1.length)) ∧
    -- the group's own registers q2 and q3
    (∀ v r, (k = 2 ∧ s.g.q2 = v :: r) ∨ (k = 3 ∧ s.g.q3 = v :: r) →
      let u : State := if k = 2 then { s with g := { s.g with q2 := r } } else { s with g := { s.g with q3 := r } }
      exec (.qpop d n) s = .next (advance (ws u d v)) ∧ exec (.qtry d a n) s = .next (advance (ws (ws u d v) a 1#64)) ∧
      Safety.setsTo (.qlen d n) s d (BitVec.ofNat 64 (r.length + 1))) ∧
    ((k = 2 ∧ s.g.q2 = []) ∨ (k = 3 ∧ s.g.q3 = []) →
      exec (.qpop d n) s = waitFor s (.queueEmpty k) ∧ exec (.qtry d a n) s = .next (advance (ws s a 0#64)) ∧
      Safety.setsTo (.qlen d n) s d 0#64))

/-- 05, R139, R142-R143: an element pushed at a slice with room is the one a later pop of an empty queue brings back; HEAD and TAIL
move by one, modulo 2^32. The trace rings are off and no replaying log names another element (21, R396, R405). -/
def Obligations.QueuePushThenPopGivesTheElement : Prop :=
  ∀ (s u : State) (q : QCtx) (h : Group) (slot : Bool) (v : Nat), trcOn (prtOf s h.pid) = false → Memory.wf s.mem = true → ctxOf s q.desc = some q → q.head < 2 ^ 32 →
    q.tail = q.head → 1 ≤ q.cap → q.waiters = [] → v < 2 ^ (8 * elemSize q.esz) → slicePush s q h slot v = .ok u →
    let q1 := { q with tail := (q.tail + 1) % 2 ^ 32 }
    ctxOf u q.desc = some q1 ∧ ctxCount q1 = 1 ∧
    ∀ (g : Group) (lane a : Nat) (u1 : State), trcOn (prtOf u1 g.pid) = false → recordedPop u q1 g = none →
      replayHolds u g.d.job 1 (fabricAddr u q.desc) g.key.launch g.key.gid lane = false →
      sliceTodo u g.key g.core q.slice = false → elemAt s q q.tail .write = .ok a → elemAt u q1 q.head .read = .ok a →
      atSlice u g.key g.core q.pid a (elemSize q.esz) false = .ok u1 → u1.mem = u.mem → u1.unpub = u.unpub →
      poisoned u1 a (elemSize q.esz) = none →
      ∃ w, slicePop u q1 g slot lane = .ok (w, v) ∧ (ctxOf w q.desc).map QCtx.head = some ((q.head + 1) % 2 ^ 32)

/-! ## Messages, launches, the sys family, barriers, the fabric (05, 06, 14, 17, 19) -/

/-- 05, R145-R150: a message leaves with its words read; a full queue of the target stalls its sender; a handler's reply goes into q3 of
the sender as far as there is room. -/
def Obligations.ActiveMessagesLeaveAndReply : Prop :=
  (∀ (s : State) (d a h l : BitVec 6) (p : Parcel), Safety.settled s [d, a] →
    let off := (rs s a).toNat
    let n := 8 * l.toNat
    let k : PKey := ⟨s.g.key.launch, (rs s d).toNat⟩
    let named := h.toNat < s.g.d.hcnt ∧ s.g.d.hq ≠ 0 ∧ l.toNat ≤ 32
    (parcelOf s k = none → exec (.amsg d a h l) s = .next (takeTrap s { cause := .qBaddesc, slot := s.slot })) ∧
    (parcelOf s k = some p → ¬named → exec (.amsg d a h l) s = .next (takeTrap s { cause := .qBaddesc, slot := s.slot })) ∧
    (parcelOf s k = some p → named → off % 8 = 0 → inAllot s s.g off n = true →
      (32 ≤ (queuedFor s p.core).length → exec (.amsg d a h l) s = waitFor s .message) ∧
      ((queuedFor s p.core).length < 32 → Safety.stashFull s off n false → Safety.room s .amsg 2#4 →
        ∃ t, exec (.amsg d a h l) s = .next t ∧
          t.msgs = s.msgs ++ [⟨k, h.toNat, s.g.key.gid, s.g.parcel, stashBytes s s.g.core off n, false, none⟩] ∧
          t.g = setPath s.g s.slot { cur s with pc := (cur s).pc + 4#64, wait := none, exempt := false } ∧
          t.mem = s.mem ∧ t.stash = s.stash ∧ t.others = s.others))) ∧
  (∀ (s : State) (a l : BitVec 6), Safety.settled s [a] →
    let off := (rs s a).toNat
    let n := 8 * l.toNat
    (s.g.reply = none → exec (.amsgReply a l) s = .next (takeTrap s { cause := .qregBad, slot := s.slot })) ∧
    (∀ k g, s.g.reply = some k → s.msgs.find? (fun m => m.reply = some (k, s.g.key, s.slot)) = none →
      getG s k = some g → l.toNat ≤ 8 → off % 8 = 0 → inAllot s s.g off n = true → Safety.stashFull s off n false →
      Safety.room s .amsg 2#4 → g.q3.length + l.toNat ≤ 16 →
      let ws_ := (List.range l.toNat).map (fun i => BitVec.ofNat 64 (stashRead s s.g.core (off + 8 * i) 8))
      ∃ t, exec (.amsgReply a l) s = .next t ∧ (getG t k).map Group.q3 = some (g.q3 ++ ws_) ∧ t.mem = s.mem ∧ t.stash = s.stash))

/-- 17, R325-R326, R334-R337: a work record's counter word by its fields; `launch`, `waitw`, `wcount` and `cancel`. -/
def Obligations.WorkRecordsCountLaunches : Prop :=
  (∀ r : CRec, (counterWord r).getLsbD 63 = r.can ∧ (counterWord r).extractLsb' 32 24 = BitVec.ofNat 24 r.out ∧
    (counterWord r).extractLsb' 0 32 = BitVec.ofNat 32 r.done ∧ (counterWord r).extractLsb' 56 7 = 0#7) ∧
  (∀ (s : State) (d a : BitVec 6) (v : BitVec 2), Safety.settled s [d, a] →
    let r := recOf s (sheetOf s.g.pid) v.toNat ((rs s a).toNat % 2 ^ 32)
    Safety.setsTo (.wcount d a v) s d (counterWord r) ∧
    (r.out ≠ 0 → exec (.waitw d a v) s = waitFor s (.record v.toNat r.h)) ∧
    (r.out = 0 → (∀ o ∈ s.ops, o.g = s.g.key → o.cls = .load ∨ (o.cls = .halo ∧ o.parts ≠ []) → o.returned = true) →
      exec (.waitw d a v) s = .next (advance (ws (snapshotPoint s s.g 5) d (counterWord r)))) ∧
    exec (.cancel a v) s = .next (cancelRec (advance s) (sheetOf s.g.pid) v.toNat ((rs s a).toNat % 2 ^ 32))) ∧
  (∀ (s : State) (d a : BitVec 6), Safety.settled s [d, a] →
    let ga := (rs s a).toNat
    let s1 := publicationPoint s s.g 5
    (ga % 64 ≠ 0 → exec (.launch d a) s = .next (takeTrap s { cause := .align, slot := s.slot, addr := ga })) ∧
    (ga % 64 = 0 → descOp s (.launch d a) = none → 1024 ≤ liveLaunches s (sheetOf s.g.pid) →
      exec (.launch d a) s = waitFor s .launchSlot) ∧
    (∀ o, ga % 64 = 0 → descOp s (.launch d a) = some o → (∀ q ∈ o.parts, q.st = .done ∧ q.err = none) →
      1024 ≤ liveLaunches s (sheetOf s.g.pid) → exec (.launch d a) s = waitFor s .launchSlot) ∧
    (∀ ps, ga % 64 = 0 → descOp s (.launch d a) = none → liveLaunches s (sheetOf s.g.pid) < 1024 →
      Safety.published s (.launch d a) 5 [0, 1, 2, 3] → descOp s1 (.launch d a) = none →
      loadParts s1 s1.g ((pieces ga 256).map (fun p => (ga + p.1, p.2))) = .ok ps → inStashWindow ga = false →
      Safety.room s1 .halo (pathsOf ps) →
      ∃ o, exec (.launch d a) s = waitFor (issue s1 o) .drain ∧ o.parts = ps ∧ o.cls = .halo ∧ o.instr = .launch d a) ∧
    (∀ b t, ga % 64 = 0 → liveLaunches s (sheetOf s.g.pid) < 1024 → Safety.loaded s (.launch d a) b t →
      (∀ c, checkDesc t t.g.pid t.g.core b = .error c →
        Safety.completes (.launch d a) s (fun u => u = advance (ws t d (BitVec.ofNat 64 (2 ^ 63 + causeCode c))))) ∧
      (∀ e, checkDesc t t.g.pid t.g.core b = .ok e →
        let sheet := sheetOf t.g.pid
        let h := nextSeq t sheet * 128 + sheet
        let r := accept t t.g.pid t.g.core e
        Safety.completes (.launch d a) s (fun u => u = advance (ws r.1 d (BitVec.ofNat 64 h))) ∧
        r.1.launches = t.launches ++ [{ handle := h, pid := t.g.pid, d := e, st := .accepted, order := t.orders, can := false
                                        pinned := hasCycle e, windows := 0#16, wgens := [], marks := [] }] ∧
        (recOf r.1 sheet 0 h).out = (recOf t sheet 0 h).out + 1)))

/-- 19, R365-R370: the sys family. A user trap and a breakpoint are taken after the instruction; `contret` and `rett` go on only in
their states, and reload the image where it stands. Where R370 leaves the layout of a section open it is the model's (log 14), and that
`rett` reloads the image with which supervisor state was entered is its reading (log 16). -/
def Obligations.SysFamilyStopsAndGoesOn : Prop :=
  ∀ s : State,
    let traps : Instr → Cause → Prop := fun i c => exec i s = .next (takeTrap s { cause := c, slot := s.slot })
    (∃ t, exec .nop s = .next t ∧ Safety.passed s t) ∧
    (∀ n : BitVec 6, exec (.trap n) s = .next (takeTrap (advance s) { cause := .user n, slot := s.slot, info := n.toNat }) ∧
      causeCode (.user n) = 0x380 + n.toNat) ∧
    (∀ k : BitVec 8, exec (.brkpt k) s = .next (takeTrap (advance s) { cause := .brkpt, slot := s.slot, info := k.toNat })) ∧
    (exec .yield s = .next { s with g := setPath s.g s.slot { cur s with
      pc := (cur s).pc + 4#64, wait := some .yield, exempt := false } }) ∧
    (∀ a : BitVec 6, Safety.settled s [a] →
      (s.g.park ≠ none → traps (.contset a) .stepDiv) ∧ (s.g.park = none → (rs s a).toNat % 4 ≠ 0 → traps (.contset a) .align) ∧
      (s.g.park = none → (rs s a).toNat % 4 = 0 →
        exec (.contset a) s = .next (advance { s with g := { s.g with cont := rs s a } }))) ∧
    (s.g.park = none → traps .contret .priv) ∧
    (∀ p, s.g.park = some p →
      let alone := (pathOf s.g (!s.slot)).occ = false ∧ s.g.spillCnt = 0
      let q := (imageBytes s s.g).elim p (fun img => loadPark s.g img (offPark s.g) p)
      let back : State := { s with
        slot := q.frame.slot
        g := { s.g with p0 := { q.p0 with wait := none, exempt := !q.frame.slot }, p1 := { q.p1 with wait := none, exempt := q.frame.slot }
                        s := q.s, replay := q.replay, park := none, contDone := none, image := none } }
      (¬alone → traps .contret .stepDiv) ∧ (alone → s.g.contDone = none → exec .contret s = waitFor s .cont) ∧
      (alone → s.g.contDone = some false → exec .contret s = .next (goOn back q.frame.dfr q.frame)) ∧
      (alone → s.g.contDone = some true →
        exec .contret s = .next (tryLand { back with g := { back.g with stop := .stopping q.frame, why := .failed } }))) ∧
    (s.g.super = false → traps .rett .priv) ∧
    (∀ k, s.g.super = true → s.g.stop = .running → s.g.sup = some k → s.g.supImage = none → k.frame.dfr = none → k.replay = [] →
      k.p0.pc.toNat % 4 = 0 → k.p1.pc.toNat % 4 = 0 → k.p0.pc ≠ 0#64 → k.p1.pc ≠ 0#64 →
      ∃ t, exec .rett s = .next t ∧ t.g.super = false ∧ t.g.sup = none ∧ t.g.stop = .running ∧ t.g.s = k.s ∧
        t.g.p0 = { k.p0 with wait := none, exempt := !k.frame.slot } ∧ t.g.p1 = { k.p1 with wait := none, exempt := k.frame.slot }) ∧
    (∀ k img, s.g.super = true → s.g.stop = .running → s.g.sup = some k → s.g.park = none →
      imageBytes s (leaveSuper s.g) = some img →
      let pc : Nat → W64 := fun i => BitVec.ofNat 64 (imgRead img (offPaths + 128 * i) 8)
      let occ : Nat → Bool := fun i => imgRead img (offPaths + 128 * i + 25) 1 % 2 = 1
      (∀ c, deferredOf img = some c → causeKind c = .trap →
        ∃ t, exec .rett s = .next (takeTrap t { cause := c, slot := k.frame.slot, addr := k.frame.addr }) ∧
          t.g.super = false ∧ t.g.replay.length = k.replay.length) ∧
      (deferredOf img = none → k.replay = [] → (pc 0).toNat % 4 = 0 → (pc 1).toNat % 4 = 0 → pc 0 ≠ 0#64 → pc 1 ≠ 0#64 →
        ∃ t, exec .rett s = .next t ∧ t.g.super = false ∧ t.g.sup = none ∧ t.g.stop = .running ∧ t.g.image = none ∧
          t.g.p0.pc = pc 0 ∧ t.g.p1.pc = pc 1 ∧ t.g.p0.occ = occ 0 ∧ t.g.p1.occ = occ 1 ∧
          (∀ r, 0 < r → r < 64 → t.g.s.getD r 0#64 = BitVec.ofNat 64 (imgRead img (offScalar + 8 * r) 8)) ∧
          (∀ r, 0 < r → r < 8 → t.g.k.getD r 0#32 = BitVec.ofNat 32 (imgRead img (offPred + 4 * r) 4)) ∧
          (∀ j, j < s.g.d.regs * s.g.width → t.g.v.getD j 0#32 = BitVec.ofNat 32 (imgRead img (offLane + 4 * j) 4))))

/-- 19, R356, R360-R364: taking a trap in user state where nothing has to be waited for. Under VECTOR the group is in supervisor state
at the vector, one path of every lane, s1 to s3 written and every other register kept; under HOST it stays stopped and an event
record waits. The saved state is the one before the trap. -/
def Obligations.TakingATrapEntersTheHandler : Prop :=
  ∀ (s : State) (f : Frame), s.g.live = true → s.g.stop = .running → s.g.super = false → canLand s = true →
    causeKind f.cause = .trap →
    let t := takeTrap s f
    let f' := { f with time := s.time }
    (causeWord f) % 1024 = causeCode f.cause ∧
    (vectorMode (prtOf s s.g.pid) = true →
      let c := cur t
      t.g.super = true ∧ t.g.stop = .running ∧ t.slot = false ∧
      c.pc = (prtOf s s.g.pid).trapcfg &&& 0x00FFFFFFFFFFFFFC#64 ∧ c.occ = true ∧ c.depth = 0 ∧ c.cq = [] ∧ c.waiting = false ∧
      c.mask = BitVec.ofNat 32 (2 ^ s.g.lanes - 1) ∧ t.g.p1.occ = false ∧
      t.g.s = ((s.g.s.set 1 (imageAddr { t.g with image := t.g.supImage })).set 2 (BitVec.ofNat 64 (causeWord f'))).set 3 (BitVec.ofNat 64 f.addr) ∧
      (∃ k, t.g.sup = some k ∧ k.frame = f' ∧ k.s = s.g.s ∧ k.p0.pc = s.g.p0.pc ∧ k.p1.pc = s.g.p1.pc ∧
        k.p0.mask = s.g.p0.mask ∧ k.p1.mask = s.g.p1.mask) ∧
      t.g.v = s.g.v ∧ t.g.k = s.g.k ∧ t.g.tile = s.g.tile ∧ t.g.acc = s.g.acc ∧ t.g.tc = s.g.tc ∧ t.g.step = s.g.step ∧
      (∀ o ∈ t.ops, o.g = s.g.key → o.cls = .fetch ∨ o.cls = .engine)) ∧
    (vectorMode (prtOf s s.g.pid) = false →
      t.g.stop = .hostWait f' ∧ t.g.super = false ∧ t.g.s = s.g.s ∧ (cur t).pc = (cur s).pc ∧
      ∃ r, (prtOf t s.g.pid).recs = (prtOf s s.g.pid).recs ++ [r] ∧ r.kind = 2 ∧ r.frame = f')

/-- 19, R362, R366: a page fault with a continuation set enters the continuation; without one the group waits for its page. -/
def Obligations.APageFaultEntersTheContinuationOrWaits : Prop :=
  ∀ (s : State) (f : Frame), s.g.live = true → s.g.stop = .running → s.g.super = false → canLand s = true →
    causeKind f.cause = .serviceable →
    let t := takeTrap s f
    let f' := { f with time := s.time }
    (s.g.cont ≠ 0#64 → s.g.park = none →
      (cur t).pc = s.g.cont ∧ (cur t).mask = BitVec.ofNat 32 (2 ^ s.g.lanes - 1) ∧ (cur t).depth = 0 ∧ t.g.p1.occ = false ∧
      t.g.s = (s.g.s.set 1 (BitVec.ofNat 64 (causeWord f'))).set 2 (BitVec.ofNat 64 f.addr) ∧ t.g.stop = .running ∧
      (t.g.park.map (fun k => (k.frame, k.s, k.p0.pc, k.p1.pc)) = some (f', s.g.s, s.g.p0.pc, s.g.p1.pc))) ∧
    (s.g.cont = 0#64 ∨ s.g.park ≠ none → t.g.stop = .pageWait f' ∧ (cur t).pc = (cur s).pc ∧ t.g.s = s.g.s)

/-- 06, R173: an update of a barrier: underflow records BAR_OVF, a pending count of 0 flips the phase and reloads the count. -/
def Obligations.BarriersCountAndFlip : Prop :=
  ∀ (b : Bar) (d : Nat),
    barDecr b 0 = b ∧
    (d ≠ 0 → d < b.pend → barDecr b d = { b with pend := b.pend - d }) ∧
    (d ≠ 0 → d = b.pend → barDecr b d = { b with
      phase := !b.phase, err := b.perr, perr := false, pend := b.arr, cause := if b.perr then b.cause else 0 }) ∧
    (b.pend < d → barDecr b d = { b with
      phase := !b.phase, err := true, perr := false, pend := b.arr, cause := if b.perr then b.cause else causeCode .barOvf })

/-- 06, R172-R175, R177: the bar family. Its offset is checked; the barrier's sixteen bytes hold what was written; nothing else of the
stash changes. -/
def Obligations.BarFamilyActsOnTheBarrier : Prop :=
  (∀ (s : State) (core off : Nat) (b : Bar), Memory.wf s.stash = true → b.pend < 2 ^ 32 → b.arr < 2 ^ 32 → b.cause < 1024 →
    barRead (barWrite s core off b) core off = b ∧
    ∀ x, (x < stashKey core off ∨ stashKey core off + 16 ≤ x) → cellGet (barWrite s core off b).stash x = cellGet s.stash x) ∧
  (∀ (s : State) (d a : BitVec 6), Safety.settled s [d, a] →
    let off := (rs s a).toNat
    let n := (rs s d).toNat
    let b := barRead s s.g.core off
    let traps : Instr → Cause → Nat → Prop := fun i c x => exec i s = .next (takeTrap s { cause := c, slot := s.slot, addr := x })
    let writes : Instr → Bar → Prop := fun i v => exec i s = .next (advance (barWrite s s.g.core off v))
    (∀ i ∈ [Instr.binit d a, .bexpect d a, .barrive a, .bwait d a, .btest d a],
      (off % 16 ≠ 0 → traps i .align off) ∧
      (off % 16 = 0 → inAllot s s.g off 16 = false → traps i .stashRange (stashWindow + off % 2 ^ 20))) ∧
    (off % 16 = 0 → inAllot s s.g off 16 = true →
      (n = 0 ∨ 2 ^ 32 ≤ n → traps (.binit d a) .barOvf 0) ∧
      (0 < n → n < 2 ^ 32 → writes (.binit d a) { pend := n, arr := n, phase := false, err := false, perr := false, cause := 0 }) ∧
      (2 ^ 32 ≤ b.pend + n → traps (.bexpect d a) .barOvf 0) ∧
      (b.pend + n < 2 ^ 32 → writes (.bexpect d a) { b with pend := b.pend + n }) ∧
      ((cur s).cq = [] → pathCount s s.g.key 1 = 0 →
        (b.pend = 0 → traps (.barrive a) .barOvf 0) ∧ (b.pend ≠ 0 → writes (.barrive a) (barDecr b 1))) ∧
      (b.phase = (rs s d).getLsbD 0 → exec (.bwait d a) s = waitFor s (.barrier off b.phase)) ∧
      (b.phase ≠ (rs s d).getLsbD 0 → b.err = false → ∃ t, exec (.bwait d a) s = .next t ∧ Safety.passed s t) ∧
      (b.phase ≠ (rs s d).getLsbD 0 → b.err = true → exec (.bwait d a) s = .next (takeTrap (advance s)
        { cause := causeOfCode b.cause, slot := s.slot, addr := stashWindow + off })) ∧
      Safety.setsTo (.btest d a) s d (BitVec.ofNat 64 (b2n b.phase + 2 * b2n b.err)))) ∧
  (∀ (s : State) (i : BitVec 4) (p : Parcel), parcelOf s (parcelKey s.g) = some p →
    ∃ t, exec (.mfree i) s = .next t ∧
      (parcelOf t (parcelKey s.g)).map Parcel.bfree = some (p.bfree ||| (1#16 <<< i.toNat)) ∧ t.g.s = s.g.s ∧ t.stash = s.stash)

/-- 14, R307-R308, R315-R316 and 22, R414: `rsta` and the reductions where the sheet has accepted the fabric: the segments that leave,
the descriptor that is read as loads, the request that goes to a root on this package or to another, which refuses it where no slot is
left, and what each answer leaves in the registers and, stored as an ordinary store, in the descriptor. -/
def Obligations.FabricFamilySendsAndWaits : Prop :=
  (∀ (s : State) (d a : BitVec 6) (l : BitVec 8) (t : BitVec 6), featOn s s.g.pid 1 = false →
    ∀ i ∈ [Instr.rsta d a l, .fralloc d a, .frcontrib d a, .frcontribQ d a t, .frwait d a t],
      exec i s = .next (takeTrap s { cause := .illEnc, slot := s.slot })) ∧
  (∀ (s : State) (d a : BitVec 6) (l : BitVec 8), featOn s s.g.pid 1 = true → Safety.settled s [d, a] →
    let c := rs s a
    let ga := (rs s d).toNat
    let n := 16 * (l.toNat + 1)
    let soff := c.toNat % 2 ^ 20
    let bar := 16 * (c.toNat / 2 ^ 20 % 2 ^ 16)
    let traps : Cause → Nat → Prop := fun e x => exec (.rsta d a l) s = .next (takeTrap s { cause := e, slot := s.slot, addr := x })
    let aligned := soff % 16 = 0 ∧ ga % 16 = 0
    let mine := inAllot s s.g soff n = true ∧ inAllot s s.g bar 16 = true
    let outside := ga + n ≤ stashWindow ∨ stashWindow + 2 ^ 20 ≤ ga
    Safety.unwatched s [(0, .read, stashWindow + soff, n), (0, .write, ga, n)] →
    (c.toNat / 2 ^ 37 ≠ 0 → traps .qBaddesc 0) ∧
    (c.toNat / 2 ^ 37 = 0 → ¬aligned → traps .align ga) ∧
    (c.toNat / 2 ^ 37 = 0 → aligned → ¬mine → traps .stashRange (stashWindow + soff)) ∧
    (c.toNat / 2 ^ 37 = 0 → aligned → mine → ¬outside → traps .prot ga) ∧
    (∀ ps, c.toNat / 2 ^ 37 = 0 → aligned → mine → outside → segParts s s.g soff ga (segs ga n) = .ok ps →
      Safety.room s .rsta 4#4 → Safety.stashFull s soff n false →
      Safety.completes (.rsta d a l) s (fun t => ∃ o : Op,
        t.ops.map (fun q => { q with paths := 0#4 }) = (s.ops ++ [o]).map (fun q => { q with paths := 0#4 }) ∧
        o.cls = .rsta ∧ o.g = s.g.key ∧ o.vals = [[bar, b2n (c.getLsbD 36), s.time]] ∧
        o.parts.map (fun p => { p with sampled := false, walked := false }) = ps.map (fun p => { p with sampled := false, walked := false }) ∧
        t.g = setPath s.g s.slot { cur s with pc := (cur s).pc + 4#64, wait := none, exempt := false } ∧
        t.stash = s.stash ∧ t.mem = s.mem))) ∧
  -- a store into the descriptor outside the stash
  (∀ (s s' : State) (i : Instr) (ga : Nat) (bs : List Byte) (kind : PKind) (fa : Nat),
    locate s s.g ga bs.length .write = .ok (kind, fa) → kind ≠ .stash → Safety.room s .store (pathOfKind kind) →
    Safety.stores s s' i ga bs (issue s' { id := 0, g := s.g.key, slot := s.slot, tag := 0, cls := .store, instr := i
                                           parts := [{ ga := ga, fa := fa, size := bs.length, kind := kind, wr := true, data := leNat bs }] })) ∧
  -- a request to a root on another package: a tag, for which it stalls, and a packet of KIND 10; a root that is not UP
  (∀ (s t : State) (r : RReq), r.root ≠ pkgNo s → let die := dieOfCore s.g.core
    (freeTag t die = none → request s t r = waitFor s .room) ∧
    (∀ n, freeTag t die = some n → let tg := tagOfDie t die n
      (peerUp t r.root = false → request s t r =
        .next (takeTrap (endTag t tg false) { cause := .fabUnreach, slot := t.slot })) ∧
      (peerUp t r.root = true →
        let t1 := setTag t { tg with st := 1, op := 0, part := 0, peer := r.root, since := s.time }
        let t2 := enterRouter t1 { mkPacket t 10 r.root 0 0 0 (reqBytes r) with tag := n, gen := tg.gen, die := die }
        request s t r = waitFor { t2 with net := { t2.net with
          rreqs := t2.net.rreqs ++ [{ r with tag := n + 4096 * die, tgen := tg.gen }] } } .reduction))) ∧
  -- no slot is left for a key at its root
  (∀ (s : State) (r : RReq), findSlot s (r.job % 2 ^ 32) r.cid = none → rootAlloc s r = (s, .refused .fredNoslot)) ∧
  (∀ (s : State) (d a t : BitVec 6), featOn s s.g.pid 1 = true → Safety.settled s [d, a, t] →
    let ga := (rs s a).toNat
    -- the descriptor's address
    (ga % 128 ≠ 0 → let bad : Instr → Prop := fun i => exec i s = .next (takeTrap s { cause := .align, slot := s.slot, addr := ga })
      (myReq s 0 = none → bad (.fralloc d a)) ∧ (myReq s 1 = none → bad (.frcontrib d a) ∧ bad (.frcontribQ d a t)) ∧
      (myReq s 2 = none → bad (.frwait d a t))) ∧
    -- the request goes to a root on this package or to another, or finds the descriptor bad
    (∀ b u, myReq s 0 = none → ga % 128 = 0 → Safety.loaded s (.fralloc d a) b u →
      let r := rdescOf b
      let sound := r.rsvOk = true ∧ redOpOk r.op r.ty = true ∧ 0 < r.timeout ∧ r.timeout ≤ 1000000 ∧
        r.parts.getLsbD (pkgNo s) = true
      (¬sound → exec (.fralloc d a) s = .next (takeTrap u { cause := .qBaddesc, slot := u.slot })) ∧
      (sound → (∃ n ∈ partNums r.parts, peerUp s n = false) →
        exec (.fralloc d a) s = .next (takeTrap u { cause := .fabUnreach, slot := u.slot })) ∧
      (sound → (∀ n ∈ partNums r.parts, peerUp s n = true) → rootOf r.parts ≠ pkgNo s → exec (.fralloc d a) s = request s u
        { kind := 0, pkg := pkgNo s, g := some (s.g.key, (cur s).tag), root := rootOf r.parts, job := s.g.d.job, cid := r.cid
          parts := r.parts, op := r.op, ty := r.ty, timeout := r.timeout }) ∧
      (sound → (∀ n ∈ partNums r.parts, peerUp s n = true) → rootOf r.parts = pkgNo s →
        Safety.completes (.fralloc d a) s (fun w => w.g.s = s.g.s ∧ (cur w).wait = some .reduction ∧
          w.net.rreqs = s.net.rreqs ++ [{ kind := 0, pkg := pkgNo s, g := some (s.g.key, (cur s).tag), root := pkgNo s
                                          job := s.g.d.job, cid := r.cid, parts := r.parts, op := r.op, ty := r.ty
                                          timeout := r.timeout }]))) ∧
    (∀ b u, myReq s 1 = none → ga % 128 = 0 →
      let h : W32 := BitVec.ofNat 32 (leNat b)
      ∀ i ∈ [Instr.frcontrib d a, .frcontribQ d a t], Safety.loaded s i b u →
        (hV h = false → exec i s = .next (takeTrap u { cause := .qBaddesc, slot := u.slot })) ∧
        (hV h = true → hRoot h ≠ pkgNo s → exec i s = request s u
          { kind := 1, pkg := pkgNo s, g := some (s.g.key, (cur s).tag)
            root := hRoot h, slot := hSlot h, gen := hGen h, val := (rs s d).toNat }) ∧
        (hV h = true → hRoot h = pkgNo s → Safety.completes i s (fun w => w.g.s = s.g.s ∧ (cur w).wait = some .reduction ∧
          w.net.rreqs = s.net.rreqs ++ [{ kind := 1, pkg := pkgNo s, g := some (s.g.key, (cur s).tag), root := pkgNo s
                                          slot := hSlot h, gen := hGen h, val := (rs s d).toNat }]))) ∧
    (∀ b u, myReq s 2 = none → ga % 128 = 0 → Safety.loaded s (.frwait d a t) b u →
      let h : W32 := BitVec.ofNat 32 (leNat b)
      (hV h = false → exec (.frwait d a t) s = .next (takeTrap u { cause := .qBaddesc, slot := u.slot })) ∧
      (hV h = true → hRoot h ≠ pkgNo s → exec (.frwait d a t) s = request s u
        { kind := 2, pkg := pkgNo s, g := some (s.g.key, (cur s).tag)
          root := hRoot h, slot := hSlot h, gen := hGen h }) ∧
      (hV h = true → hRoot h = pkgNo s → Safety.completes (.frwait d a t) s (fun w => w.g.s = s.g.s ∧
        (cur w).wait = some .reduction ∧
        w.net.rreqs = s.net.rreqs ++ [{ kind := 2, pkg := pkgNo s, g := some (s.g.key, (cur s).tag), root := pkgNo s
                                        slot := hSlot h, gen := hGen h }]))) ∧
    -- the answers
    (∀ r h u, myReq s 0 = some r → r.ans = some (.handle h) →
      let w := mkHandle r.root (h / 256) (h % 256)
      Safety.stores s (dropReq s) (.fralloc d a) (ga + 80) (leBytes 4 w.toNat) u →
      Safety.completes (.fralloc d a) s (fun v => v = advance (ws u d (w.zeroExtend 64)))) ∧
    (∀ r, myReq s 1 = some r → r.ans = some .taken →
      Safety.completes (.frcontrib d a) s (fun v => v = advance (dropReq s)) ∧
      Safety.completes (.frcontribQ d a t) s (fun v => v = advance (ws (dropReq s) t 0#64))) ∧
    (∀ r, myReq s 1 = some r → r.ans = some .late →
      exec (.frcontrib d a) s = .next (takeTrap (dropReq s) { cause := .fredClosed, slot := s.slot }) ∧
      Safety.completes (.frcontribQ d a t) s (fun v => v = advance (ws (dropReq s) t 1#64))) ∧
    (∀ r v st m u, myReq s 2 = some r → r.ans = some (.result v st m) →
      Safety.stores s (dropReq s) (.frwait d a t) (ga + 84) (leBytes 4 st ++ leBytes 8 v ++ leBytes 32 m.toNat) u →
      Safety.completes (.frwait d a t) s (fun w =>
        w = advance (ws (ws u d (BitVec.ofNat 64 v)) t (BitVec.ofNat 64 st)))) ∧
    -- the root refuses: no slot, another descriptor than the slot's, or a contribution that is not the package's
    (∀ r k c, myReq s k = some r → r.ans = some (.refused c) →
      let refused : Instr → Prop := fun i => exec i s = .next (takeTrap (dropReq s) { cause := c, slot := s.slot })
      (k = 0 → refused (.fralloc d a)) ∧ (k = 1 → refused (.frcontrib d a) ∧ refused (.frcontribQ d a t)) ∧
      (k = 2 → refused (.frwait d a t))) ∧
    (∀ r k, myReq s k = some r → r.ans = none →
      (k = 0 → exec (.fralloc d a) s = waitFor s .reduction) ∧
      (k = 1 → exec (.frcontrib d a) s = waitFor s .reduction ∧ exec (.frcontribQ d a t) s = waitFor s .reduction) ∧
      (k = 2 → exec (.frwait d a t) s = waitFor s .reduction)))

/-- 10, R240, R242: a tile control register keeps the defined bits of what is written; every other one is unchanged. -/
def Obligations.TileControlRegistersReadBack : Prop :=
  ∀ (s : State) (a d : BitVec 6) (n : BitVec 4), (cur s).cq = [] →
    (Safety.settled s [a] → ∃ t, exec (.tcfg a n) s = .next t ∧
      t = { s with g := { setPath s.g s.slot { cur s with pc := (cur s).pc + 4#64, wait := none, exempt := false } with
                          tc := s.g.tc.set n.toNat (rs s a &&& 0x0000FFFFFFF0FFFF#64) } }) ∧
    (Safety.settled s [d] → Safety.setsTo (.tcfgR d n) s d (s.g.tc.getD n.toNat 0#64))

/-! ## The lane stream (05, 07, 08, 10) -/

/-- 01, R17-R21 and 08, R205: a lane instruction of the running clause whose sources are registers, literals or specials reads them at
once and changes nothing by it; a lane acts where the clause's mask and its predicate say so. -/
def Obligations.PlainSourcesAreReadByLane : Prop :=
  ∀ (s : State) (i : Instr) (e : CEnt) (op : BitVec 10) (f : LaneF),
    curEnt s = some e → laneParts i = some (op, f) → heldOp s i = none →
    (∀ x ∈ [f.srcA, f.srcB, f.srcC], srcBearing x = 0 ∧ (srcCode x < 0x90 ∨ 0x97 < srcCode x)) →
    (f.dest.toNat < 0x90 ∨ 0x97 < f.dest.toNat) →
    let sp := laneSpec (cxOf s.g (cur s).gfmt) op.toNat f
    let ty : Option SrcSpec → Nat := fun p => (p.map SrcSpec.ty).getD 9
    let m := actMask s.g e.mask f
    let vals : BitVec 14 → Nat → List Nat := fun x t =>
      (List.range s.g.width).map (fun l => if (lanesOf m).contains l then srcVal s.g e f t x l else 0)
    Safety.reads s i s ⟨e, m, lanesOf m, vals f.srcA (ty sp.a), vals f.srcB (ty sp.b), vals f.srcC (ty sp.c)⟩ ∧
    (∀ l < 32, (l ∈ lanesOf m ↔ e.mask.getLsbD l = true ∧
      (f.pk = 0#3 ∧ f.pinv = false ∨ f.pk ≠ 0#3 ∧ (s.g.k.getD f.pk.toNat 0#32).getLsbD l ≠ f.pinv)))

/-- 07, R185-R189: a source with a bearing. Between steps it traps with STEP_CLOSED; off a bounded edge with NB_EDGE; a view of a
resident cell of the group's own core is the copy tagged with its step, and zero before the first step. An instruction whose halo loads
have returned goes on with what it read when it issued, and reads no register again (07, R186; 19, R357). -/
def Obligations.NeighbourReadsSeePublishedCopies : Prop :=
  (∀ (s : State) (i : Instr) (e : CEnt) (op : BitVec 10) (f : LaneF) (o : Op),
    curEnt s = some e → laneParts i = some (op, f) → heldOp s i = some o → (∀ p ∈ o.parts, p.st = .done ∧ p.err = none) →
    Safety.reads s i (dropHeld s i) (heldIn s e (laneSpec (cxOf s.g (cur s).gfmt) op.toNat f) f o) ∧
    ∀ g : Group, g.d = s.g.d → g.key = s.g.key → g.width = s.g.width → g.handler = s.g.handler →
      heldIn { s with g := g } e (laneSpec (cxOf s.g (cur s).gfmt) op.toNat f) f o =
        heldIn s e (laneSpec (cxOf s.g (cur s).gfmt) op.toNat f) f o) ∧
  (∀ (s : State) (i : Instr) (e : CEnt) (op : BitVec 10) (f : LaneF),
    curEnt s = some e → laneParts i = some (op, f) → heldOp s i = none →
    queueBad s.g (laneSpec (cxOf s.g (cur s).gfmt) op.toNat f) op.toNat f = false →
    (∃ x ∈ [f.srcA, f.srcB, f.srcC], srcBearing x ≠ 0) →
    (s.g.isOpen = false → ∀ k, withLane s i none k = .next (takeTrap s { cause := .stepClosed, slot := s.slot })) ∧
    (s.g.isOpen = true → ∀ r, (nbReads s.g (lanesOf (actMask s.g e.mask f))
        (srcTypes (laneSpec (cxOf s.g (cur s).gfmt) op.toNat f) f)).find? (fun r => r.dst = .edge) = some r →
      ∀ k, withLane s i none k = .next (takeTrap s { cause := .nbEdge, slot := s.slot, lane := some r.lane }))) ∧
  (∀ (s : State) (g : Group) (n r : Nat),
    (g.step = 0 → viewOf s g n r false = some 0#32) ∧
    (∀ (q : Parcel) (h : Group) (now : Bool), (now = true ∨ g.step ≠ 0) →
      parcelPkg s g.d (parcelOfCell g.d n) = pkgNo s → parcelOf s ⟨g.key.launch, parcelOfCell g.d n⟩ = some q → q.core = g.core →
      getG s ⟨g.key.launch, groupOfCell g.d n⟩ = some h →
      let st : Int := if now then g.step else (g.step : Int) - 1
      let odd : Bool := st % 2 = 1
      (tagOf h odd r (n % g.width) = some st → viewOf s g n r now = some (copyVal h odd r (n % g.width))) ∧
      (tagOf h odd r (n % g.width) ≠ some st → viewOf s g n r now = none)))

/-- 08, R206, R208: what landing a one-register result writes: the destination register of the acting lanes and the number flags of the
path, and no other register, predicate, byte of the stash or byte of memory. 10, R248-R256: what the matrix array writes when it performs
an instruction: tiles, accumulators, q2 and registers; the sum of an integer tile under MX32 that is no integer is free (log 9), and an
f32 goes into an accumulator with its NaN payload (log 72). -/
def Obligations.LandedResultsWriteTheDestination : Prop :=
  (∀ (s : State) (act : List Nat) (d : Nat) (h : Nat → (Nat → Nat) → Nat × FFlags),
    d < 0x80 → d < s.g.d.regs → act.Nodup → (∀ l ∈ act, l < s.g.width) → s.g.v.length = s.g.d.regs * s.g.width →
    s.g.live = true → (cur s).occ = true → (s.g.p0.tag = s.g.p1.tag → s.slot = false) →
    let t := landLanes s (cur s).tag act d false .ne 0 h
    (∀ l ∈ act, t.g.v.getD (d * s.g.width + l) 0#32 = BitVec.ofNat 32 (h l (fun _ => 0)).1) ∧
    (∀ j, (∀ l ∈ act, j ≠ d * s.g.width + l) → t.g.v.getD j 0#32 = s.g.v.getD j 0#32) ∧
    (cur t).gmode = (cur s).gmode ||| fflagsBits (act.foldl (fun fl l => fflagsOr fl (h l (fun _ => 0)).2) fflagsNone) ∧
    (cur t).pc = (cur s).pc ∧ (cur t).cq = (cur s).cq ∧ pathOf t.g (!s.slot) = pathOf s.g (!s.slot) ∧
    t.g.s = s.g.s ∧ t.g.k = s.g.k ∧ t.g.xw = s.g.xw ∧ t.g.tile = s.g.tile ∧ t.g.acc = s.g.acc ∧ t.g.rnd = s.g.rnd ∧
    t.mem = s.mem ∧ t.stash = s.stash ∧ t.unpub = s.unpub ∧ t.others = s.others ∧ t.ops = s.ops) ∧
  (∀ (s : State) (o : Op) (op : BitVec 10) (f : LaneF), laneParts o.instr = some (op, f) → cellsFrom 0 s.g.tile = true →
    let act := lanesOf o.mask
    let t := opTile o f 0
    let r0 := immBits f 4 5
    let a0 := immBits f 3 5
    let w := 4 * immBits f 9 6
    let v : Nat → Nat := fun l => (o.vals.headD []).getD l 0
    let does : Nat → (State → Prop) → Prop := fun n P => op.toNat = n → ∃ u, doMatrix s o = some u ∧ P u
    let rows := ∀ l ∈ act, l + r0 < t.rows
    -- tzero: rows of zeros, with scales of 1
    (rows → does 0x0A2 (fun u => u = { s with g := { s.g with tile := u.g.tile } } ∧
      (∀ l ∈ act, (∀ k < tileRB t, cellGet u.g.tile (rowAt t (l + r0) + k) = 0#8) ∧
        (t.scm = 1 → ∀ k < tileSB t, cellGet u.g.tile (scaleAt t (l + r0) + k) = 0x7F#8)) ∧
      ∀ a, (∀ l ∈ act, (a < rowAt t (l + r0) ∨ rowAt t (l + r0) + tileRB t ≤ a) ∧
          (t.scm = 1 → a < scaleAt t (l + r0) ∨ scaleAt t (l + r0) + tileSB t ≤ a)) → cellGet u.g.tile a = cellGet s.g.tile a)) ∧
    -- tmovi: a word of a row, or the bytes of its scales that are there; the half byte past a row's last element stays zero
    (rows → movShape f t = true → does 0x0A3 (fun u => u = { s with g := { s.g with tile := u.g.tile } } ∧
      (∀ l ∈ act,
        (modBit f 16 = false → cellRead u.g.tile (rowAt t (l + r0) + w) 4 =
          v l % (if tileBits t = 4 ∧ t.cols % 2 = 1 ∧ tileRB t ≤ w + 4 then 2 ^ 28 else 2 ^ 32)) ∧
        (modBit f 16 = true → ∀ k < 4, w + k < tileSB t →
          cellGet u.g.tile (scaleAt t (l + r0) + w + k) = BitVec.ofNat 8 (v l / 256 ^ k))) ∧
      ∀ a, (∀ l ∈ act, let b := if modBit f 16 then scaleAt t (l + r0) + w else rowAt t (l + r0) + w
          a < b ∨ b + 4 ≤ a) → cellGet u.g.tile a = cellGet s.g.tile a)) ∧
    -- tmovo, tsum
    does 0x0A4 (fun u => u = landLanes s o.tag act f.dest.toNat false .ne 0 (fun l _ => (movWord s.g o f l, {})) ∧
      ∀ l, (modBit f 16 = false → movWord s.g o f l = cellRead s.g.tile (rowAt t (l + r0) + w) 4) ∧
        (modBit f 16 = true → w + 4 ≤ tileSB t → movWord s.g o f l = cellRead s.g.tile (scaleAt t (l + r0) + w) 4)) ∧
    does 0x0A5 (fun u => u = { landLanes s o.tag act f.dest.toNat false (opMode o f) (if f.ty = 1#5 then 1 else 0)
        (fun l b => sumRow s o f l (b 0)) with free := s.free + 32 } ∧
      ∀ l b, (f.ty = 1#5 → sumRow s o f l b = roundTo fmtF32 (opMode o f) f.sat false b (xdot (zeroSign (opMode o f))
          ((List.range t.cols).map (elemVal s.g.tile t (l + r0))))) ∧
        (f.ty ≠ 1#5 → t.scm ≠ 1 → sumRow s o f l b =
          intRes 8 f.sat ((List.range t.cols).map (elemInt s.g.tile t (l + r0))).sum)) ∧
    -- mma, mdist: every dot group of a pair of rows, ascending, into one element
    (∀ dist : Bool,
      let b := opTile o f 4
      let ac := immBits f 8 3
      let i0 := immBits f 11 5
      let pair := modBits f 16 2 = 2
      let dot : Nat → Nat → Nat → Nat := fun i j x =>
        (dotGo s.g.tile t b (modBits f 16 2) f.sat dist i j (dotSize t b) t.cols 0 (x, {})).1
      (∀ l ∈ act, l + i0 < 32) → (pair → b.rows ≤ 16) → b.rows ≤ 32 → does (if dist then 0x0A7 else 0x0A6) (fun u =>
        u.g.tile = s.g.tile ∧ u.g.v = s.g.v ∧ u.g.q2 = s.g.q2 ∧
        (∀ l ∈ act, ∀ j < b.rows,
          (pair → pairGet u.g ac (l + i0) j = dot (l + i0) j (pairGet s.g ac (l + i0) j) % 2 ^ 64) ∧
          (¬pair → accGet u.g ac (l + i0) j = dot (l + i0) j (accGet s.g ac (l + i0) j) % 2 ^ 48)) ∧
        ∀ c i j, i < 32 → j < 32 → (c ≠ ac ∨ (∀ l ∈ act, i ≠ l + i0) ∨ (if pair then 2 * b.rows ≤ j else b.rows ≤ j)) →
          accGet u.g c i j = accGet s.g c i j)) ∧
    -- ald: a lane's value along its row, or down its column, alone or added to what is there
    (let ac := immBits f 0 3
     let pair := f.ty = 0#5
     let col := modBit f 16 = true
     let put : State → Nat → Nat → Nat → Prop := fun u i j x =>
       (pair → pairGet u.g ac i j =
         (if modBit f 17 then (rnd64 (xadd false (fmtDec fmtF64 (pairGet s.g ac i j)) (fmtDec fmtF64 x))).1 else x) % 2 ^ 64) ∧
       (f.ty = 1#5 → accGet u.g ac i j =
         (if modBit f 17 then (rnd48 (xadd false (fmtDec fmtF48 (accGet s.g ac i j)) (fmtDec fmtF48 (f32to48 x)))).1
          else f32to48 x) % 2 ^ 48) ∧
       (¬pair → f.ty ≠ 1#5 → accGet u.g ac i j = bitsOfInt 48 (intOf true 32 x + (if modBit f 17 then (accGet s.g ac i j : Int) else 0)))
     (∀ l ∈ act, l + a0 < (if col ∧ pair then 16 else 32)) → does 0x0A8 (fun u =>
       u.g.tile = s.g.tile ∧ u.g.v = s.g.v ∧ u.g.q2 = s.g.q2 ∧
       (∀ l ∈ act, (col → ∀ i < 32, put u i (l + a0) (v l)) ∧ (¬col → ∀ j < (if pair then 16 else 32), put u (l + a0) j (v l))) ∧
       ∀ c i j, i < 32 → j < 32 → (c ≠ ac ∨ ∀ l ∈ act, (if col then (if pair then j / 2 else j) else i) ≠ l + a0) →
         accGet u.g c i j = accGet s.g c i j)) ∧
    -- aclr
    ((∀ l ∈ act, l + a0 < 32) → does 0x0AA (fun u => u = { s with g := { s.g with acc := u.g.acc } } ∧
      (∀ l ∈ act, ∀ j < 32, accGet u.g (immBits f 0 3) (l + a0) j = 0) ∧
      ∀ c i j, i < 32 → j < 32 → (c ≠ immBits f 0 3 ∨ ∀ l ∈ act, i ≠ l + a0) → accGet u.g c i j = accGet s.g c i j)) ∧
    -- adrain: the elements of a row, packed, into a tile or into the registers from dest on
    (let d := opTile o f 8
     let n := drainN f d
     let c := (drainFmt o f).2
     let packed : Nat → Nat := fun l => packElems c ((drainRow s.g o f l n).map (fun e => e.1))
     (modBit f 16 = true → (∀ l ∈ act, l + a0 < d.rows) → does 0x0A9 (fun u => u.g.v = s.g.v ∧ u.g.acc = s.g.acc ∧
       (∀ l ∈ act, cellRead u.g.tile (rowAt d (l + a0)) (tileRB d) = packed l % 2 ^ (8 * tileRB d)) ∧
       ∀ a, (∀ l ∈ act, a < rowAt d (l + a0) ∨ rowAt d (l + a0) + tileRB d ≤ a) → cellGet u.g.tile a = cellGet s.g.tile a)) ∧
     (modBit f 16 = false → does 0x0A9 (fun u => u.g.tile = s.g.tile ∧ u.g.acc = s.g.acc ∧
       (s.g.v.length = s.g.d.regs * s.g.width → (∀ l ∈ act, l < s.g.width) →
         (f.dest.toNat + (n * c + 31) / 32 ≤ s.g.d.regs) → s.g.d.regs ≤ 0x80 →
         (∀ l ∈ act, ∀ j < (n * c + 31) / 32,
           u.g.v.getD ((f.dest.toNat + j) * s.g.width + l) 0#32 = BitVec.ofNat 32 (packed l / 2 ^ (32 * j))) ∧
         ∀ k, (∀ l ∈ act, ∀ j < (n * c + 31) / 32, k ≠ (f.dest.toNat + j) * s.g.width + l) →
           u.g.v.getD k 0#32 = s.g.v.getD k 0#32))) ∧
     (∀ l, drainRow s.g o f l n = (List.range n).map (fun j => drainElem (drainFmt o f).1 (opMode o f) f.sat
         (if opMode o f = .st then roundWord s.g l j else 0) (drainVal s.g o f (opMode o f) l j)) ∧
       ∀ j, let ac := immBits f 0 3
         let x := if modBit f 19 then fmtDec fmtF64 (pairGet s.g ac (l + a0) j)
           else if modBit f 17 then fmtDec fmtF48 (accGet s.g ac (l + a0) j) else xOfInt (intOf true 48 (accGet s.g ac (l + a0) j))
         let z := xOfInt (intOf true 32 ((o.vals.getLastD []).getD l 0))
         (modBit f 18 = false → drainVal s.g o f (opMode o f) l j = xadd (zeroSign (opMode o f)) x z) ∧
         (modBit f 18 = true → ∀ p, o.parts.find? (fun p => p.lane = l && p.cmp = j) = some p →
           drainVal s.g o f (opMode o f) l j = xadd (zeroSign (opMode o f))
             (xscale (xmul x (xOfInt (intOf true 32 p.res))) (intOf true 8 (p.res / 2 ^ 32) - 31)) z))) ∧
    -- mtopk: the pairs of each row, if q2 has room for them
    (let ps := (act.map (fun l => rankRow s.g f (l + a0) (v l % 2 ^ 32))).flatten
     (op.toNat = 0x0AB → 256 < s.g.q2.length + ps.length → doMatrix s o = none) ∧
     (s.g.q2.length + ps.length ≤ 256 → does 0x0AB (fun u => u = { s with g := { s.g with q2 := s.g.q2 ++ ps } })) ∧
     ∀ i base, (rankRow s.g f i base).length = Nat.min (modBits f 16 5 + 1) (immBits f 8 5 + 1))) ∧
  -- one dot group, by mode, and the groups of a row one after another
  (∀ (m : List Host.Cell) (a b : Tile) (mode : Nat) (sat dist : Bool) (i j k0 k1 gs n x : Nat) (r : Nat × FFlags),
    let one := accumulate m a b mode sat dist i j k0 k1 x
    let sum := intOf true 48 x + dotInt m a b i j k0 k1 dist
    (mode = 0 → sat = false → one = (bitsOfInt 48 sum, {})) ∧
    (mode = 0 → sat = true → -(2 ^ 31 : Nat) ≤ sum → sum < (2 ^ 31 : Nat) → one = (bitsOfInt 48 sum, {})) ∧
    (mode = 0 → sat = true → (2 ^ 31 : Nat) ≤ sum → one = (2 ^ 31 - 1, { ofl := true })) ∧
    (mode = 0 → sat = true → sum < -(2 ^ 31 : Nat) → one = (2 ^ 48 - 2 ^ 31, { ofl := true })) ∧
    (mode = 1 → one = rnd48 (xadd false (fmtDec fmtF48 x) (xdot false (dotTerms m a b i j k0 k1 dist)))) ∧
    (mode = 2 → one = rnd64 (xadd false (fmtDec fmtF64 x) (xdot false (dotTerms m a b i j k0 k1 dist)))) ∧
    dotGo m a b mode sat dist i j gs 0 k0 r = r ∧
    (a.cols ≤ k0 → dotGo m a b mode sat dist i j gs n k0 r = r) ∧
    (k0 < a.cols → let q := accumulate m a b mode sat dist i j k0 (min a.cols (k0 + gs)) r.1
      dotGo m a b mode sat dist i j gs (n + 1) k0 r = dotGo m a b mode sat dist i j gs n (k0 + gs) (q.1, fflagsOr r.2 q.2)))

/-- 08, R207-R208, R210-R213: the integer class. Operands are exact integers of the type, negated where the source says so; a result is
clamped with OF under sat, else reduced modulo 2^W. -/
def Obligations.LaneIntegerClassResults : Prop :=
  (∀ (t : Nat) (v : Int), 8 ≤ t → t ≤ 15 →
    let w := tyWidth t
    let lo : Int := if isSignedTy t then -(2 ^ (w - 1) : Nat) else 0
    let hi : Int := if isSignedTy t then (2 ^ (w - 1) : Nat) - 1 else (2 ^ w : Nat) - 1
    intRes t false v = ((v % (2 ^ w : Nat)).toNat, {}) ∧
    (lo ≤ v → v ≤ hi → intRes t true v = ((v % (2 ^ w : Nat)).toNat, {})) ∧
    (v < lo → intRes t true v = ((lo % (2 ^ w : Nat)).toNat, { ofl := true })) ∧
    (hi < v → intRes t true v = ((hi % (2 ^ w : Nat)).toNat, { ofl := true }))) ∧
  ∀ (s : State) (f : LaneF),
    let t := f.ty.toNat
    let w := tyWidth t
    let wide := is64Ty t
    let exact : Instr → (Int → Int → Int → Int) → Prop := fun i h =>
      Safety.gives s i f false .ne 0 (fun x l _ =>
        let r := intRes t f.sat (h (intA f x t l) (intB f x t l) (intC f x t l))
        (extendTy t r.1, r.2))
    let bits : Instr → (Nat → Nat → Nat) → Prop := fun i h =>
      Safety.gives s i f false .ne 0 (fun x l _ => (extendTy t (h (bitsA f x t l) (bitsB f x t l) % 2 ^ w), {}))
    let plain : Instr → Bool → (LaneIn → Nat → Nat) → Prop := fun i wd h =>
      Safety.gives s i f wd .ne 0 (fun x l _ => (h x l, {}))
    let n : Nat → Nat := fun b => if modBit f 16 then immBits f 0 5 else b % 256
    exact (.iadd f) (fun a b _ => a + b) ∧ exact (.isub f) (fun a b _ => a - b) ∧ exact (.imul f) (fun a b _ => a * b) ∧
    exact (.imulh f) (fun a b _ => a * b / (2 ^ w : Nat)) ∧ exact (.imulhu f) (fun a b _ => a * b / (2 ^ w : Nat)) ∧
    exact (.imad f) (fun a b c => a * b + c) ∧
    exact (.imin f) (fun a b _ => Min.min a b) ∧ exact (.imax f) (fun a b _ => Max.max a b) ∧
    exact (.iminu f) (fun a b _ => Min.min a b) ∧ exact (.imaxu f) (fun a b _ => Max.max a b) ∧
    exact (.iabs f) (fun a _ _ => (a.natAbs : Int)) ∧
    bits (.iand f) (fun a b => a &&& b) ∧ bits (.ior f) (fun a b => a ||| b) ∧ bits (.ixor f) (fun a b => a ^^^ b) ∧
    bits (.iandn f) (fun a b => a &&& (2 ^ w - 1 - b % 2 ^ w)) ∧
    bits (.ishl f) (fun a b => if w ≤ n b then 0 else a * 2 ^ n b) ∧
    bits (.ishr f) (fun a b => if w ≤ n b then 0 else a / 2 ^ n b) ∧
    bits (.isar f) (fun a b => (intOf true w a / (2 ^ Nat.min w (n b) : Nat) % (2 ^ w : Nat)).toNat) ∧
    plain (.ipopc f) false (fun x l => (List.range w).countP (fun k => (x.a.getD l 0).testBit k)) ∧
    plain (.iclz f) false (fun x l => let v := x.a.getD l 0 % 2 ^ w; if v = 0 then w else w - 1 - v.log2) ∧
    plain (.ibfe f) false (fun x l =>
      let k := immBits f 5 6
      let v := x.a.getD l 0 / 2 ^ immBits f 0 5 % 2 ^ k
      if k = 0 then 0 else bitsOfInt 32 (intOf (f.ty = 8#5) k v)) ∧
    plain (.ibfi f) false (fun x l =>
      let p := immBits f 0 5
      let k := immBits f 5 6
      let a := x.a.getD l 0
      a / 2 ^ (p + k) * 2 ^ (p + k) + x.b.getD l 0 % 2 ^ k * 2 ^ p + a % 2 ^ p) ∧
    plain (.icmp f) false (fun x l =>
      let a := intA f x t l
      let b := intB f x t l
      let c := modBits f 16 3
      b2n (if c = 0 then decide (a = b) else if c = 1 then decide (a ≠ b) else if c = 2 then decide (a < b)
        else if c = 3 then decide (a ≤ b) else if c = 4 then decide (b < a) else decide (b ≤ a))) ∧
    plain (.isel f) wide (fun x l => extendTy t (if x.c.getD l 0 ≠ 0 then x.a.getD l 0 else x.b.getD l 0)) ∧
    plain (.imov f) wide (fun x l => extendTy t (x.a.getD l 0)) ∧
    Safety.gives s (.iadd64 f) f true .ne 0 (fun x l _ => intRes t f.sat (intA f x t l +
      intB f x (if modBit f 16 then (if f.ty = 10#5 then 8 else 9) else t) l)) ∧
    Safety.gives s (.imad64 f) f true .ne 0 (fun x l _ =>
      let h := if f.ty = 10#5 then 8 else 9
      intRes t f.sat (intA f x h l * intB f x h l + intC f x t l))

/-- 08, R214-R218: the float class: exact values combined, then one rounding under the word's mode; a selected operand is returned
unrounded. -/
def Obligations.LaneFloatClassResults : Prop :=
  ∀ (s : State) (f : LaneF),
    let t := f.ty.toNat
    let md := modeOf s f
    let wide := is64Ty t
    let rounded : Instr → (XVal → XVal → XVal → XVal) → Prop := fun i h =>
      Safety.gives s i f wide md 1 (fun x l u => roundTo (wideFmt t) md f.sat (fzoOf s) (u 0)
        (h (floatA s f x t l) (floatB s f x t l) (floatC s f x t l)))
    let picked : Instr → (XVal → XVal → XVal) → Prop := fun i h =>
      Safety.gives s i f wide .ne 0 (fun x l _ =>
        let a := floatA s f x t l
        let b := floatB s f x t l
        ((roundTo (wideFmt t) .ne false false 0 (h a b)).1, { nv := xisSnan a || xisSnan b }))
    let number : (XVal → XVal → Bool) → XVal → XVal → XVal := fun lt a b =>
      if xisNan a then b else if xisNan b then a else if lt b a then b else a
    let nan : (XVal → XVal → Bool) → XVal → XVal → XVal := fun lt a b =>
      if xisNan a || xisNan b then .nan false else if lt b a then b else a
    rounded (.fadd f) (fun a b _ => xadd (md = .dn) a b) ∧ rounded (.fsub f) (fun a b _ => xadd (md = .dn) a (xneg b)) ∧
    rounded (.fmul f) (fun a b _ => xmul a b) ∧ rounded (.ffma f) (fun a b c => xadd (md = .dn) (xmul a b) c) ∧
    picked (.fmin f) (number xless) ∧ picked (.fmax f) (number (fun a b => xless b a)) ∧
    picked (.fminnan f) (nan xless) ∧ picked (.fmaxnan f) (nan (fun a b => xless b a)) ∧
    Safety.gives s (.fcmp f) f false .ne 0 (fun x l _ =>
      let a := floatA s f x t l
      let b := floatB s f x t l
      let c := modBits f 16 3
      let un := xisNan a || xisNan b
      let lt := xcmp a b = .lt
      let eq := xcmp a b = .eq
      (b2n (if c = 6 then un else if c = 7 then !un else if un then decide (c = 1) else if c = 0 then decide eq
          else if c = 1 then decide (¬eq) else if c = 2 then decide lt else if c = 3 then decide (lt ∨ eq)
          else if c = 4 then decide (¬lt ∧ ¬eq) else decide (¬lt)),
        { nv := if 2 ≤ c && c ≤ 5 then un else xisSnan a || xisSnan b })) ∧
    Safety.gives s (.fclass f) f false .ne 0 (fun x l _ =>
      let b := classBit (wideFmt t) (x.a.getD l 0)
      (if 0x88 ≤ f.dest.toNat && f.dest.toNat ≤ 0x8F then b2n (f.imm.getLsbD b) else 2 ^ b, {})) ∧
    Safety.gives s (.frnd f) f wide md 1 (fun x l u =>
      let a := floatA s f x t l
      ((roundTo (wideFmt t) .ne false false 0 (integral md (u 0) a)).1, { nv := xisSnan a })) ∧
    Safety.gives s (.fscale f) f wide md 1 (fun x l u =>
      let a := floatA s f x t l
      if xisInf a || xisZero a then ((roundTo (wideFmt t) .ne false false 0 a).1, {})
      else roundTo (wideFmt t) md f.sat (fzoOf s) (u 0) (scaleBy a (tyInt' 8 (x.b.getD l 0)))) ∧
    Safety.gives s (.fdot2 f) f false md 1 (fun x l u =>
      let el : Bool → Nat → Nat → XVal := fun n v j => floatOf (fziOf s) t n (v / 2 ^ (16 * j) % 2 ^ 16)
      let p : Nat → XVal := fun j => xmul (el (srcNeg f.srcA) (x.a.getD l 0) j) (el (srcNeg f.srcB) (x.b.getD l 0) j)
      roundTo fmtF32 md f.sat (fzoOf s) (u 0) (xdot (md = .dn) [p 0, p 1, floatC s f x 1 l])) ∧
    (let fa := narrowFmt (cur s).gfmt (modBit f 16)
     let fb := narrowFmt (cur s).gfmt (modBit f 17)
     fmtValid fa = true → fmtValid fb = true → Safety.gives s (.fdot4 f) f false md 1 (fun x l u =>
      let p : Nat → XVal := fun j => xmul (elemOf fa (fziOf s) (srcNeg f.srcA) (x.a.getD l 0 / 2 ^ (8 * j)))
        (elemOf fb (fziOf s) (srcNeg f.srcB) (x.b.getD l 0 / 2 ^ (8 * j)))
      roundTo fmtF32 md f.sat (fzoOf s) (u 0) (xdot (md = .dn) [p 0, p 1, p 2, p 3, floatC s f x 1 l])))

/-- 08, R219-R224: the convert class: a side of type `.n` needs a valid descriptor, a scaled form BSM 1; else ILL_FMT. -/
def Obligations.LaneConvertClassResults : Prop :=
  ∀ (s : State) (f : LaneF),
    let t := f.ty.toNat
    let st := modBits f 16 4
    let md := modeOf s f
    let wide := is64Ty t
    let sides : List Nat → Prop := fun l => 4 ∈ l → fmtValid (narrowFmt (cur s).gfmt (modBit f 20)) = true
    let scaled : Bool → Fmt → Prop := fun on fm => (on = true → (cur s).gfmt.extractLsb' 32 2 = 1#2) ∧ fmtValid fm = true
    (sides [t] → Safety.gives s (.cvtif f) f wide md 1 (fun x l u =>
      roundTo (sideFmt s f t) md f.sat (fzoOf s) (u 0) (xOfInt (intA f x st l)))) ∧
    (sides [st] → Safety.gives s (.cvtfi f) f wide md 1 (fun x l u =>
      let r := roundTo (intFmt t) md false false (u 0) (sideVal s f st (x.a.getD l 0))
      (extendTy t r.1, r.2))) ∧
    (sides [st, t] → Safety.gives s (.cvtff f) f wide md 1 (fun x l u =>
      roundTo (sideFmt s f t) md f.sat (fzoOf s) (u 0) (sideVal s f st (x.a.getD l 0)))) ∧
    (let fm := narrowFmt (cur s).gfmt (modBit f 17)
     scaled (modBit f 18) fm → Safety.gives s (.cvtn f) f false md 2 (fun x l u =>
      let k := if modBit f 18 then x.c.getD l 0 % 256 else 127
      let code : Nat → XVal → Nat × FFlags := fun u v =>
        roundTo fm md f.sat (fzoOf s) u (if k = 0xFF then .nan false else xscale v (127 - (k : Int)))
      let lo := code (u 0) (floatA s f x 1 l)
      let hi := code (u 1) (floatB s f x 1 l)
      let old := if f.dest.toNat < 0x88 then regVal s.g f.dest.toNat l false else 0
      (mergeBytes old (modBits f 16 1) lo.1 hi.1, fflagsOr lo.2 hi.2))) ∧
    (let fm := narrowFmt (cur s).gfmt (modBit f 18)
     scaled (modBit f 19) fm → Safety.gives s (.cvtw f) f false md 1 (fun x l u =>
      let k := if modBit f 19 then x.b.getD l 0 % 256 else 127
      let v := elemOf fm (fziOf s) false (x.a.getD l 0 / 2 ^ (8 * modBits f 16 2))
      roundTo fmtF32 md f.sat (fzoOf s) (u 0) (if k = 0xFF then .nan false else xscale v ((k : Int) - 127)))) ∧
    (let fm := narrowFmt (cur s).gfmt (modBit f 16)
     scaled true fm → Safety.gives s (.qscale f) f false .ne 0 (fun x _ _ => (blockScale fm (x.act.map (floatA s f x 1)), {}))) ∧
    ((t = 2 ∨ t = 3) → Safety.gives s (.pack f) f false md 2 (fun x l u =>
      let lo := roundTo (wideFmt t) md f.sat (fzoOf s) (u 0) (floatA s f x 1 l)
      let hi := roundTo (wideFmt t) md f.sat (fzoOf s) (u 1) (floatB s f x 1 l)
      (lo.1 + 2 ^ 16 * hi.1, fflagsOr lo.2 hi.2))) ∧
    (t ≠ 2 → t ≠ 3 → Safety.gives s (.pack f) f false .ne 0 (fun x l _ =>
      let st := if t = 12 then 8 else 9
      let lo := intRes t f.sat (intA f x st l)
      let hi := intRes t f.sat (intB f x st l)
      (lo.1 + 2 ^ 16 * hi.1, fflagsOr lo.2 hi.2))) ∧
    Safety.gives s (.unpack f) f false .ne 0 (fun x l _ =>
      let v := x.a.getD l 0 / 2 ^ (tyWidth t * modBits f 16 2) % 2 ^ tyWidth t
      if t = 2 || t = 3 then roundTo fmtF32 .ne false (fzoOf s) 0 (fmtRead (wideFmt t) (fziOf s) v) else (extendTy t v, {})) ∧
    -- ILL_FMT: an invalid descriptor of a `.n` side or of a narrow element, or a scaled form with another BSM
    let invalid : Nat → Prop := fun n => fmtValid (narrowFmt (cur s).gfmt (modBit f n)) = false
    let unscaled := (cur s).gfmt.extractLsb' 32 2 ≠ 1#2
    (∀ i ∈ [Instr.cvtif f, .cvtfi f, .cvtff f, .cvtn f, .cvtw f, .qscale f], ∀ e, curEnt s = some e → laneParts i ≠ none →
      heldOp s i = none → (match i with
       | .cvtif _ => t = 4 ∧ invalid 20
       | .cvtfi _ => st = 4 ∧ invalid 20
       | .cvtff _ => (st = 4 ∨ t = 4) ∧ invalid 20
       | .cvtn _ => (modBit f 18 = true ∧ unscaled) ∨ invalid 17
       | .cvtw _ => (modBit f 19 = true ∧ unscaled) ∨ invalid 18
       | _ => unscaled ∨ invalid 16) →
      (∀ x ∈ [f.srcA, f.srcB, f.srcC], srcBearing x = 0 ∧ (srcCode x < 0x90 ∨ 0x97 < srcCode x)) → f.dest.toNat < 0x90 →
      exec i s = .next (takeTrap s { cause := .illFmt, slot := s.slot }))

/-- 08, R209, R225-R228: the special functions issue with what they read and land later: the correctly rounded root and quotient, the
approximations' exact cases, every NaN, and the ends of their ranges. Each completes where 64 capturable instructions are not
outstanding (19, R358). -/
def Obligations.LaneSpecialFunctionsIssueAndLand : Prop :=
  (∀ (s : State) (f : LaneF) (s1 : State) (x : LaneIn), captureFull s1 = false →
    let issues : Instr → Prop := fun i => Safety.reads s i s1 x → Safety.completes i s (fun t =>
      t = laneNext (issue s1 { id := 0, g := s1.g.key, slot := s1.slot, tag := 0, pc := lanePc x.e, clause := x.e.id, setB := true
                               cls := .sfu, instr := i, mask := x.m, cmask := x.e.mask, vals := sfuVals i x, land := .lane f })
            x.e x.act.length)
    issues (.rcpa f) ∧ issues (.rsqrta f) ∧ issues (.exp2a f) ∧ issues (.log2a f) ∧ issues (.sinpa f) ∧ issues (.cospa f) ∧
    issues (.tanha f) ∧ issues (.sqrt f) ∧ issues (.fdiv f)) ∧
  -- the landing of such an operation: each acting lane's result, rounded under the mode it issued with
  (∀ (s : State) (o : Op) (op : BitVec 10) (f : LaneF), laneParts o.instr = some (op, f) → 0x070 ≤ op.toNat → op.toNat ≤ 0x078 →
    opOf s o.id = some o → o.returned = false → o.cls = .sfu → s.g.live = true → s.g.key = o.g → s.slot = o.slot →
    let md := if f.rnd = 0#3 then rmodeOf (o.gmode.extractLsb' 0 3) else rmodeOf f.rnd
    Safety.completes (.longLatencyComplete o.id) s (fun t => t = returnOp (landLanes s o.tag (lanesOf o.mask) f.dest.toNat
      (is64Ty f.ty.toNat) md (if op.toNat ≤ 0x076 then 0 else 1) (fun l u =>
        sfuResult o.gmode op.toNat f ((o.vals.getD 0 []).getD l 0) ((o.vals.getD 1 []).getD l 0) (u 0))) o.id)) ∧
  (∀ (gm : W32) (f : LaneF) (a b u : Nat),
    let t := f.ty.toNat
    let md := if f.rnd = 0#3 then rmodeOf (gm.extractLsb' 0 3) else rmodeOf f.rnd
    let v : Bool → Nat → XVal := fun n x => floatOf (gm.getLsbD 3) t n x
    let q := divOf (v (srcNeg f.srcA) a) (v (srcNeg f.srcB) b)
    let r := roundTo (wideFmt t) md f.sat (gm.getLsbD 4) u q.1
    sfuResult gm 0x077 f a b u = roundTo (wideFmt t) md f.sat (gm.getLsbD 4) u (sqrtOf (v (srcNeg f.srcA) a)) ∧
    sfuResult gm 0x078 f a b u = (r.1, { r.2 with dz := r.2.dz || q.2 })) ∧
  -- what a root and a quotient are, and that a NaN is signalling, or that NV or DZ is set, before rounding
  (∀ (sn tn n k st st' : Bool) (m m' : Nat) (e e' : Int) (y : XVal),
    sqrtOf (.nan sn) = .nan sn ∧ sqrtOf (.inf false) = .inf false ∧ sqrtOf (.inf true) = xinvalid ∧ sqrtOf (.fin n 0 e st) = .fin n 0 e st ∧
    (0 < m → sqrtOf (.fin true m e st) = xinvalid ∧ sqrtOf (.fin false m e st) = finSqrt m e) ∧
    divOf (.nan sn) (.nan tn) = (.nan (sn || tn), false) ∧ (xisNan y = false → divOf (.nan sn) y = (.nan sn, false) ∧
      divOf y (.nan sn) = (.nan sn, false)) ∧
    divOf (.inf n) (.inf k) = (xinvalid, false) ∧ divOf (.inf n) (.fin k m e st) = (.inf (n != k), false) ∧
    divOf (.fin k m e st) (.inf n) = (xzero (k != n), false) ∧ divOf (.fin n 0 e st) (.fin k 0 e' st') = (xinvalid, false) ∧
    (0 < m → divOf (.fin n m e st) (.fin k 0 e' st') = (.inf (n != k), true)) ∧
    (0 < m' → divOf (.fin n 0 e st) (.fin k m' e' st') = (xzero (n != k), false)) ∧
    (0 < m → 0 < m' → divOf (.fin n m e st) (.fin k m' e' st') = (finDiv n m e k m' e', false))) ∧
  -- every NaN gives the canonical one, a signalling one with NV
  (∀ op v : Nat, fmtDec fmtF32 v = .nan false → v < 2 ^ 32 → approxF32 op false false false v = (0x7FC00000, {})) ∧
  (∀ op v : Nat, fmtDec fmtF32 v = .nan true → v < 2 ^ 32 → approxF32 op false false false v = (0x7FC00000, { nv := true })) ∧
  -- a negative operand of the inverse root and of the logarithm
  (∀ op v : Nat, op = 0x071 ∨ op = 0x073 → 0x80000000 < v → v ≤ 0xFF800000 →
    approxF32 op false false false v = (0x7FC00000, { nv := true })) ∧
  -- powers of two and of four, integers, half-integers, and where an approximation is saturated
  (∀ (n : Bool) (k : Int), -126 ≤ k → k ≤ 126 → ∀ v < 2 ^ 32, (∃ m e st, fmtDec fmtF32 v = .fin n m e st ∧ xpow2 m e = some k) →
    approxF32 0x070 false false false v = (code32 (.fin n 1 (-k) false), {}) ∧
    (n = false → k % 2 = 0 → approxF32 0x071 false false false v = (code32 (.fin false 1 (-(k / 2)) false), {})) ∧
    (n = false → approxF32 0x073 false false false v = (code32 (xOfInt k), {}))) ∧
  (∀ (v : Nat) (n st : Bool) (m : Nat) (e : Int), v < 2 ^ 32 → 0 < m → fmtDec fmtF32 v = .fin n m e st →
    (n = false → magLt m e 128 0 = false → approxF32 0x072 false false false v = (0x7F800000, {})) ∧
    (n = true → magLt m e 150 0 = false → approxF32 0x072 false false false v = (0, {})) ∧
    (xint m e = true → (n = false → magLt m e 128 0 = true) → (n = true → magLt m e 150 0 = true) →
      let k : Int := fixed m e
      approxF32 0x072 false false false v = (code32 (.fin false 1 (if n then -k else k) false), {})) ∧
    (xint m e = true → approxF32 0x074 false false false v = (if n then 0x80000000 else 0, {}) ∧
      approxF32 0x075 false false false v = (if fixed m e % 2 = 1 then 0xBF800000 else 0x3F800000, {})) ∧
    (xint m e = false → xint (2 * m) e = true → approxF32 0x075 false false false v = (0, {}) ∧
      approxF32 0x074 false false false v = (if (fixed (2 * m) e / 2 % 2 = 1) ≠ (n = true) then 0xBF800000 else 0x3F800000, {})) ∧
    (magLt m e 1 (-12) = true → approxF32 0x076 false false false v = (code32 (.fin n m e false), {})) ∧
    (magLt m e 19 (-1) = false → approxF32 0x076 false false false v = (if n then 0xBF800000 else 0x3F800000, {}))) ∧
  (∀ n : Bool,
    let sg := if n then 0x80000000 else 0
    -- zeros: 1/±0, 1/√±0, 2^±0, log2 ±0, sin, cos, tanh
    approxF32 0x070 false false false sg = (sg + 0x7F800000, { dz := true }) ∧
    approxF32 0x071 false false false sg = (sg + 0x7F800000, { dz := true }) ∧
    approxF32 0x072 false false false sg = (0x3F800000, {}) ∧ approxF32 0x073 false false false sg = (0xFF800000, { dz := true }) ∧
    approxF32 0x074 false false false sg = (sg, {}) ∧ approxF32 0x075 false false false sg = (0x3F800000, {}) ∧
    approxF32 0x076 false false false sg = (sg, {}) ∧
    -- infinities
    approxF32 0x070 false false false (sg + 0x7F800000) = (sg, {}) ∧
    approxF32 0x071 false false false (sg + 0x7F800000) = (if n then (0x7FC00000, { nv := true }) else (0, {})) ∧
    approxF32 0x072 false false false (sg + 0x7F800000) = (if n then 0 else 0x7F800000, {}) ∧
    approxF32 0x073 false false false (sg + 0x7F800000) = (if n then (0x7FC00000, { nv := true }) else (0x7F800000, {})) ∧
    approxF32 0x075 false false false (sg + 0x7F800000) = (0x7FC00000, { nv := true }) ∧
    approxF32 0x074 false false false (sg + 0x7F800000) = (0x7FC00000, { nv := true }) ∧
    approxF32 0x076 false false false (sg + 0x7F800000) = (sg + 0x3F800000, {}))

/-- 05, R116-R120, R126-R127, R132, R136: the lane memory class, its sources read: addresses checked in lane order, waits, then one
operation of the lanes' accesses; a store and an atomic of the stash act at once. `s` is the state before the reads, `s1` the one after
them. An `ltkred` that has issued and waits needs no more room (19, R357; log 71). -/
def Obligations.LaneMemoryClassIssues : Prop :=
  ∀ (s : State) (f : LaneF) (s1 : State) (x : LaneIn),
    let size := tyWidth f.ty.toNat / 8
    let st := modBit f 17
    let at_ : Int → Nat → Nat × Except (Cause × Nat) Nat := fun d l =>
      (l, laneAddr f (modBits f 18 2) d st size (x.a.getD l 0) (x.b.getD l 0))
    let ready : OpCls → Bool → List LAcc → Prop := fun cls wr ps =>
      Safety.room s1 cls (lpaths ps) ∧ ∀ p ∈ stashOf size ps, Safety.stashFull s p.2.1 p.2.2 wr
    (Safety.reads s (.lld f) s1 x → ∀ ps, let as := x.act.map (at_ f.imm.toInt)
      Safety.unwatched s (named .read size as) → lanesLocate s1 size size .read as = .ok ps → ready .load false ps →
      let parts : List Part := ps.map (fun p =>
        let q : Part := { lane := p.lane, ga := p.ga, fa := p.fa, size := size, kind := p.kind }
        if p.kind = .stash then { q with st := .done, res := stashRead s1 s1.g.core p.fa size } else q)
      Safety.completes (.lld f) s (fun t => t = laneNext (if ps = [] then s1 else issue s1 { laneOpOf s1 (.lld f) x .load parts with
        land := .lane f, vals := addrVals st x }) x.e x.act.length)) ∧
    (Safety.reads s (.lst f) s1 x → ∀ ps, let as := x.act.map (at_ f.imm.toInt)
      Safety.unwatched s (named .write size as) → lanesLocate s1 size size .write as = .ok ps → ready .store true ps →
      (modBit f 20 = true → specOf s1 ≠ none ∧ specBad ps = none) →
      let parts : List Part := ps.map (fun p =>
        { lane := p.lane, ga := p.ga, fa := p.fa, size := size, kind := p.kind, wr := true
          data := x.c.getD p.lane 0 % 2 ^ (8 * size), st := if p.kind = .stash then .done else .todo
          spec := if modBit f 20 then specOf s1 else none })
      Safety.completes (.lst f) s (fun t => t = laneNext (if ps = [] then s1
        else issue (storeStash s1 parts) (laneOpOf s1 (.lst f) x .store parts)) x.e x.act.length)) ∧
    (Safety.reads s (.latom f) s1 x → ∀ ps,
      let as := x.act.map (fun l => (l, laneAddr f 0 0 st size (x.a.getD l 0) (x.b.getD l 0)))
      let op := latomOp f
      let v : Nat → Nat := fun l => x.c.getD l 0 % 2 ^ (8 * size)
      let c : Nat → Nat := fun l => regVal s1.g f.dest.toNat l (is64Ty f.ty.toNat)
      Safety.unwatched s (named .atomic size as) → lanesLocate s1 size size .atomic as = .ok ps → ready .atomic false ps →
      let r := atomStash s1 op (atomParts op size ps v c)
      Safety.completes (.latom f) s (fun t => ∃ vs,
        t = laneNext (if ps = [] then r.1 else issue r.1 { laneOpOf s1 (.latom f) x .atomic r.2 with
          land := .lane f, aop := some op, vals := [(List.range s1.g.width).map v, vs] }) x.e x.act.length)) ∧
    (Safety.reads s (.ltkld f) s1 x →
      let n := 4 * 2 ^ modBits f 18 3
      let cls := immBits f 0 2
      let as := x.act.map (fun l => (l, bitsOfInt 64 ((x.b.getD l 0 : Int) +
        (if modBit f 16 then intOf true 32 (x.a.getD l 0) else (x.a.getD l 0 % 2 ^ 32 : Nat)))))
      Safety.unwatched s (as.map (fun a => (a.1, .read, a.2, n))) → ticketFault n as = none →
      (as = [] → Safety.completes (.ltkld f) s (fun t => t = laneNext s1 x.e 0)) ∧
      (as ≠ [] → Safety.room s1 .tkld 8#4 → ticketWait s1 s1.g.pid (coreSlice s1.g.core) cls as.length = none →
        let r := allocLanes s1 (.ltkld f) n cls as
        let s2 := countTicket r.1 (.ltkld f) .tkld x.m
        Safety.completes (.ltkld f) s (fun t => t = laneNext { s2 with
          g := writeDest s2.g x.act f.dest.toNat false (byLane s2.g.width r.2) } x.e x.act.length))) ∧
    (Safety.reads s (.ltkred f) s1 x →
      let n := 4 * 2 ^ immBits f 0 3
      let ts := x.act.map (fun l => (l, BitVec.ofNat 32 (x.a.getD l 0)))
      let en : W32 → Ticket := fun t => entryOf s1 (tkSlice t) (tkEntry t)
      let cs := laneChecks s1 ts []
      ((ts.map Prod.snd).Nodup → cs = ts.map (fun t => (t.1, t.2, checkTicket s1 t.2))) ∧
      ((∀ c ∈ cs, sliceIsolated s1 (tkSlice c.2.1) = false ∧ c.2.2 ≠ .fetching ∧ isFaulted c.2.2 = false ∧ (modBit f 16 = true ∨ (c.2.2 ≠ .foreign ∧ c.2.2 ≠ .stale))) →
        (heldOp s (.ltkred f) ≠ none ∨ Safety.room s1 .tkred 8#4) →
        let good := cs.filter (fun c => c.2.2 = .ready)
        let s2 := good.foldl (fun u c => freeEntry u (entryOf u (tkSlice c.2.1) (tkEntry c.2.1))) s1
        Safety.completes (.ltkred f) s (fun t => t = laneNext (if cs = [] then s2
          else issue s2 { laneOpOf s1 (.ltkred f) x .tkred (good.map (fun c =>
              { lane := c.1, size := n, kind := .ticket (en c.2.1).slice (en c.2.1).idx, st := .done
                res := leNat ((en c.2.1).data.take n) })) with
            land := .lane f, begun := true, paths := 8#4
            vals := [(List.range s1.g.width).map (fun l => b2n (good.any (fun c => c.1 = l)))] }) x.e x.act.length)) ∧
      -- a lane whose entry is FETCHING: the instruction has issued with its operands, and waits
      (∀ c, cs.any (fun c => sliceIsolated s1 (tkSlice c.2.1)) = false → cs.find? (fun c => c.2.2 = .fetching) = some c → heldOp s (.ltkred f) = none → Safety.room s1 .tkred 8#4 →
        exec (.ltkred f) s = laneWait (hold s1 (.ltkred f) x [] 8#4) x.e (.fetching (en c.2.1).slice (en c.2.1).idx))) ∧
    (Safety.reads s (.lpref f) s1 x → Safety.completes (.lpref f) s (fun t => ∃ u, t = laneNext u x.e x.act.length ∧
      u.g = s1.g ∧ u.ops = s1.ops ∧ u.stash = s1.stash ∧ (x.act = [] → u = s1)))

/-- 10, R244-R256: the matrix class: the checks in their order, then one operation for the array, or for `tld` and `tst` the accesses
of their rows; and the order of the checks, each under its cause. That a drain into a tile has its rows checked as TILE_SHAPE is the
model's reading (log 40), and so is the source of a scale without MX32 (log 20). -/
def Obligations.MatrixClassChecksAndIssues : Prop :=
  ((∀ (s : State) (f : LaneF) (s1 : State) (x : LaneIn), captureFull s1 = false →
     let issued : Instr → MatUse → List (List Nat) → Prop := fun i u vals =>
       Safety.reads s i s1 x →
         (∀ c l, matCheck s1.g x.act u = some (c, l) → exec i s = .next (takeTrap s { cause := c, slot := s.slot, lane := l })) ∧
         (matCheck s1.g x.act u = none → Safety.completes i s (fun t =>
           t = laneNext (issue s1 { laneOpOf s1 i x .matrix [] with
             setB := true, vals := vals, tcs := s1.g.tc, land := .lane f }) x.e x.act.length))
     let one : (Tile → Bool) → (Tile → Bool) → MatUse := fun combo shape =>
       let t := tileNo s f 0
       { tiles := [t], accs := [], combo := combo t, shape := shape t, rows := t.rows, row0 := immBits f 4 5 }
     let both : Bool → MatUse := fun dist =>
       let a := tileNo s f 0
       let b := tileNo s f 4
       let mode := modBits f 16 2
       { tiles := [a, b], accs := [immBits f 8 3], combo := prodCombo a b mode dist
         shape := a.cols = b.cols && b.rows ≤ (if mode = 2 then 16 else 32), rows := Nat.min 32 a.rows, row0 := immBits f 11 5 }
     issued (.tzero f) (one (fun _ => true) (fun _ => true)) [] ∧
     issued (.tmovi f) (one (fun _ => true) (movShape f)) [x.a] ∧
     issued (.tmovo f) (one (fun _ => true) (movShape f)) [] ∧
     issued (.tsum f) (one (fun t => tileInt t = (f.ty = 8#5)) (fun _ => true)) [] ∧
     issued (.mma f) (both false) [] ∧ issued (.mdist f) (both true) [] ∧
     issued (.ald f) { tiles := [], accs := [immBits f 0 3], rows := if modBit f 16 && f.ty = 0#5 then 16 else 32
                       row0 := immBits f 3 5 } [x.a] ∧
     issued (.aclr f) { tiles := [], accs := [immBits f 0 3], row0 := immBits f 3 5 } [] ∧
     (x.act.length * Nat.min (modBits f 16 5 + 1) (immBits f 8 5 + 1) ≤ 256 →
       issued (.mtopk f) { tiles := [], accs := [immBits f 0 3], row0 := immBits f 3 5 } [x.a]) ∧
     (256 < x.act.length * Nat.min (modBits f 16 5 + 1) (immBits f 8 5 + 1) → Safety.reads s (.mtopk f) s1 x →
       matCheck s1.g x.act { tiles := [], accs := [immBits f 0 3], row0 := immBits f 3 5 } = none →
       exec (.mtopk f) s = .next (takeTrap s { cause := .qregBad, slot := s.slot })) ∧
     (let n := drainN f (tileNo s f 8)
      let u : MatUse :=
       { tiles := if modBit f 16 then [tileNo s f 8] else [], accs := [immBits f 0 3]
         narrow := if !modBit f 16 && f.ty = 4#5 then [narrowFmt (cur s).gfmt false] else []
         combo := !modBit f 16 || ((tileNo s f 8).ety != 0 && (tileNo s f 8).scm != 1)
         shape := !(modBit f 19 && 16 < drainN f (tileNo s f 8)) && (!modBit f 16 ||
           ((tileNo s f 8).cols ≤ 32 && x.act.all (fun l => l + immBits f 3 5 < (tileNo s f 8).rows)))
         row0 := immBits f 3 5 }
      (modBit f 18 = false → issued (.adrain f) u [x.b]) ∧
      (modBit f 18 = true → Safety.reads s (.adrain f) s1 x → matCheck s1.g x.act u = none → tableFault s1 n x = none →
       (∀ l ∈ x.act, Safety.stashFull s (x.a.getD l 0 % 2 ^ 32) (8 * n) false) →
       Safety.completes (.adrain f) s (fun t =>
         t = laneNext (issue s1 { laneOpOf s1 (.adrain f) x .matrix (tableParts s1 n x) with
           setB := true, vals := [x.a, x.b], tcs := s1.g.tc, land := .lane f }) x.e x.act.length)))) ∧
   (∀ (s : State) (f : LaneF) (s1 : State) (x : LaneIn) (wr : Bool) (ps : List Part),
     let i : Instr := if wr then .tst f else .tld f
     let t := tileNo s f 0
     let acc : Acc := if wr then .write else .read
     let cls : OpCls := if wr then .store else .load
     Safety.reads s i s1 x → matCheck s1.g x.act { tiles := [t], accs := [], rows := t.rows, row0 := immBits f 4 5 } = none →
     (t.scm = 1 ∨ f.srcC = 0#14) → Safety.unwatched s (rowsNamed f t acc x) → laneRows s1 f t wr x x.act = .ok ps →
     Safety.room s1 (if wr then .matrix else .load) (partPaths ps) → (∀ p ∈ ps, p.kind = .stash → Safety.stashFull s p.fa p.size wr) →
     Safety.completes i s (fun u => u = laneNext (if ps = [] then s1 else issue s1 { laneOpOf s1 i x cls (ps.map (fun p =>
         if p.kind = .stash && !wr then { p with st := .done, res := stashRead s1 s1.g.core p.fa p.size } else p)) with
       setB := true, tcs := s1.g.tc, land := .lane f, vals := moveVals f t x }) x.e x.act.length))) ∧
  (∀ (s : State) (f : LaneF) (s1 : State) (x : LaneIn) (wr : Bool) (n l a : Nat),
     let i : Instr := if wr then .tst f else .tld f
     Safety.reads s i s1 x → (cur s).exempt = false →
     watchFind s s.g.pid (rowsNamed f (tileNo s f 0) (if wr then .write else .read) x) = some (n, l, a) →
     exec i s = .next (takeTrap s { cause := .watch, slot := s.slot, addr := a, info := n, lane := some l })) ∧
  (∀ (g : Group) (act : List Nat) (u : MatUse),
     let placed := (∀ t ∈ u.tiles, tileReserved t = true ∨ t.base + tileExtent t ≤ 1024 * g.d.tile) ∧ (∀ a ∈ u.accs, a < g.d.accs)
     let valid := (∀ t ∈ u.tiles, t.ety = 4 → fmtValid t.fmt = true) ∧ (∀ f ∈ u.narrow, fmtValid f = true)
     let combo := (∀ t ∈ u.tiles, tileReserved t = false ∧ (t.scm = 1 → t.ety = 4)) ∧ u.combo = true
     let shape := (∀ t ∈ u.tiles, tileRB t ≤ 256) ∧ u.shape = true
     (¬placed → matCheck g act u = some (.tileNoalloc, none)) ∧
     (placed → ¬valid → matCheck g act u = some (.illFmt, none)) ∧
     (placed → valid → ¬combo → matCheck g act u = some (.matFmt, none)) ∧
     (placed → valid → combo → ¬shape → matCheck g act u = some (.tileShape, none)) ∧
     (placed → valid → combo → shape → (∀ l ∈ act, l + u.row0 < u.rows) → matCheck g act u = none))


/-- 07, R196-R197 and 08, R229-R235: publication, real neighbours, draws, sampling, predicates and the exchange between lanes. -/
def Obligations.LaneGroupClassResults : Prop :=
  ∀ (s : State) (f : LaneF),
    let t := f.ty.toNat
    let wide := is64Ty t
    let md := if modBits f 16 3 = 0 && t ≤ 1 then modeOf s f else .ne
    let reduced : LaneIn → List Nat → (Nat → Nat) → Nat × FFlags := fun x mine u =>
      if t ≤ 1 then groupFloat s f md (u 0) (mine.map (floatA s f x t))
      else let r := groupInt f (mine.map (fun j => x.a.getD j 0)); (extendTy t r.1, r.2)
    (s.g.isOpen = true → ∀ s1 x, Safety.reads s (.xpub f) s1 x →
      Safety.completes (.xpub f) s (fun u => u = laneNext (publishRegs s1 (pubList f x.act)) x.e x.act.length)) ∧
    Safety.gives s (.nbvalid f) f false .ne 0 (fun _ l _ =>
      let m := realMask s.g.d (laneCell s.g l)
      (if f.dest.toNat < 0x88 then m else m / 2 ^ modBits f 16 4 % 2, {})) ∧
    (∀ s1 x, Safety.reads s (.rng f) s1 x →
      Safety.completes (.rng f) s (fun u => u = laneOut { s1 with g := drawOne s1.g x.act } x f false (x.act.map (fun l =>
        let w := drawWord s1.g l
        (l, if f.ty = 1#5 then (roundTo fmtF32 .ne false false 0 (.fin false (w / 256) (-24) false)).1 else w))))) ∧
    (∀ s1 x, Safety.reads s (.rseed f) s1 x → Safety.completes (.rseed f) s (fun u => u = laneNext { s1 with g := { s1.g with
        seed := x.act.foldl (fun r l => r.set l (BitVec.ofNat 64 (x.b.getD l 0 % 2 ^ 32 * 2 ^ 32 + x.a.getD l 0 % 2 ^ 32))) s1.g.seed
        draw := x.act.foldl (fun r l => r.set l 0#64) s1.g.draw, rnd := x.act.foldl (fun r l => r.set l 0#64) s1.g.rnd } }
      x.e x.act.length)) ∧
    (∀ s1 x, Safety.reads s (.sample f) s1 x →
      let a : Nat → Nat := fun l => x.a.getD l 0 % 2 ^ 32
      let n : Nat → Nat := fun l => x.b.getD l 0 % 2 ^ 32
      (∀ l ∈ x.act, rowFault s1 (a l) (n l) = none) → (∀ l ∈ x.act, Safety.stashFull s (a l) (4 * n l) false) →
      (heldOp s (.sample f) ≠ none ∨ captureFull s = false) →
      let r := x.act.map (fun l => (l, sampleRow (rowOf s1 (a l) (n l)) (drawWord s1.g l)))
      let g1 := writeDest (drawOne s1.g x.act) x.act f.dest.toNat false (byLane s1.g.width r)
      let g2 := if modBits f 16 3 = 0 then g1 else r.foldl (fun g p => setK g (modBits f 16 3) p.1 (p.2 = 2 ^ 32 - 1)) g1
      Safety.completes (.sample f) s (fun u => u = laneNext { s1 with g := g2 } x.e x.act.length)) ∧
    Safety.gives s (.kop f) f false .ne 0 (fun x l _ =>
      (modBits f 16 4 / 2 ^ (2 * (x.a.getD l 0 % 2) + x.b.getD l 0 % 2) % 2, {})) ∧
    Safety.gives s (.shfl f) f wide .ne 0 (fun x l _ =>
      let c : Nat := x.b.getD l 0 % 2 ^ 32
      let m := modBits f 16 2
      let j : Int := if m = 0 then (c : Int) else if m = 1 then (l : Int) - (c : Int) else if m = 2 then (l : Int) + (c : Int)
        else ((l ^^^ c : Nat) : Int)
      (if 0 ≤ j && j < s.g.width && x.act.contains j.toNat then x.a.getD j.toNat 0 else x.c.getD l 0, {})) ∧
    Safety.gives s (.lbcast f) f wide .ne 0 (fun x l _ =>
      if modBit f 16 then
        (if x.act.contains (immBits f 0 5) then x.a.getD (immBits f 0 5) 0 else x.c.getD l 0, {})
      else (x.a.getD (x.act.headD 0) 0, {})) ∧
    Safety.gives s (.gred f) f wide md 1 (fun x _ u => reduced x x.act u) ∧
    Safety.gives s (.gscan f) f wide md 1 (fun x l u => reduced x (x.act.filter (fun j => if modBit f 19 then j < l else j ≤ l)) u)

/-! ## Events of the machine: clauses, accesses, queues, groups (01, 03-07, 09, 19) -/

/-- 07, R191-R193, R203: a group waiting to close its step closes it as one act, once the peers have been told (12, R263; log 48); a
closed group enters when its reader set has closed; values and announcements arrive, and a margin slot never goes back to an earlier
tag (log 78), and a slice forwards among its oldest 6,144 (log 77). An event whose condition fails changes nothing (log 13). -/
def Obligations.StepEventsCloseAndEnter : Prop :=
  (∀ (s : State) (k : GKey), atClose s k = false → exec (.stepClose k) s = .next s) ∧
  (∀ (s : State) (k : GKey) (g : Group), getG s k = some g → atClose s k = true →
    Safety.completes (.stepClose k) s (fun t => t = withFocus s k g.p1.occ finishStep)) ∧
  (∀ s : State, ((cur s).wait = some (.stepClose true) ∨ tellPeers s .step 5 = none) → finishStep s = closeStep s) ∧
  (∀ s u : State, (cur s).wait ≠ some (.stepClose true) → tellPeers s .step 5 = some u →
    finishStep s = setCur u { cur u with wait := some (.stepClose true) }) ∧
  (∀ s : State, let t := closeStep s
    s.g.live = true → t.g.isOpen = false ∧ t.g.step = s.g.step ∧ t.g.s = s.g.s ∧ t.g.v = s.g.v ∧ t.g.xw = s.g.xw ∧
      t.stash = s.stash ∧ t.g.p0 = s.g.p0 ∧ t.g.p1 = s.g.p1) ∧
  (∀ (s : State) (k : GKey) (g : Group), getG s k = some g →
    (g.isOpen = false → mayEnter s g = true → g.stop = .running → (pathOf g g.p1.occ).wait = some .stepEntry →
      Safety.completes (.stepEntry k) s (fun u => u = withFocus s k g.p1.occ (fun t => advance (enterStep t)))) ∧
    (g.isOpen = true ∨ mayEnter s g = false → exec (.stepEntry k) s = .next s)) ∧
  (∀ s : State, s.g.live = true →
    (enterStep s).g.step = s.g.step + 1 ∧ (enterStep s).g.isOpen = true ∧ (enterStep s).g.s = s.g.s ∧ (enterStep s).g.v = s.g.v) ∧
  (∀ (s : State) (n : Nat) (a : Ann), s.anns[n]? = some a →
    Safety.completes (.closeAnnouncement n) s (fun u => u = updG { s with anns := s.anns.eraseIdx n } a.dst (fun g =>
      { g with closedBy := assocSet g.closedBy a.src.gid (Nat.max a.step (assocD 0 g.closedBy a.src.gid)) }))) ∧
  (∀ (s : State) (n : Nat), s.anns.length ≤ n → exec (.closeAnnouncement n) s = .next s) ∧
  (∀ (s : State) (slice n : Nat) (m : MVal), let l := (s.margin.filter (fun m => m.slice = slice)).take 6144
    l[n]? = some m → (∀ x ∈ l.take n, x.launch ≠ m.launch ∨ x.parcel ≠ m.parcel) → replyAhead s slice m.core = false →
    let same : MVal → Prop := fun x => x.launch = m.launch ∧ x.parcel = m.parcel ∧ x.cell = m.cell ∧ x.reg = m.reg ∧ x.tag % 2 = m.tag % 2
    Safety.completes (.marginValueArrival slice n) s (fun u => u = { s with margin := s.margin.erase m, mbuf := u.mbuf } ∧
      ((∀ x ∈ s.mbuf, same x → noEarlier m.tag x.tag = true) → m ∈ u.mbuf ∧ ∀ x ∈ u.mbuf, same x → x = m) ∧
      ((∃ x ∈ s.mbuf, same x ∧ noEarlier m.tag x.tag = false) → u.mbuf = s.mbuf) ∧
      ∀ x, ¬same x → (x ∈ u.mbuf ↔ x ∈ s.mbuf))) ∧
  (∀ (s : State) (slice n : Nat), (s.margin.filter (fun m => m.slice = slice)).length ≤ n ∨ 6144 ≤ n →
    exec (.marginValueArrival slice n) s = .next s)

/-- 01, R25-R27: a clause at the head of a queue is decoded whole, or removed with its first failure; an eligible one that wins a free
pipe takes it; a special function or matrix operation lands. An event whose condition fails changes nothing (log 13). -/
def Obligations.ClauseEventsDecodeIssueAndComplete : Prop :=
  (∀ (s : State) (k : GKey) (slot : Bool) (g : Group), getG s k = some g → active g = true →
    Safety.completes (.clauseDecode k slot) s (fun u => u = withFocus s k slot decodeHead)) ∧
  (∀ (s : State) (e : CEnt) (r : List CEnt), (cur s).cq = e :: r → e.hdr = none → (cur s).occ = true →
    (∀ h l, decodeClause s s.g (cur s) e = .ok h l →
      let u := setCur s { cur s with cq := { e with hdr := some h, code := l } :: r }
      decodeHead s = clauseMisses u e (12 * l.length + 11)) ∧
    (∀ c a, decodeClause s s.g (cur s) e = .bad c a →
      decodeHead s = takeTrap (clauseMisses (setCur s { cur s with cq := r }) e (a - e.addr + 11)) { cause := c, slot := s.slot, addr := a }) ∧
    (∀ c stg a, decodeClause s s.g (cur s) e = .fault (c, stg) a →
      decodeHead s = takeTrap s { cause := c, stg := stg, acc := .fetch, slot := s.slot, addr := a }) ∧
    -- the misses of its fetch change counters and translations held, nothing else
    ∀ (u : State) (n : Nat), let t := clauseMisses u e n
      t.g = u.g ∧ t.others = u.others ∧ t.ops = u.ops ∧ t.mem = u.mem ∧ t.unpub = u.unpub ∧ t.stash = u.stash ∧
      t.slot = u.slot ∧ t.clauses = u.clauses ∧ t.nextId = u.nextId) ∧
  (∀ (s : State) (k : GKey) (slot : Bool) (pipe : Nat) (g : Group), getG s k = some g →
    (active g = true → (pathOf g slot).occ = true → pipe < Config.pipes → pipeBusy s g.core pipe = false → sliceHold s g = false →
      Safety.completes (.clauseIssue k slot pipe) s (fun u => u = withFocus s k slot (fun t => issueHead t pipe))) ∧
    (Config.pipes ≤ pipe ∨ pipeBusy s g.core pipe = true ∨ sliceHold s g = true → exec (.clauseIssue k slot pipe) s = .next s)) ∧
  (∀ (s : State) (e : CEnt) (r : List CEnt) (h : Hdr) (pipe : Nat), (cur s).cq = e :: r → e.hdr = some h → e.running = false →
    notEligible s s.g s.slot e = none →
    ((winner s s.g.core pipe).map (fun w => (w.key, w.slot)) = some (s.g.key, s.slot) →
      issueHead s pipe = startClause (countPassed s s.g.core pipe s.g.d.prio) pipe e h) ∧
    (winner s s.g.core pipe = none → issueHead s pipe = s)) ∧
  (∀ (s : State) (o : Op), opOf s o.id = some o → o.returned = false →
    (o.cls = .sfu → Safety.completes (.longLatencyComplete o.id) s (fun u =>
      u = returnOp (withFocus s o.g o.slot (fun t => landSfu t o)) o.id)) ∧
    (o.cls = .matrix → matTurn s o = true → (∀ p ∈ o.parts, p.st = .done) → s.g.live = true → s.g.key = o.g → s.slot = o.slot → ∀ t, doMatrix s o = some t →
      t.g.live = true → t.g.key = o.g → t.slot = o.slot →
      Safety.completes (.longLatencyComplete o.id) s (fun u => u = returnOp t o.id)) ∧
    (o.cls = .matrix → (matTurn s o = false ∨ ∃ p ∈ o.parts, p.st ≠ .done) → exec (.longLatencyComplete o.id) s = .next s))

/-- 04, R89-R94, R102, 05, R108, 12, R262, R268, 19, R432 and 22, R415: an access reaches its target, is held or retried there, and
returns, behind the replies that its slice sent its core before; an isolated slice holds its requests and a pseudo-channel under test
its fills; a peer's or a host's access arrives when its line is ready (log 85); the value of a load comes into its register extended.
An event whose condition fails changes nothing (log 13). -/
def Obligations.AccessEventsPerformAndReturn : Prop :=
  (∀ (s : State) (o : Op) (j : Nat) (q p : Part), opOf s o.id = some o → o.cls ≠ .rsta → o.parts[j]? = some q → q.st = .todo →
    earlierTodo s o j q = false → readyPart s o q = some p →
    (∀ sl, p.kind = .dev sl → Safety.completes (.sliceAccess o.id j) s (fun t => t = sliceDev s o j p sl)) ∧
    (∀ sl, p.kind = .host sl → sliceIsolated s sl = false →
      Safety.completes (.sliceAccess o.id j) s (fun t => t = sliceHost s o j p)) ∧
    (∀ sl, (p.kind = .host sl ∨ p.kind = .dev sl) → sliceIsolated s sl = true → exec (.sliceAccess o.id j) s = .next s) ∧
    (∀ n, p.kind = .peer n → Safety.completes (.sliceAccess o.id j) s (fun t => t = sendPart s o j p n)) ∧
    (p.kind = .stash → Safety.completes (.sliceAccess o.id j) s (fun t => t = sliceStash s o j p)) ∧
    (∀ a b, p.kind = .ticket a b → Safety.completes (.sliceAccess o.id j) s (fun t => t = sliceRedeem s o j p))) ∧
  -- at its home slice: a hit is performed, a miss starts a fill and waits for it, a request behind a fill waits
  (∀ (s : State) (o : Op) (j : Nat) (p : Part) (sl : Nat) (l : Line), sliceIsolated s sl = false →
    pinnedAgainst s o.core p.fa p.size = false → isDoor s p.fa p.size = false → copyPending s p.fa p.size = false → o.aop = none →
    p.spec = none → lineOf s sl p.fa = some l →
    let w := wordBits p.fa p.size
    (l.fill = true → sliceDev s o j p sl =
      putPart (setLine s { l with held := l.held ++ [(o.id, j)] }) o j { p with st := .held }) ∧
    (l.fill = false → p.wr = false → l.valid &&& w = w →
      sliceDev s o j p sl = sampleDone (performDev (touchLine s l) o j p l.slice) o.id j) ∧
    (l.fill = false → p.wr = true → wholeWords p.fa p.size = true → sliceDev s o j p sl =
      sampleDone (performDev (touchLine s { l with valid := l.valid ||| w, dirty := l.dirty ||| w }) o j p l.slice) o.id j) ∧
    (l.fill = false → l.valid &&& w ≠ w → (p.wr = false ∨ wholeWords p.fa p.size = false) → sliceDev s o j p sl =
      putPart (countMiss (touchLine s { l with fill := true, held := l.held ++ [(o.id, j)] }) o) o j
        { p with st := .held, missed := true })) ∧
  (∀ (s : State) (slice addr : Nat) (l : Line), lineOf s slice addr = some l →
    (l.fill = true → chanTesting s addr = false → Safety.completes (.mergingFillLands slice addr) s (fun t =>
      t = performHeld (landLine s l) slice addr l.held)) ∧
    (l.fill = false ∨ chanTesting s addr = true → exec (.mergingFillLands slice addr) s = .next s)) ∧
  (∀ (s : State) (ok : Bool) (v : Nat),
    Safety.completes (.hostWindowPass none ok v) s (fun t => t = { s with hostOut := s.hostOut.drop 1 })) ∧
  (∀ (s : State) (o : Op) (j sl : Nat) (p : Part) (ok : Bool) (v : Nat), opOf s o.id = some o → o.parts[j]? = some p →
    p.kind = .host sl → p.wr = false → sliceIsolated s sl = false →
    (p.st = .todo → o.cls ≠ .rsta → earlierTodo s o j p = false → readyPart s o p = some p →
      let m := heldMask s o.core (hostKey o.pid p.fa) p.size
      Safety.completes (.sliceAccess o.id j) s (fun t => t = (if m = 2 ^ p.size - 1
        then sampleDone (putPart s o j { p with st := .done, res := heldBytes s o.core (hostKey o.pid p.fa) p.size, onSlice := true }) o.id j
        else putPart s o j { p with st := .held, data := heldBytes s o.core (hostKey o.pid p.fa) p.size, cmp := m }))) ∧
    (p.st = .held → Safety.completes (.hostWindowPass (some (o.id, j)) ok v) s (fun t => t = sampleDone (putPart s o j
      (if ok then { p with st := .done, res := hostMerge p.cmp p.data v p.size }
       else { p with st := .done, err := some (.busErr, p.ga) })) o.id j))) ∧
  (∀ (s : State) (core : Nat) (words : List Nat), let hit : Nat → Bool := fun a => words.contains (a / 4 * 4)
    Safety.completes (.forcedPublication core words) s (fun t =>
      t = tickP (publishOver s 5 (fun n => n.core = core && hit n.addr) (fun u => u.core = core && hit u.addr)))) ∧
  (∀ (s : State) (o : Op) (j sl : Nat) (p : Part), opOf s o.id = some o → o.parts[j]? = some p → p.kind = .dev sl → p.st = .todo →
    (pinnedAgainst s o.core p.fa p.size = true → Safety.completes (.scopeRetry o.id j) s (fun t =>
      t = { s with retries := assocSet s.retries sl (assocD 0 s.retries sl + 1) })) ∧
    (pinnedAgainst s o.core p.fa p.size = false → exec (.scopeRetry o.id j) s = .next s)) ∧
  (∀ (s : State) (o : Op) (p : Part) (r : BitVec 6) (n : Nat) (sg : Bool), opOf s o.id = some o → o.returned = false →
    (o.cls = .load ∨ o.cls = .atomic) → o.parts = [p] → p.st = .done → p.err = none → o.land = .sreg r n sg →
    replyBehind s o = false → s.g.live = true → s.g.key = o.g → s.slot = o.slot →
    Safety.completes (.accessReturn o.id) s (fun t => t = returnOp (ws s r (extend64 n sg p.res)) o.id)) ∧
  (∀ (s : State) (o : Op), opOf s o.id = some o →
    (replyBehind s o = true ∨ (o.cls ≠ .halo ∧ o.returned = true) ∨ ∃ p ∈ o.parts, p.st ≠ .done) →
    exec (.accessReturn o.id) s = .next s) ∧
  (∀ (s : State) (o : Op) (j : Nat) (p : Part) (c : Cause), opOf s o.id = some o → o.parts[j]? = some p →
    let p' : Part := { p with st := .done, err := some (c, p.ga) }
    let o' : Op := { o with parts := o.parts.set j p' }
    let s1 := sampleDone (putPart s o j p') o.id j
    ((o.returned = true ∨ p.st = .done ∨ targetOf p = none) → exec (.lateFaultArrival o.id j c) s = .next s) ∧
    (o.returned = false → p.st = .todo → targetOf p ≠ none → o.cls ≠ .rsta →
      ((∃ q ∈ o'.parts, q.st ≠ .done) → Safety.completes (.lateFaultArrival o.id j c) s (fun t => t = s1)) ∧
      (∀ g l e a, (∀ q ∈ o'.parts, q.st = .done) → o.cls = .load ∨ o.cls = .store ∨ o.cls = .atomic → getG s1 o.g = some g →
        firstErr o' = some (l, e, a) →
        Safety.completes (.lateFaultArrival o.id j c) s (fun t => t = lateFault s1 o' l e a))))

/-- 04, R90 and 12, R262-R263: a load performed at device memory takes the bytes that its core sees; an ordinary store changes, for its
own core, exactly the bytes it stores, and nothing for any other core; where its line has no second way to keep them apart they are
published at once, and every core sees them. That a load takes the newest byte that its core may see is the model's choice among those
of 12, R264 (log 5). -/
def Obligations.DeviceAccessesReadAndStoreTheirBytes : Prop :=
  ∀ (s : State) (o : Op) (j sl : Nat) (p : Part), opOf s o.id = some o → j < o.parts.length → o.aop = none → p.spec = none →
    let new : Nat → Byte := fun a => BitVec.ofNat 8 (p.data / 256 ^ (a - p.fa))
    (p.wr = false → poisoned s p.fa p.size = none →
      performDev s o j p sl = putPart s o j { p with st := .done, res := leNat (viewBytes s o.core p.fa p.size) }) ∧
    (p.wr = true → (∀ l, lineOf s sl p.fa = some l → hasUnpub s l.addr = true) →
      let t := performDev s o j p sl
      t.mem = s.mem ∧ t.narrow = s.narrow ∧ t.stash = s.stash ∧ t.g = s.g ∧
      (∀ a, p.fa ≤ a → a < p.fa + p.size → viewByte t o.core a = new a) ∧
      (∀ a, (a < p.fa ∨ p.fa + p.size ≤ a) → viewByte t o.core a = viewByte s o.core a) ∧
      (∀ c a, c ≠ o.core → viewByte t c a = viewByte s c a)) ∧
    (p.wr = true → ∀ u, secondWay s sl p.fa o.pid = (u, true) →
      performDev s o j p sl = putPart (acceptStore u o.core p.fa o.g (leBytes p.size p.data)) o j { p with st := .done }) ∧
    (p.wr = true → Memory.wf s.mem = true → ∀ u, secondWay s sl p.fa o.pid = (u, false) →
      let t := performDev s o j p sl
      u = s ∧ t.stash = s.stash ∧ t.g = s.g ∧ ∀ c a, p.fa ≤ a → a < p.fa + p.size → viewByte t c a = new a)

/-- 12, R261, R263, R265: a publication at fabric scope makes a group's stored bytes the memory's: every core sees them afterwards, but
for the bytes a core has stored itself. Memory is in its canonical form. -/
def Obligations.PublishedStoresAreSeenByEveryCore : Prop :=
  ∀ (s : State) (core c a : Nat) (g : GKey) (u : Unpub), Memory.wf s.mem = true →
    s.unpub.find? (fun u => u.core = core && u.addr = a) = some u → u.writers.contains g = true →
    (∀ x ∈ s.unpub, x.addr = a → x = u) → (∀ n ∈ s.narrow, n.addr ≠ a) →
    let t := publishGroup s core g 5
    -- a newer store to a word whose older store the publication widens is published with it
    let newer : Unpub → Bool := newerThan s 5 (fun n => n.core = core && (s.strict || n.writers.contains g))
    viewByte t c a = u.val ∧ t.unpub = s.unpub.filter (fun x => !(x.core = core && x.writers.contains g || newer x)) ∧ t.g = s.g ∧
    t.pOrder = s.pOrder + 1

/-- 05, R129-R130, R143-R149, 21, R405: what the slices do by themselves for tickets, queues and messages. A faulted entry names no group, for a
re-fetch that fails lets its redeems fault (log 76); which quad a handler group takes (log 23) and the number that tells two of one
name apart (log 47) are the model's. An event whose condition fails changes nothing (log 13). -/
def Obligations.QueueAndTicketEventsGoOn : Prop :=
  (∀ (s : State) (slice idx : Nat) (o : Op), fetchOp s slice idx = some o →
    let e := entryOf s slice idx
    let s1 : State := { s with ops := s.ops.filter (fun q => q.id != o.id) }
    let lease := if e.cls = 0 then some (s.time + 16000) else if e.cls = 1 then some (s.time + 256000)
      else if e.cls = 2 then some (s.time + 4000000) else none
    ((∃ p ∈ o.parts, p.st ≠ .done) → exec (.ticketFetchLands slice idx) s = .next s) ∧
    ((∀ p ∈ o.parts, p.st = .done) →
      (e.st = .fetching → (∀ p ∈ o.parts, p.err = none) → Safety.completes (.ticketFetchLands slice idx) s (fun t =>
        t = setEntry s1 { e with
          st := .filled, deadline := lease, data := (o.parts.map (fun p => leBytes p.size p.res)).flatten })) ∧
      (e.st = .fetching → ∀ p, o.parts.find? (fun p => p.err.isSome) = some p →
        Safety.completes (.ticketFetchLands slice idx) s (fun t => t = setEntry s1 { e with
          st := .faulted, fault := p.err, stg := p.stg, deadline := lease, fgroup := none, data := [] })) ∧
      (e.st = .draining → Safety.completes (.ticketFetchLands slice idx) s (fun t => t = freeEntry s1 e)))) ∧
  (∀ (s : State) (slice idx d : Nat), let e := entryOf s slice idx
    (e.st = .filled ∨ e.st = .faulted) → e.deadline = some d →
    (s.time < d → exec (.ticketLeaseExpiry slice idx) s = .next s) ∧
    (d ≤ s.time → logOf s (jobOf s e.g.launch) = none → Safety.completes (.ticketLeaseExpiry slice idx) s (fun t =>
      t.tickets = (setEntry s { slice := e.slice, idx := e.idx, gen := (e.gen + 1) % 128 }).tickets ∧
      t.reclaimed = assocSet s.reclaimed slice (assocD 0 s.reclaimed slice + 1) ∧ t.g = s.g ∧ t.others = s.others ∧ t.mem = s.mem))) ∧
  (∀ (s : State) (k : GKey) (n : Nat) (g : Group), getG s k = some g →
    (active g = true → 4 ≤ n → n < 8 → 0 < shortfall g n → Safety.completes (.popBufferFill k n) s (fun t => t = fillOne s g n)) ∧
    (active g = false ∨ shortfall g n = 0 → exec (.popBufferFill k n) s = .next s) ∧
    (4 ≤ n → n < 8 → g.stop ≠ .ended → Safety.completes (.pushBufferDrain k n) s (fun t => t = drainOne s g n)) ∧
    (g.stop = .ended → exec (.pushBufferDrain k n) s = .next s)) ∧
  (∀ (s s1 : State) (g : Group) (n v : Nat) (b : QBind) (q : QCtx), bindOf g n = some b → ctxOf s b.desc = some q →
    (slicePop s q g (popLane g n b.popb.length).1 (popLane g n b.popb.length).2 = .ok (s1, v) → fillOne s g n = updG s1 g.key (fun h => match bindOf h n with
      | some c => setBind h n (some { c with popb := c.popb ++ [v] })
      | none => h)) ∧
    (∀ r, b.pushb = v :: r → slicePush s q g g.p1.occ v = .ok s1 →
      drainOne s g n = updG s1 g.key (fun h => setBind h n (some { b with pushb := r })))) ∧
  (∀ (s : State) (desc : Nat) (q : QCtx) (w : QWait) (g : Group), ctxOf s desc = some q → popFirst s q = some w →
    getG s w.g = some g →
    (ctxCount q = 0 → exec (.queueElementAccess desc) s = .next s) ∧
    (ctxCount q ≠ 0 → active g = true → ∀ sl n, popSlot g desc = some (sl, n) →
      Safety.completes (.queueElementAccess desc) s (fun t => t = withFocus s w.g sl finishPop))) ∧
  -- the group that began to wait first, where no log is replayed (21, R405)
  (∀ (s : State) (q : QCtx), (∀ l ∈ s.svc.logs, logMode l ≠ 2) → popFirst s q = q.waiters.find? (fun w => w.n = 0)) ∧
  (∀ (s : State) (n : Nat) (m : Msg) (p : Parcel), s.msgs[n]? = some m → parcelOf s m.p = some p → m.queued = false → m.reply = none →
    (32 ≤ (queuedFor s p.core).length → exec (.amsgEnqueue n) s = .next s) ∧
    ((queuedFor s p.core).length < 32 → (∀ x ∈ s.msgs.take n, x.queued = true ∨ x.p ≠ m.p ∨ x.g ≠ m.g) →
      Safety.completes (.amsgEnqueue n) s (fun t => t = { s with msgs := s.msgs.eraseIdx n ++ [{ m with queued := true }] }))) ∧
  (∀ (s : State) (k : PKey) (p : Parcel) (l : Launch) (m : Msg) (entry w : Nat), parcelOf s k = some p → launchOf s k.launch = some l →
    (queuedFor s p.core).head? = some m → m.p = p.key → cutPending s l = false → l.st = .placed → handlerEntry s p l.d m.h = some (entry, w) →
    let qs := (freeQuads s p l.d.hq).take (w / 4)
    let room : State → Bool := fun u => slotsFit u p.core (4 * qs.length)
    (coreRuns s p.pid p.core = false ∨ qs.length < w / 4 ∨ (room s = false ∧ room (makeRoom s p.core) = false) →
      exec (.handlerSpawn k) s = .next s) ∧
    (coreRuns s p.pid p.core = true → w / 4 ≤ qs.length → room s = true → Safety.completes (.handlerSpawn k) s (fun t =>
      t.others = s.others ++ [handlerGroup s p l.d m entry w qs] ∧ t.msgs = s.msgs.erase m ∧ t.g = s.g ∧ t.mem = s.mem)) ∧
    (coreRuns s p.pid p.core = true → w / 4 ≤ qs.length → room s = false → room (makeRoom s p.core) = true →
      Safety.completes (.handlerSpawn k) s (fun t =>
        t.others = (makeRoom s p.core).others ++ [handlerGroup s p l.d m entry w qs] ∧ t.g = (makeRoom s p.core).g)))

/-- 03, R71-R72, 07, R198-R200, 09, R237-R238 and 19, R357: slots refilled and rotated, groups ended, evicted, admitted, stopped. An event
whose condition fails changes nothing (log 13). -/
def Obligations.GroupEventsMoveGroups : Prop :=
  (∀ (s : State) (k : GKey) (g : Group), getG s k = some g →
    (active g = true → Safety.completes (.slotRefill k) s (fun t => t = withFocus s k s.slot refill)) ∧
    (active g = false → exec (.slotRefill k) s = .next s)) ∧
  (∀ s : State, let n := s.g.spillCnt
    (n = 0 → refill s = s) ∧ (n ≠ 0 → s.g.p0.occ = false → refill s = restoreInto s false (n - 1)) ∧
    (n ≠ 0 → s.g.p0.occ = true → s.g.p1.occ = false → refill s = restoreInto s true (n - 1))) ∧
  (∀ (s : State) (k : GKey) (slot : Bool) (g : Group), getG s k = some g → active g = true →
    ((pathOf g slot).rot < 64 → exec (.pathRotation k slot) s = .next s) ∧
    (64 ≤ (pathOf g slot).rot → (pathOf g slot).occ = true → (pathOf g slot).cq = [] → ∀ i, oldestReady s g = some i →
      Safety.completes (.pathRotation k slot) s (fun t => t = withFocus s k slot (fun t => swapPath t slot i)))) ∧
  (∀ (s : State) (k : GKey) (slot : Bool) (g : Group), getG s k = some g →
    (mayEnd s g slot = false → exec (.groupEnd k slot) s = .next s) ∧
    (∀ u, mayEnd s g slot = true → releaseBinds s g = .error (.held u) → exec (.groupEnd k slot) s = .next u) ∧
    (mayEnd s g slot = true → releaseBinds s g = .error .prot →
      exec (.groupEnd k slot) s = .next (withFocus s k slot (fun t => takeTrap t { cause := .prot, slot := slot }))) ∧
    (∀ u, mayEnd s g slot = true → releaseBinds s g = .ok u → g.handler = none → Safety.completes (.groupEnd k slot) s (fun t =>
      t = updG u k (fun h => { h with
        stop := .ended, resident := false, qb := List.replicate 4 none, spw := none, ranAt := s.time
        p0 := { h.p0 with occ := false, mask := 0#32 }, p1 := { h.p1 with occ := false, mask := 0#32 } }))) ∧
    (∀ u, mayEnd s g slot = true → releaseBinds s g = .ok u → g.handler ≠ none →
      Safety.completes (.groupEnd k slot) s (fun t => t = dropGroup u k))) ∧
  (∀ (s : State) (k : PKey) (p : Parcel), parcelOf s k = some p →
    (∀ t g, entrantIn s p = some (t, g) → Safety.completes (.entrantAdmission k) s (fun u => u = enterCore t g.key)) ∧
    (entrantIn s p = none → exec (.entrantAdmission k) s = .next s)) ∧
  (∀ (s : State) (p : Parcel), handlerBack s p = none →
    (∀ g, entrantOf s p = some g → entrantIn s p = some (s, g)) ∧
    (entrantOf s p = none → (∀ g ∈ groups s, g.inPlace = false ∨ g.core ≠ p.core) → entrantIn s p = none)) ∧
  (∀ (s : State) (k : PKey) (p : Parcel) (l : Launch), parcelOf s k = some p → launchOf s k.launch = some l →
    (l.pinned = true ∨ needsRoom s p = false ∨ evicting s k = true → exec (.eviction k) s = .next s) ∧
    (l.pinned = false → needsRoom s p = true → evicting s k = false → ∀ v, bestOf (blockedBefore s.time) ((parcelMembers s k).filter (evictable s)) = some v →
      let s1 := endYields (evictGroup s v) k
      Safety.completes (.eviction k) s (fun t => t = match entrantOf s1 p with
        | some g => if allowance s p < residentQuads s k then s1 else enterCore s1 g.key
        | none => s1))) ∧
  (∀ (s : State) (k : GKey) (g : Group), getG s k = some g →
    (∀ f, g.stop = .stopping f → Safety.completes (.preciseStop k) s (fun t => t = withFocus s k s.slot tryLand)) ∧
    (g.stop = .running → exec (.preciseStop k) s = .next s)) ∧
  (∀ s : State, (canLand s = false → tryLand s = s) ∧ (canLand s = true → tryLand s = landStop s))

/-- 06, R159, R165, R168-R169, R177: the streamer's commands start, their sectors land or fault, maps change, a multicast starts.
Which prefix DONE reports of a multicast that a fault ends is the model's choice (log 87). An event whose condition fails changes nothing
(log 13). -/
def Obligations.StreamerEventsRunCommands : Prop :=
  (∀ (s : State) (k : PKey) (p : Parcel) (c : Cmd) (r : List Cmd), parcelOf s k = some p → p.cmds = c :: r → coreRuns s p.pid p.core = true →
    (cmdMAP c = false → cmdKind c ≠ 6 → Safety.completes (.streamerCommandStart k) s (fun t => t = setParcel s { p with
      cmds := r, started := p.started ++ [⟨c, [], 0, none⟩] })) ∧
    (cmdMAP c = true ∨ cmdKind c = 6 → exec (.streamerCommandStart k) s = .next s) ∧
    (cmdMAP c = true → p.started = [] → Safety.completes (.mapOperation k) s (fun t => t = startMap s p c)) ∧
    ((∀ x ∈ p.started, cmdMAP x.cmd = false) → cmdMAP c = false ∨ p.started ≠ [] → exec (.mapOperation k) s = .next s) ∧
    (cmdKind c = 6 → cmdMAP c = false →
      (castOk s p c = false → Safety.completes (.mcastStart k) s (fun t =>
        t = endFault (setParcel s { p with cmds := r }) { p with cmds := r } c [] 0 .qBaddesc)) ∧
      (castOk s p c = true →
        ((∃ n ∈ receivers c, ∀ q, parcelOf s ⟨k.launch, n⟩ = some q → q.bfree.getLsbD (cmdArg c 32 4) = false) →
          exec (.mcastStart k) s = .next s) ∧
        (∀ q, (∀ n ∈ receivers c, ∃ q, parcelOf s ⟨k.launch, n⟩ = some q ∧ q.bfree.getLsbD (cmdArg c 32 4) = true) →
          parcelOf (castBegin s p c) k = some q → Safety.completes (.mcastStart k) s (fun t => t = setParcel (castBegin s p c) { q with
            cmds := q.cmds.drop 1, started := q.started ++ [⟨c, [], 0, none⟩] }))))) ∧
  -- a map operation starts or goes on; it completes at once where its entry is free and its range overlaps no other
  (∀ (s : State) (k : PKey) (p : Parcel) (x : Started), parcelOf s k = some p → coreRuns s p.pid p.core = true →
    p.started.find? (fun x => cmdMAP x.cmd) = some x →
    (x.paused = none → Safety.completes (.mapOperation k) s (fun t => t = carryMap s p x)) ∧
    (x.paused ≠ none → exec (.mapOperation k) s = .next s)) ∧
  (∀ (s : State) (p : Parcel) (c : Cmd), let p1 : Parcel := { p with cmds := p.cmds.drop 1, started := p.started ++ [⟨c, [], 0, none⟩] }
    ((mapOp c = 0 ∧ ∃ i < 16, i ≠ mapEntry c ∧ ∃ e, p.maps.getD i none = some e ∧ overlaps e (newEntry c) = true) →
      startMap s p c = endFault (setParcel s p1) p1 c [] 0 .qBaddesc) ∧
    ((mapOp c ≠ 0 ∨ ∀ i < 16, i ≠ mapEntry c → ∀ e, p.maps.getD i none = some e → overlaps e (newEntry c) = false) →
      p.maps.getD (mapEntry c) none = none → startMap s p c = finishMap (setParcel s p1) p.key c)) ∧
  (∀ (s : State) (k : PKey) (seq i : Nat) (p : Parcel) (x : Started), parcelOf s k = some p → startedOf p seq = some x →
    (x.landed.contains i = true ∨ landings x.cmd ≤ i ∨ cmdMAP x.cmd = true → exec (.sectorLands k seq i) s = .next s ∧
      ∀ c, exec (.streamerFault k seq i c) s = .next s) ∧
    (i < landings x.cmd → x.landed.contains i = false → x.paused = none → cmdMAP x.cmd = false →
      (coreRuns s p.pid p.core = true → Safety.completes (.sectorLands k seq i) s (fun t => t = advanceSector s p x i)) ∧
      (∀ c, Safety.completes (.streamerFault k seq i c) s (fun t => ∃ a, t = sectorFault s p x i c a)))) ∧
  (∀ (s : State) (p : Parcel) (x : Started) (i : Nat) (o : Op),
    (engineOf s ⟨p.key.launch, p.prodGid⟩ [p.key.idx, x.cmd.seq, i, 1] = some o → (∀ q ∈ o.parts, q.st = .done ∧ q.err = none) →
      replyBehind s o = false → advanceSector s p x i = sectorDone (dropOp s o.id) p x i) ∧
    (engineOf s ⟨p.key.launch, p.prodGid⟩ [p.key.idx, x.cmd.seq, i, 1] = none →
      engineOf s ⟨p.key.launch, p.prodGid⟩ [p.key.idx, x.cmd.seq, i, 0] = some o → (∀ q ∈ o.parts, q.st = .done ∧ q.err = none) →
      replyBehind s o = false → advanceSector s p x i = writeSector (dropOp s o.id) p x i (sectorData x.cmd i o.parts))) ∧
  (∀ (s : State) (k : PKey) (line : Nat) (p : Parcel), parcelOf s k = some p →
    (p.mfill.contains line = false → exec (.mappedFillLands k line) s = .next s) ∧
    (∀ o, p.mfill.contains line = true → fillOp s k line = some o →
      ((∃ q ∈ o.parts, q.st ≠ .done) ∨ replyBehind s o = true → exec (.mappedFillLands k line) s = .next s) ∧
      ((∀ q ∈ o.parts, q.st = .done) → replyBehind s o = false →
        Safety.completes (.mappedFillLands k line) s (fun t => t = landFill (dropOp s o.id) p line o.g o.parts))))

/-! ## Routers, work, checkpoints, the mailbox, the host and the unit (14, 17, 19-26) -/

/-- 14, R284-R303: hops with their checks and choices, suspects and the compass token, links that fail, packets applied in order, reset
notices. How many packets a failed port gives back is free (log 9); a load takes the newest byte (log 5); a token that crosses a
package goes on (log 49); a request that a pinned line keeps back stays at its slice (log 48); a port takes traffic while one of its
lanes does (22, R415; log 101). An event whose condition fails changes nothing (log 13). -/
def Obligations.RouterEventsMovePackets : Prop :=
  (∀ (s0 : State) (src : HopSrc) (dst : HopDst) (k : Packet), let s := if src = .own then releaseSteps s0 else s0
    hopPacket s src = some k →
    let hops : State → Prop := fun u => Safety.completes (.packetHop src dst) s0 (fun t => t = u)
    (staleDrop s k = true → hops (countNet (takeOut s src) 0 1)) ∧
    (staleDrop s k = false → k.kind = 12 → src ≠ .own → hops (actNotice (takeOut s src) k.spkg k.sinc k.hops)) ∧
    (staleDrop s k = false → k.kind = 12 → src = .own → ∀ p, dst = .port p →
      hops (if portUsed s p = true then sendOut (takeOut s src) p k else s)) ∧
    (staleDrop s k = false → k.kind ≠ 12 → k.dpkg = pkgNo s → dst = .eject → hops (eject (takeOut s src) k)) ∧
    (staleDrop s k = false → k.kind ≠ 12 → ∀ p, dst = .port p → let q := portPeer s p
      let rows := k.rowHops + (if p < 16 then 1 else 0) + (if q % 16 ≠ k.dpkg % 16 then 1 else 0)
      let cols := k.colHops + (if 16 ≤ p then 1 else 0) + (if q / 16 ≠ k.dpkg / 16 then 1 else 0)
      (k.dpkg ≠ pkgNo s → portUsed s p = true → k.rl = false → k.hops + 1 + minHops q k.dpkg ≤ 4 → rows ≤ 2 → cols ≤ 2 →
        hops (sendOut (takeOut s src) p k)) ∧
      ((4 < k.hops + 1 + minHops q k.dpkg ∨ 2 < rows ∨ 2 < cols) → k.rl = false → hops s) ∧
      (k.rl = true → portUsed s p = true → k.dpkg ≠ pkgNo s → hops
        (if q = (if pkgNo s % 16 ≠ k.dpkg % 16 then pkgNo s / 16 * 16 + k.dpkg % 16 else k.dpkg)
          then sendOut (takeOut s src) p k else s))) ∧
    (staleDrop s k = false → k.kind ≠ 12 → dst = .blocked → ∀ p j, src = .port p j →
      (k.rl = true → (s.net.relief.filter (fun r => r.1 = p)).length < 4 →
        hops { s with net := { s.net with relief := s.net.relief ++ [(p, k)] } }) ∧
      (k.rl = true → 4 ≤ (s.net.relief.filter (fun r => r.1 = p)).length → hops s) ∧
      (k.rl = false → hops { s with net := { s.net with bufs := s.net.bufs ++ [(p, k, s.time)] } }))) ∧
  (∀ (s : State) (n p since : Nat) (k : Packet), s.net.bufs[n]? = some (p, k, since) →
    let late := k.sus = false ∧ since + 1000 * s.net.dto < s.time
    (late → Safety.completes (.suspectTimeout n) s (fun t => t = countNet { s with net := { s.net with
      bufs := s.net.bufs.set n (p, { k with sus := true }, since) } } 2 1)) ∧
    (¬late → exec (.suspectTimeout n) s = .next s)) ∧
  (∀ (s : State) (epoch : BitVec 8),
    let ups := (List.range 256).filter (peerUp s)
    let d := (ups.find? (fun n => pkgNo s < n)).getD (ups.headD (pkgNo s))
    let here := s.net.tokens.erase (32, pkgNo s, epoch)
    let port : Nat → Option Nat := fun d => (List.range 32).find? (fun p => portUsed s p && portPeer s p = routeHop (pkgNo s) d)
    ((epoch - s.net.epoch).toNat ≤ 128 → Safety.completes (.compassTokenArrival ⟨epoch, pkgNo s⟩) s (fun t => t.net.epoch = epoch ∧
      t.net.tokenSeen = s.time ∧ t.net.bufs.length + t.net.relief.length = s.net.bufs.length + s.net.relief.length ∧
      (d = pkgNo s → t.net.tokens = here ++ [(32, d, epoch)]) ∧
      ∀ p, d ≠ pkgNo s → port d = some p → t.net.tokens = here ++ [(p, d, epoch)])) ∧
    (∀ n p, (epoch - s.net.epoch).toNat ≤ 128 → n ≠ pkgNo s → port n = some p →
      Safety.completes (.compassTokenArrival ⟨epoch, n⟩) s (fun t => t.net.epoch = epoch ∧ t.net.bufs = s.net.bufs ∧
        t.net.tokens = here ++ [(p, n, epoch)])) ∧
    (∀ n, 128 < (epoch - s.net.epoch).toNat → exec (.compassTokenArrival ⟨epoch, n⟩) s = .next s)) ∧
  (∀ s : State,
    (lowestUp s = true → s.net.tokenSeen + 128000 ≤ s.time → Safety.completes .tokenReissue s (fun t =>
      t.net.epoch = s.net.epoch + 1#8 ∧ t.net.tokenSeen = s.time)) ∧
    (lowestUp s = false ∨ s.time < s.net.tokenSeen + 128000 → exec .tokenReissue s = .next s)) ∧
  (∀ (s : State) (p : Nat),
    (portUsed s p = true → Safety.completes (.flitRetry p) s (fun t => t = countNet s 5 1)) ∧
    (portUsed s p = false → exec (.flitRetry p) s = .next s) ∧ (portUp s p = false → exec (.portFailure p) s = .next s) ∧
    Safety.completes (.laneRetire p) s (fun t => assocD 4 t.net.lanes p = (if assocD 4 s.net.lanes p = 4 then 2 else 1) ∧
      ∀ q, q ≠ p → assocD 4 t.net.lanes q = assocD 4 s.net.lanes q) ∧
    (portUp s p = true → Safety.completes (.portFailure p) s (fun t => portUp t p = false ∧ portUsed t p = false ∧
      (∀ x ∈ t.net.sent, x ∈ s.net.sent) ∧ (∀ k ∈ s.net.own, k ∈ t.net.own) ∧ t.mem = s.mem ∧
      ∀ x ∈ s.net.sent, x ∈ t.net.sent ∨ ∃ k ∈ t.net.own, k = { x.2 with
        hops := x.2.hops - 1, rowHops := x.2.rowHops - (if p < 16 then 1 else 0), colHops := x.2.colHops - (if 16 ≤ p then 1 else 0) }))) ∧
  (∀ (s : State) (n inc : Nat),
    (n = pkgNo s ∨ inc = (peerEnt s n).1 ∨ s.net.noticed.contains (n, inc) = true → exec (.resetNotice n inc) s = .next s) ∧
    (n ≠ pkgNo s → inc ≠ (peerEnt s n).1 → s.net.noticed.contains (n, inc) = false →
      let s1 := setPeer { s with net := { s.net with noticed := s.net.noticed ++ [(n, inc)] } } n (peerEnt s n).1 2
      let s2 := (s1.net.tags.filter (fun t => t.st = 1 && t.peer = n)).foldl (fun t x => failTag t x false .fabPeerReset) s1
      let s3 := failCkpts s2 (fun c => s2.launches.any (fun l => sheetOf l.pid = c.sheet && l.d.job = c.job && l.d.span != 0#32
        && (List.range (spanCols l.d * spanRows l.d)).any (fun q => spanPkg l.d q = n)))
      Safety.completes (.resetNotice n inc) s (fun t =>
        t = sendNotice ((groups s3).foldl (fun t g => marginReset t n g) (markGone s3 n)) n inc (minHops n (pkgNo s))))) ∧
  (∀ (s : State) (spkg slice q : Nat), ((s.net.rxseq.find? (fun x => x.1 = spkg && x.2.1 = slice)).map (fun x => x.2.2)).getD 0 = q →
    -- in STRICT_SCOPE a request that a pinned line kept back goes first, once it may (12, R268)
    (∀ k, unpinned s spkg slice = some k →
      (∀ t, performPeer s k = .ok t → Safety.completes (.sequencedApply spkg slice) s (fun u =>
        u = { t with net := { t.net with pins := t.net.pins.erase k } })) ∧
      (∀ t, performPeer s k = .error t → exec (.sequencedApply spkg slice) s = .next t)) ∧
    (unpinned s spkg slice = none → s.net.window.find? (fun k => k.spkg = spkg && k.tsl = slice && k.seq = q) = none →
      exec (.sequencedApply spkg slice) s = .next ((pinsOf s spkg slice).foldl retried s)) ∧
    (∀ k, unpinned s spkg slice = none → s.net.window.find? (fun k => k.spkg = spkg && k.tsl = slice && k.seq = q) = some k →
      let did : State → State := fun t => { t with net := { t.net with
        window := t.net.window.erase k
        rxseq := t.net.rxseq.filter (fun x => !(x.1 = spkg && x.2.1 = slice)) ++ [(spkg, slice, (q + 1) % 65536)] } }
      (k.kind = 8 ∨ k.kind = 9 → Safety.completes (.sequencedApply spkg slice) s (fun t => t = did (stepPacket s k))) ∧
      (k.kind = 7 → Safety.completes (.sequencedApply spkg slice) s (fun t =>
        t = did { s with net := { s.net with arrived := s.net.arrived ++ [k] } })) ∧
      (k.kind < 7 →
        let kept := k.args % 2 ^ 16 ≠ 0 ∧ (pinnedPacket s k = true ∨ ∃ x ∈ pinsOf s k.spkg k.tsl, x.g = k.g)
        (kept → Safety.completes (.sequencedApply spkg slice) s (fun u =>
          u = did (let t := retried s k
            { t with net := { t.net with pins := t.net.pins ++ [k] } }))) ∧
        (¬kept → ∀ t, performPeer s k = .ok t → Safety.completes (.sequencedApply spkg slice) s (fun u => u = did t)) ∧
        (¬kept → ∀ t, performPeer s k = .error t → exec (.sequencedApply spkg slice) s = .next t)))) ∧
  -- a peer's load of bytes that stand in their line gives what its core sees
  (∀ (s t : State) (k : Packet), let n := k.args % 2 ^ 16
    let c := peerCore k.spkg k.core
    k.kind = 0 → k.loc + n ≤ 0xC000000000 → isDoor s k.loc n = false → sliceIsolated s (homeSlice k.loc) = false →
    ready s (ownerOf s k.loc) k.loc n false false = .ok t → poisoned t k.loc n = none →
    let u := peerAcquire t k c k.loc n
    performPeer s k = .ok (replyTo u k 3 0 (viewBytes u c k.loc n)))

/-- 14, R304-R314, 16, R323: replies, timeouts, segments and their acknowledgements, doors, reduction slots. The bytes of a reply (log
19) and what log 45 names are the model's. An event whose condition fails changes nothing (log 13). -/
def Obligations.FabricEventsCompleteRequests : Prop :=
  (∀ (s : State) (k : Packet),
    (s.net.arrived.contains k = false → exec (.replyArrival k) s = .next s) ∧
    (s.net.arrived.contains k = true → tagFor s k = none → exec (.replyArrival k) s = .next (countNet (dropArrived s k) 1 1)) ∧
    -- a retry response leaves the request outstanding (12, R268; log 19)
    (s.net.arrived.contains k = true → ∀ t, tagFor s k = some t → k.args = retryCode → k.kind ≠ 11 →
      Safety.completes (.replyArrival k) s (fun u =>
        u = pairApplied (setTag (dropArrived s k) { t with since := s.time }) t.peer t.slice t.seq)) ∧
    (s.net.arrived.contains k = true → ∀ t, tagFor s k = some t → k.args ≠ retryCode ∨ k.kind = 11 →
      let s1 := pairApplied (endTag (dropArrived s k) t false) t.peer t.slice t.seq
      Safety.completes (.replyArrival k) s (fun u =>
        u = if k.kind = 11 then answerTag s1 t (ansOfBytes k.data) else completePart s1 t.op t.part k))) ∧
  (∀ (s : State) (die tag : Nat), let t := tagOfDie s die tag
    (t.st = 1 → t.since + 1000 * s.net.rto ≤ s.time →
      Safety.completes (.requestTimeout die tag) s (fun u => u = failTag (countNet s 6 1) t true .fabTimeout)) ∧
    (t.st ≠ 1 ∨ s.time < t.since + 1000 * s.net.rto → exec (.requestTimeout die tag) s = .next s) ∧
    (t.st = 2 → t.since + 1000 * max s.net.rto 256 ≤ s.time →
      Safety.completes (.tagQuarantineEnd die tag) s (fun u => u = setTag s { t with st := 0 })) ∧
    (t.st ≠ 2 ∨ s.time < t.since + 1000 * max s.net.rto 256 → exec (.tagQuarantineEnd die tag) s = .next s)) ∧
  (∀ (s : State) (id j : Nat) (o : Op) (p : Part), segTodo s id j = some (o, p) →
    let late := failPart (countNet s 6 1) id j .fabTimeout none
    (∀ n, p.kind = .peer n → Safety.completes (.rstaSegment id j) s (fun t => t = rstaSettle (sendPart s o j p n) id) ∧
      exec (.doorSegment id j) s = .next s) ∧
    (∀ sl, p.kind = .dev sl → isDoor s p.fa p.size = false →
      exec (.doorSegment id j) s = .next s ∧
      (segLate s o = true → exec (.rstaSegment id j) s = .next late) ∧
      (segLate s o = false → sliceIsolated s sl = false → copyPending s p.fa p.size = false → pinnedAgainst s o.core p.fa p.size = false →
        ∀ t, ready s o.pid p.fa p.size true true = .ok t → Safety.completes (.rstaSegment id j) s (fun u =>
          u = putPart (storeOut t o.core p.fa (leBytes p.size p.data)) o j { p with st := .held }))) ∧
    (∀ sl, p.kind = .dev sl → isDoor s p.fa p.size = true →
      exec (.rstaSegment id j) s = .next s ∧
      (doorSegment s p.fa p.size p.data = .hold → exec (.doorSegment id j) s = .next (if segLate s o = true then late else s)) ∧
      (doorSegment s p.fa p.size p.data = .bad → exec (.doorSegment id j) s = .next (failPart s id j .busErr none)) ∧
      (∀ t, doorSegment s p.fa p.size p.data = .counted t →
        Safety.completes (.doorSegment id j) s (fun u => u = putPart t o j { p with st := .held })))) ∧
  (∀ (s : State) (id j : Nat) (o : Op) (p : Part), opOf s id = some o → o.parts[j]? = some p → o.cls = .rsta →
    (p.st = .held → Safety.completes (.rstaAck id j) s (fun t => t = ackSegment s o j p)) ∧
    (p.st = .todo ∨ p.st = .done → exec (.rstaAck id j) s = .next s) ∧
    (∀ die tag, p.st = .sent die tag → ∀ k, s.net.arrived.find? (fun k => k.kind = 7 && k.die = die && k.tag = tag) = some k →
      Safety.completes (.rstaAck id j) s (fun t => t = takeReply s k))) ∧
  (∀ (s : State) (n : Nat) (r : RReq), s.net.rreqs[n]? = some r →
    (r.root ≠ pkgNo s ∨ r.ans ≠ none ∨ rootAnswer s r = none → exec (.reductionRequest n) s = .next s) ∧
    (r.root = pkgNo s → r.ans = none → ∀ t a, rootAnswer s r = some (t, a) →
      (r.g ≠ none → Safety.completes (.reductionRequest n) s (fun u =>
        u = { t with net := { t.net with rreqs := t.net.rreqs.set n { r with ans := some a } } })) ∧
      (r.g = none → Safety.completes (.reductionRequest n) s (fun u => u.net.rreqs = t.net.rreqs.eraseIdx n ∧
        ∃ k, u.net.own = t.net.own ++ [k] ∧ k.kind = 11 ∧ k.dpkg = r.pkg ∧ k.data = ansBytes a ∧ k.tag = r.tag % 4096)))) ∧
  (∀ (s : State) (i : Nat), let e := slotAt s i
    (e.st = 0 ∨ s.time < e.deadline → exec (.reductionTimer i) s = .next s) ∧
    (e.deadline ≤ s.time →
      (e.st = 1 → Safety.completes (.reductionTimer i) s (fun t =>
        t = setSlot s i { e with st := 2, deadline := s.time + 1000 * e.timeout })) ∧
      (e.st ≠ 0 → e.st ≠ 1 → Safety.completes (.reductionTimer i) s (fun t => t = setSlot s i { gen := (e.gen + 1) % 256 }))))

/-- 17, R326-R341, 18, R350-R352, 19, R362-R363, R375-R376: launches submitted, released, placed and ended; records dropped; slices of
time-shared cores; answers of the event ring; its records; table walks. The order of the first words of a record is the model's (log
25), and so is what logs 7, 24 and 51 name. An event whose condition fails changes nothing (log 13). -/
def Obligations.WorkSliceAndRingEventsGoOn : Prop :=
  (∀ (s : State) (pid : Nat) (v : W64),
    ((prtOf s pid).lres.getLsbD 62 = true → exec (.lreq pid v) s = .next s) ∧
    ((prtOf s pid).lres.getLsbD 62 = false → Safety.completes (.lreq pid v) s (fun t =>
      t = serveLreq (setPrt s { prtOf s pid with lreq := v &&& 0x00FFFFFFFFFFFFC0#64 }) pid))) ∧
  (∀ (s : State) (h : Nat) (l : Launch), launchOf s h = some l →
    let free := l.st = .accepted ∧ cutPending s l = false ∧ l.d.start ≤ s.time ∧ ∀ x ∈ l.d.deps, depMet s (sheetOf l.pid) x = true
    (free → Safety.completes (.launchRelease h) s (fun t => t = setLaunch s { l with st := .released })) ∧
    (¬free → exec (.launchRelease h) s = .next s) ∧
    (l.st = .released → aheadOf s l = false → ∀ t, place s l = some t → Safety.completes (.launchPlacement h) s (fun u => u = t)) ∧
    (l.st ≠ .released ∨ aheadOf s l = true ∨ place s l = none → exec (.launchPlacement h) s = .next s) ∧
    (mayEndLaunch s l = true → Safety.completes (.launchEnd h) s (fun t => t = leaveLaunch s h)) ∧
    (launchGroups s h = [] → leaveLaunch s h = endLaunch s h) ∧
    (mayEndLaunch s l = false → exec (.launchEnd h) s = .next s)) ∧
  (∀ (s : State) (sheet lvl h : Nat) (r : CRec), s.recs.find? (fun r => r.sheet = sheet && r.lvl = lvl && r.h = h) = some r →
    (lvl < 3 → r.out = 0 → r.zeroAt + 4000000 ≤ s.time →
      Safety.completes (.recordDrop sheet lvl h) s (fun t => t = { s with recs := s.recs.erase r })) ∧
    (3 ≤ lvl ∨ r.out ≠ 0 ∨ s.time < r.zeroAt + 4000000 → exec (.recordDrop sheet lvl h) s = .next s)) ∧
  -- slices: the least virtual time takes the core, those of weight 0 only where no other has work
  (∀ (s : State) (vt : Prt → Nat) (ps : List Nat) (p : Nat), leastTime s vt ps = some p →
    p ∈ ps ∧ ∀ q ∈ ps, (prtOf s q).weight ≠ 0 → (prtOf s p).weight ≠ 0 ∧ vt (prtOf s p) ≤ vt (prtOf s q)) ∧
  (∀ (s : State) (core : Nat), let r := coreOf s core
    (r.mode ≠ 2 ∨ r.running ≠ none ∨ topOf s r = none → exec (.sliceStart core) s = .next s) ∧
    (r.top = none → (topOf s r).map Prod.fst = leastTime s Prt.vtime (readyOuter s r)) ∧
    (r.mode = 2 → r.running = none → ∀ top r1 pid, topOf s r = some (top, r1) →
      leastTime s Prt.vin ((membersOf top (listed r)).filter (fun p => runnable s p core)) = some pid →
      Safety.completes (.sliceStart core) s (fun t => t = comeIn (setCore s { r1 with
        running := some pid, sliceAt := s.time
        sliceEnd := min r1.topEnd (s.time + 1000 * (prtOf s pid).quantum) }) pid core))) ∧
  (∀ (s0 : State) (core : Nat), let s := leaveCore s0 core (fun _ => false)
    let r := coreOf s core
    let stopAll : State → Nat → State := fun t pid => finishSlice ((toStop t pid core).foldl (fun t g => match getG t g.key with
      | some h => sliceStopIf t h
      | none => t) t) pid core
    (r.running = none → exec (.sliceEnd core) s0 = .next s) ∧
    (∀ pid, r.running = some pid →
      (r.stopping = false → s.time < r.sliceEnd → runnable s pid core = true → displaced s r pid = false →
        exec (.sliceEnd core) s0 = .next s) ∧
      (r.stopping = false → r.sliceEnd ≤ s.time ∨ runnable s pid core = false ∨ displaced s r pid = true →
        Safety.completes (.sliceEnd core) s0 (fun t => t = stopAll (setCore s { r with stopping := true, stopAt := s.time }) pid)) ∧
      (r.stopping = true → Safety.completes (.sliceEnd core) s0 (fun t => t = stopAll s pid)))) ∧
  (∀ (s0 : State) (core : Nat),
    let s := leaveCore s0 core (fun g => (coreOf s0 core).leaveAt + 1000 * (prtOf s0 g.pid).saveto ≤ s0.time)
    let r := coreOf s core
    (r.running = none ∨ r.stopping = false → exec (.saveTimeout core) s0 = .next s) ∧
    (∀ pid, r.running = some pid →
      (s.time < r.stopAt + 1000 * (prtOf s pid).saveto → exec (.saveTimeout core) s0 = .next s) ∧
      (r.stopping = true → r.stopAt + 1000 * (prtOf s pid).saveto ≤ s.time → Safety.completes (.saveTimeout core) s0 (fun t =>
        t = finishSlice ((toStop s pid core).foldl (fun t g => match getG t g.key with
          | some h => (match h.stop with
            | .running => if h.super then t else
              addRecord (sliceStop t h) pid 3 (some h.key) none { cause := .sliceForced, time := t.time }
            | _ => sliceStopIf t h)
          | none => t) s) pid core)))) ∧
  (∀ (s : State) (pid : Nat) (q : W32),
    (recordOf s pid q = none →
      exec (.evrespResume pid q) s = .next (noteResp s pid 0 q) ∧ exec (.evrespFail pid q) s = .next (noteResp s pid 1 q) ∧
      exec (.evrespCancel pid q) s = .next (noteResp s pid 2 q)) ∧
    (∀ r e, recordOf s pid q = some r → r.kind = 1 → entryFor s pid r = some e →
      Safety.completes (.evrespResume pid q) s (fun t => t = answerPage (noteResp s pid 0 q) pid e false) ∧
      Safety.completes (.evrespFail pid q) s (fun t => t = answerPage (noteResp s pid 1 q) pid e true) ∧
      (e.groups = [] → Safety.completes (.evrespCancel pid q) s (fun t => t = answerPage (noteResp s pid 2 q) pid e false))) ∧
    (∀ r g, recordOf s pid q = some r → r.kind ≠ 1 → stoppedGroup s r = some g →
      Safety.completes (.evrespResume pid q) s (fun t => t = answerResume (dropRecord (noteResp s pid 0 q) pid r.seq) g) ∧
      exec (.evrespFail pid q) s = .next (noteResp s pid 1 q) ∧
      Safety.completes (.evrespCancel pid q) s (fun t =>
        t = cancelRec (dropRecord (noteResp s pid 2 q) pid r.seq) (sheetOf pid) 0 g.key.launch))) ∧
  (∀ (s : State) (pid : Nat), let p := prtOf s pid
    (p.recs.find? (fun r => !r.written) = none ∨ p.evsize ≤ p.evtail - p.evhead →
      exec (.eventRecordWrite pid) s = .next s) ∧
    (∀ r, p.recs.find? (fun r => !r.written) = some r → p.evtail - p.evhead < p.evsize →
      Safety.completes (.eventRecordWrite pid) s (fun t => t.mem = s.mem ∧
        t.hostOut = s.hostOut ++ (List.range 64).map
          (fun i => (hostKey pid (p.evbase.toNat + 64 * (p.evtail % p.evsize) + i), (recordBytes r).getD i 0#8))))) ∧
  (∀ (s : State) (core pid va : Nat) (acc : Acc),
    let hit := s.tlb1.any (fun e => e.own = core && e.pid = pid && e.page = va / 4096 && permOk acc e.r e.w e.x)
    (hit = true → exec (.pageWalk core pid va acc) s = .next s) ∧
    (hit = false → (s.g.live = false ∨ s.g.core ≠ core ∨ s.g.pid ≠ pid) →
      Safety.completes (.pageWalk core pid va acc) s (fun t => t = installTlb (countEvc s pid 4 1) core pid va acc)) ∧
    (hit = false → s.g.live = true → s.g.core = core → s.g.pid = pid →
      Safety.completes (.pageWalk core pid va acc) s (fun t => t = installTlb (noteEvent s s.g 4 (missPc s) 1) core pid va acc)))

/-- 18, R344-R348, 19, R373, 22, R409-R413: the mailbox's requests on budgets, ownership, roots, settings, modes and records: who may
make each, its range, its effect and its reply. That a request comes whole (log 27), which of its readings are the model's (log 52),
which bytes are RSV (log 69), and which level judges a write (log 70) are the model's. An event whose condition fails changes nothing
(log 13). -/
def Obligations.MailboxRequestsOnSettings : Prop :=
  -- the reply of a request, and what it leaves
  (∀ (s : State) (pid cmd res ret : Nat) (b : List Byte), pid < 1024 → let t := answer s (.ld pid) cmd res ret b
    (prtOf t pid).mbox.go = BitVec.ofNat 64 cmd ∧ (prtOf t pid).mbox.stat = BitVec.ofNat 64 res ∧
    (prtOf t pid).mbox.reply = leBytes 8 ret ++ b ∧ (∀ q, q ≠ pid → prtOf t q = prtOf s q) ∧ t.mem = s.mem ∧ t.net = s.net) ∧
  -- budgets
  (∀ (s : State) (snd : Sender) (pid : Nat) (b : BitVec 1024), let j := judgeBudget s pid b
    Safety.asked (.partWrite snd pid b) s snd 0x01 (fmSender snd)
      (if j.1 ≤ 1 then answer (applyQuads (setPrt s j.2)) snd 0x01 j.1 (j.2.quantum % 2 ^ 32 + saveMax j.2.saveto j.2.quads * 2 ^ 32) []
       else answer s snd 0x01 j.1 0 []) ∧
    Safety.asked (.partRead snd pid) s snd 0x02 (fmSender snd)
      (if pidOk pid then answer s snd 0x02 okRes (saveMax (prtOf s pid).saveto (prtOf s pid).quads) (budgetBytes s (prtOf s pid))
       else answer s snd 0x02 rangeRes 0 [])) ∧
  -- ownership of cores
  (∀ (s : State) (snd : Sender) (core : Nat) (v : BitVec 128),
    let sound := core < Config.cores ∧ v.extractLsb' 88 40 = 0#40 ∧ v.extractLsb' 0 2 ≠ 3#2 ∧
      ∀ p ∈ ownPids v, p = 0x3FF ∨ pidOk p = true
    (sound → Safety.asked (.coreOwnWrite snd core v) s snd 0x03 (fmSender snd)
      (answer (setCore s (ownCore s core v)) snd 0x03 okRes 0 [])) ∧
    (¬sound → Safety.asked (.coreOwnWrite snd core v) s snd 0x03 (fmSender snd) (answer s snd 0x03 rangeRes 0 [])) ∧
    Safety.asked (.coreOwnRead snd core) s snd 0x03 (fmSender snd)
      (if core < Config.cores then answer s snd 0x03 okRes 0 (leBytes 16 (((List.range 8).map (fun j =>
        (coreOf s core).pids.getD j 0x3FF * 2 ^ (10 * j + 2))).sum + (coreOf s core).mode)) else answer s snd 0x03 rangeRes 0 [])) ∧
  -- roots and invalidation
  (∀ (s : State) (snd : Sender) (pid : Nat) (s1 s2 : W64),
    Safety.asked (.rootsWrite snd pid s1 s2) s snd 0x04 (rootSender snd pid true)
      (if pidOk pid && s1Ok pid s1 && s2Ok s2 then
        answer (setPrt s { prtOf s pid with s1root := s1, s2root := s2 }) snd 0x04 okRes 0 [] else answer s snd 0x04 rangeRes 0 []) ∧
    Safety.asked (.rootsWriteS1 snd pid s1) s snd 0x04 (rootSender snd pid false)
      (if pidOk pid && s1Ok pid s1 then answer (setPrt s { prtOf s pid with s1root := s1 }) snd 0x04 okRes 0 []
       else answer s snd 0x04 rangeRes 0 []) ∧
    Safety.asked (.rootsRead snd pid) s snd 0x04 (rootSender snd pid false)
      (if pidOk pid then answer s snd 0x04 okRes 0 (leBytes 8 (prtOf s pid).s1root.toNat ++ leBytes 8 (prtOf s pid).s2root.toNat)
       else answer s snd 0x04 rangeRes 0 [])) ∧
  (∀ (s : State) (snd : Sender) (pid : Nat) (b : BitVec 256),
    let stage := (b.extractLsb' 128 8).toNat
    let len := (b.extractLsb' 64 64).toNat
    let base := (b.extractLsb' 0 64).toNat
    let sound := pidOk pid = true ∧ stage ≤ 2 ∧ b.extractLsb' 136 120 = 0#120 ∧ len % 4096 = 0 ∧ (len = 0 ∨ base % 4096 = 0)
    (sound → Safety.asked (.tlbi snd pid b) s snd 0x05 (ownSender snd pid) (answer { s with
      tlb1 := s.tlb1.filter (tlbKeep pid stage base len), tlb2 := s.tlb2.filter (tlbKeep pid stage base len) } snd 0x05 okRes 0 [])) ∧
    (¬sound → Safety.asked (.tlbi snd pid b) s snd 0x05 (ownSender snd pid) (answer s snd 0x05 rangeRes 0 []))) ∧
  -- the fabric's settings, peers and counters
  (∀ (s : State) (snd : Sender) (v : W64) (first n : Nat) (vs : List W64),
    Safety.asked (.tamlyCfgRead snd) s snd 0x06 (fmSender snd) (answer s snd 0x06 okRes 0
      (leBytes 8 (s.net.lvl * 2 ^ 44 + s.net.cap * 2 ^ 40 + s.net.dto * 2 ^ 32 + s.net.rto))) ∧
    (v &&& 0xFFFF0000FFFF0000#64 ≠ 0#64 →
      Safety.asked (.tamlyCfgWrite snd v) s snd 0x06 (fmSender snd) (answer s snd 0x06 rangeRes 0 [])) ∧
    (v &&& 0xFFFF0000FFFF0000#64 = 0#64 → v.toNat / 2 ^ 44 % 2 = 0 → 10 ≤ v.toNat % 2 ^ 14 → v.toNat % 2 ^ 14 ≤ 10000 →
      Safety.asked (.tamlyCfgWrite snd v) s snd 0x06 (fmSender snd) (answer { s with
        net := { s.net with lvl := 0, cap := 8, dto := 20, rto := v.toNat % 2 ^ 14 } } snd 0x06 okRes 0 [])) ∧
    (v &&& 0xFFFF0000FFFF0000#64 = 0#64 → v.toNat / 2 ^ 44 % 2 = 1 → 10 ≤ v.toNat % 2 ^ 14 → v.toNat % 2 ^ 14 ≤ 10000 → 1 ≤ v.toNat / 2 ^ 40 % 16 →
      v.toNat / 2 ^ 40 % 16 ≤ 8 → 5 ≤ v.toNat / 2 ^ 32 % 256 → v.toNat / 2 ^ 32 % 256 ≤ 80 →
      Safety.asked (.tamlyCfgWrite snd v) s snd 0x06 (fmSender snd) (answer { s with net := { s.net with
        lvl := 1, cap := v.toNat / 2 ^ 40 % 16, dto := v.toNat / 2 ^ 32 % 256, rto := v.toNat % 2 ^ 14 } } snd 0x06 okRes 0 [])) ∧
    (first + vs.length ≤ 256 → (∀ w ∈ vs, w.extractLsb' 32 32 = 0#32 ∧ w.extractLsb' 8 8 = 0#8) →
      Safety.asked (.peerWrite snd first vs) s snd 0x07 (fmSender snd) (answer (writePeers s first vs) snd 0x07 okRes 0 [])) ∧
    (256 < first + vs.length →
      Safety.asked (.peerWrite snd first vs) s snd 0x07 (fmSender snd) (answer s snd 0x07 rangeRes 0 [])) ∧
    Safety.asked (.peerRead snd first n) s snd 0x07 (fmSender snd)
      (if first + n ≤ 256 then answer s snd 0x07 okRes 0 (((List.range n).map (fun i =>
        leBytes 8 ((peerEnt s (first + i)).1 * 65536 + (peerEnt s (first + i)).2))).flatten) else answer s snd 0x07 rangeRes 0 []) ∧
    (v.extractLsb' 16 48 ≠ 0#48 →
      Safety.asked (.incset snd v) s snd 0x08 (fmSender snd) (answer s snd 0x08 rangeRes 0 [])) ∧
    (v.extractLsb' 16 48 = 0#48 → s.net.incSet = true ∨ s.net.everUp = true →
      Safety.asked (.incset snd v) s snd 0x08 (fmSender snd) (answer s snd 0x08 busyRes 0 [])) ∧
    (v.extractLsb' 16 48 = 0#48 → s.net.incSet = false → s.net.everUp = false →
      Safety.asked (.incset snd v) s snd 0x08 (fmSender snd) (answer { s with
        net := { s.net with inc := (v.extractLsb' 0 16).toNat, incSet := true } } snd 0x08 okRes 0 [])) ∧
    Safety.asked (.routerCount snd) s snd 0x15 (fmSender snd) (answer s snd 0x15 okRes 0 ((s.net.counts.map (leBytes 8)).flatten))) ∧
  (∀ (s : State) (v : W32),
    (s.net.everUp = true → exec (.tamlyIdWrite v) s = .next s) ∧
    (s.net.everUp = false → Safety.completes (.tamlyIdWrite v) s (fun t => t = { s with
      net := { s.net with row := (v.extractLsb' 4 4).toNat, col := (v.extractLsb' 0 4).toNat } }))) ∧
  -- modes, jobs, counter words
  (∀ (s : State) (snd : Sender) (pid lvl h : Nat),
    Safety.asked (.scopeNormal snd) s snd 0x0A (fmSender snd) (answer { s with strict := false } snd 0x0A okRes 0 []) ∧
    Safety.asked (.scopeStrict snd) s snd 0x0A (fmSender snd) (answer { s with strict := true } snd 0x0A okRes 0 []) ∧
    (let live := s.recs.any (fun r => r.sheet = sheetOf pid && r.lvl = 3 && r.h = h)
     Safety.asked (.endJob snd pid h) s snd 0x09 (fmSender snd) (if pidOk pid && live then
       endJob s (some snd) (sheetOf pid) h else answer s snd 0x09 rangeRes 0 [])) ∧
    (∀ sh, lvl ≤ 3 → recSheet s snd lvl h = some sh →
      Safety.asked (.countRead snd lvl h) s snd 0x13 (recSender s snd lvl h)
        (answer s snd 0x13 okRes (counterWord (recOf s sh lvl h)).toNat []) ∧
      Safety.asked (.hostCancel snd lvl h) s snd 0x14 (recSender s snd lvl h) (answer (cancelRec s sh lvl h) snd 0x14 okRes 0 [])) ∧
    (3 < lvl ∨ recSheet s snd lvl h = none →
      Safety.asked (.countRead snd lvl h) s snd 0x13 (recSender s snd lvl h) (answer s snd 0x13 rangeRes 0 []) ∧
      Safety.asked (.hostCancel snd lvl h) s snd 0x14 (recSender s snd lvl h) (answer s snd 0x14 rangeRes 0 [])))

/-- 19, R369, 21, R392-R405, 22, R408-R414, 00, R5: images, debugging, sketches and logs by mailbox; registers of a partition's space;
sheets bound; accesses of a host. The 32 bytes before an image (log 26), RSV bits of a register write (log 53), whose carried sketch is
read (log 54), a host access that must wait (log 55), RSV bytes of a request (log 69) and the level that judges a write (log 70) are
the model's. An event whose condition fails changes nothing (log 13). -/
def Obligations.HostActsOnAPartition : Prop :=
  -- images
  (∀ (s : State) (snd : Sender) (k : GKey) (off len : Nat) (data : List W64),
    let bs := (data.map (fun x => leBytes 8 x.toNat)).flatten
    (∀ r, imageFor s k off len = .error r →
      Safety.asked (.imageRead snd k off len) s snd 0x10 (groupSender s snd k) (answer s snd 0x10 r 0 [])) ∧
    (∀ g img, imageFor s k off len = .ok (g, img) →
      Safety.asked (.imageRead snd k off len) s snd 0x10 (groupSender s snd k)
        (answer s snd 0x10 okRes 0 (zeros 32 ++ (img.drop off).take len))) ∧
    (∀ r, imageFor s k off bs.length = .error r →
      Safety.asked (.imageWrite snd k off data) s snd 0x10 (groupSender s snd k) (answer s snd 0x10 r 0 [])) ∧
    (∀ g img, imageFor s k off bs.length = .ok (g, img) →
      Safety.asked (.imageWrite snd k off data) s snd 0x10 (groupSender s snd k)
        (answer (putImage s g (frameMerge img (img.take off ++ bs ++ img.drop (off + bs.length)))) snd 0x10 okRes 0 []))) ∧
  -- stops for the debugger
  (∀ (s : State) (snd : Sender) (launch : Nat) (gid : Option Nat),
    let named := (groups s).filter (fun g => g.live && g.key.launch = launch && (gid = none || gid = some (g.key.gid % 2 ^ 32)))
    (launchOf s launch = none →
      Safety.asked (.debugStop snd launch gid) s snd 0x11 (obsSender snd) (answer s snd 0x11 rangeRes 0 [])) ∧
    (∀ l, launchOf s launch = some l →
      (gid ≠ none → named = [] →
        Safety.asked (.debugStop snd launch gid) s snd 0x11 (ownSender snd l.pid) (answer s snd 0x11 rangeRes 0 [])) ∧
      (gid = none ∨ named ≠ [] → Safety.asked (.debugStop snd launch gid) s snd 0x11 (ownSender snd l.pid)
        (answer ((named.filter stoppable).foldl (fun t g => debugStopGroup t g.key) s) snd 0x11 okRes (named.filter stoppable).length
          [])))) ∧
  -- sketches
  (∀ (s : State) (snd : Sender) (core : Nat) (v : W64) (y : W32), let r := coreOf s core
    let mine := obsSender snd && (match snd.who with
      | .ld q => (v.extractLsb' 14 10).toNat = q
      | _ => true)
    (Config.cores ≤ core ∨ v &&& 0xFFFFFFFFFF000000#64 ≠ 0#64 →
      Safety.asked (.skctlWrite snd core v) s snd 0x12 mine (answer s snd 0x12 rangeRes 0 [])) ∧
    (Config.cores ≤ core →
      Safety.asked (.skctlRead snd core) s snd 0x12 (obsSender snd) (answer s snd 0x12 rangeRes 0 []) ∧
      Safety.asked (.sketchRead snd (some core) y) s snd 0x12 (obsSender snd) (answer s snd 0x12 rangeRes 0 [])) ∧
    (core < Config.cores →
      (v &&& 0xFFFFFFFFFF000000#64 = 0#64 → v.getLsbD 1 = false → Safety.asked (.skctlWrite snd core v) s snd 0x12 mine
        (answer (setCore s { r with skctl := v &&& 0xFFFFE1#64 }) snd 0x12 okRes 0 [])) ∧
      (v &&& 0xFFFFFFFFFF000000#64 = 0#64 → v.getLsbD 1 = true → Safety.asked (.skctlWrite snd core v) s snd 0x12 mine (answer (clearCarried (setCore s { r with
        skctl := v &&& 0xFFFFE1#64, sketch := [], sketchN := 0, sketchSat := false }) core) snd 0x12 okRes 0 [])) ∧
      Safety.asked (.skctlRead snd core) s snd 0x12 (obsSender snd)
        (answer s snd 0x12 okRes 0 (leBytes 8 (r.skctl.toNat + 16 * b2n (coreSeen s core).sketchSat))) ∧
      Safety.asked (.sketchRead snd (some core) y) s snd 0x12 (obsSender snd)
        (answer s snd 0x12 okRes 0 (sketchReply y (sketchRow (coreSeen s core).sketch y) (coreSeen s core).sketchN)))) ∧
  (∀ (s : State) (core : Nat), migrating s = [] → coreSeen s core = coreOf s core) ∧
  (∀ (s : State) (snd : Sender) (pid : Nat) (y : W32),
    (snd.who = .ld pid → let c := ((prtOf s pid).carried).getD ⟨[], 0, false, []⟩
      Safety.asked (.sketchRead snd none y) s snd 0x12 true
        (answer s snd 0x12 okRes 0 (sketchReply y (carriedRow s pid c y).1 (carriedRow s pid c y).2))) ∧
    (snd.who = .fmLd → Safety.asked (.sketchRead snd none y) s snd 0x12 true (answer s snd 0x12 rangeRes 0 []))) ∧
  -- logs
  (∀ (s : State) (snd : Sender) (job : Nat) (v : W64), let live := s.recs.any (fun r => r.lvl = 3 && r.h = job)
    let l := (logOf s job).getD { job := job }
    (live = false ∨ v &&& 0xFF00000000000000#64 ≠ 0#64 →
      Safety.asked (.logctlWrite snd job v) s snd 0x12 (jobSender s snd job) (answer s snd 0x12 rangeRes 0 [])) ∧
    (live = false →
      Safety.asked (.logctlRead snd job) s snd 0x12 (jobSender s snd job) (answer s snd 0x12 rangeRes 0 [])) ∧
    (live = true →
      Safety.asked (.logctlRead snd job) s snd 0x12 (jobSender s snd job) (answer s snd 0x12 okRes 0 (leBytes 8 l.ctl.toNat))) ∧
    (live = true → v &&& 0xFF00000000000000#64 = 0#64 →
      (∀ new, new = ({ l with ctl := logctlOf s job l.ctl v } : JobLog) → logMode new = logMode l →
        Safety.asked (.logctlWrite snd job v) s snd 0x12 (jobSender s snd job) (answer { s with
          svc := { s.svc with logs := s.svc.logs.filter (fun x => x.job != job) ++ [new] } } snd 0x12 okRes 0 [])) ∧
      (∀ new, new = ({ l with ctl := logctlOf s job l.ctl v, recs := [], replayed := [], atomics := [] } : JobLog) →
        logMode new ≠ logMode l → logMode new = 1 →
        Safety.asked (.logctlWrite snd job v) s snd 0x12 (jobSender s snd job) (answer { s with
          svc := { s.svc with logs := s.svc.logs.filter (fun x => x.job != job) ++ [new] } } snd 0x12 okRes 0 [])) ∧
      (∀ mid new, mid = ({ l with ctl := logctlOf s job l.ctl v } : JobLog) → logMode mid ≠ logMode l → logMode mid = 2 →
        new = { mid with recs := logRead s (mid.ctl.toNat / 4096 % 2 ^ 44 * 4096) (logCap mid) 0, replayed := [] } →
        Safety.asked (.logctlWrite snd job v) s snd 0x12 (jobSender s snd job) (answer { s with
          svc := { s.svc with logs := s.svc.logs.filter (fun x => x.job != job) ++ [new] } } snd 0x12 okRes 0 [])))) ∧
  (∀ (s : State) (job : Nat) (l : JobLog), logOf s job = some l →
    (atHorizon l = false → exec (.replayHorizon job) s = .next s) ∧
    (atHorizon l = true → let s1 := setLog s { l with ctl := l.ctl &&& ~~~3#64 }
      Safety.completes (.replayHorizon job) s (fun u => u =
        ((groups s1).filter (fun g => stoppable g && jobOf s1 g.key.launch = job)).foldl (fun t g => debugStopGroup t g.key) s1))) ∧
  -- registers of the space
  (∀ (s : State) (pid : Nat) (v : W64), let p := prtOf s pid
    let wr : PReg → State → Prop := fun r u => Safety.completes (.registerWrite (.ld pid) r v) s (fun t => t = u)
    wr .bmaddr (setPrt s { p with mbox := { p.mbox with addr := (v &&& 0x00FFFFFFFFFFFFC0#64).toNat } }) ∧
    wr .trapcfg (setPrt s { p with trapcfg := trapcfgOf s pid v }) ∧
    wr .evbase (setPrt s { p with evbase := v &&& 0xFFFFFFFFFFFFFFC0#64 }) ∧
    wr .evsize (if isPow2 v.toNat && 64 ≤ v.toNat && v.toNat ≤ 65536 then setPrt s { p with evsize := v.toNat } else s) ∧
    wr .evhead (setPrt s { p with evhead := v.toNat }) ∧
    wr .trcctl (setPrt s { p with trcctl := trcctlOf p v }) ∧
    wr .trchead (setPrt s { p with trchead := v &&& 0xFFFFFFFF#64 }) ∧
    (∀ n, wr (.watch n) (if n < 8 then setPrt s { p with watch := p.watch.set n (watchOf (p.watch.getD n ⟨0, 2, 0⟩) v) } else s)) ∧
    (∀ n, wr (.other n) s) ∧
    Safety.completes (.evselWrite pid v) s (fun t => ∃ c : List W64, c.length = 8 ∧ t = setPrt s { p with evsel := v, evc := c } ∧
      ∀ j < 8, c.getD j 0#64 = if 10 ≤ v.toNat / 2 ^ (8 * j) % 256 ∧ v.toNat / 2 ^ (8 * j) % 256 ≠ 255
        then 0x8000000000000000#64 else 0#64)) ∧
  -- BMGO submits the request that stands at BMADDR, of every LD and of the management port
  (∀ (s : State) (snd : Sender) (v : W64), let cmd := v.toNat % 256
    let h := requestBytes s snd 0 64
    (boxBusy s snd = true → exec (.registerWrite snd .bmgo v) s = .next s) ∧
    (boxBusy s snd = false → knownCmd cmd = false →
      Safety.completes (.registerWrite snd .bmgo v) s (fun t => t = answer s snd cmd 0xFFFE 0 [])) ∧
    (boxBusy s snd = false → let b := requestBytes s snd 64 (imgRead h 0 4 % 65537)
      let u : State := { s with free := s.free + 4 }
      let x := boxSender snd cmd h b
      let n := imgRead h 0 4 / 8
      let tgt := imgRead h 4 4
      let arg := imgRead h 8 8
      let w := boxWord b
      let makes : Instr → Prop := fun i => exec (.registerWrite snd .bmgo v) s = exec i u
      (cmd = 0x01 → makes (.partWrite x tgt (BitVec.ofNat 1024 (imgRead b 0 128)))) ∧ (cmd = 0x02 → makes (.partRead x tgt)) ∧
      (cmd = 0x03 → makes (if arg = 1 then .coreOwnRead x tgt else .coreOwnWrite x tgt (BitVec.ofNat 128 (imgRead b 0 16)))) ∧
      (cmd = 0x04 → makes (if arg = 1 then .rootsWriteS1 x tgt (w 0) else if arg = 2 then .rootsRead x tgt
        else .rootsWrite x tgt (w 0) (w 8))) ∧
      (cmd = 0x05 → makes (.tlbi x tgt (BitVec.ofNat 256 (imgRead b 0 32)))) ∧
      (cmd = 0x06 → makes (if arg = 1 then .tamlyCfgRead x else .tamlyCfgWrite x (w 0))) ∧
      (cmd = 0x07 → makes (if arg = 1 then .peerRead x tgt n else .peerWrite x tgt ((List.range n).map (fun i => w (8 * i))))) ∧
      (cmd = 0x08 → makes (.incset x (w 0))) ∧ (cmd = 0x09 → makes (.endJob x tgt arg)) ∧
      (cmd = 0x0A → makes (if arg = 1 then .scopeStrict x else .scopeNormal x)) ∧
      (let k := namedGroup u (imgRead b 0 4) (imgRead b 4 4)
       let len := imgRead b 16 4
       cmd = 0x10 → makes (if arg = 1 then .imageWrite x k (imgRead b 8 8) ((List.range (len / 8)).map (fun i => w (32 + 8 * i)))
         else .imageRead x k (imgRead b 8 8) len)) ∧
      (cmd = 0x11 → makes (.debugStop x (imgRead b 0 4) (if imgRead b 8 1 % 2 = 1 then none else some (imgRead b 4 4)))) ∧
      (cmd = 0x12 → makes (if arg = 0 then .skctlWrite x tgt (w 0) else if arg = 1 then .skctlRead x tgt
        else if arg = 2 then .sketchRead x (if tgt = 0xFFFFFFFF then none else some tgt) (BitVec.ofNat 32 (imgRead b 0 4))
        else if arg = 3 then .logctlWrite x tgt (w 0) else .logctlRead x tgt)) ∧
      (cmd = 0x13 → makes (.countRead x arg tgt)) ∧ (cmd = 0x14 → makes (.hostCancel x arg tgt)) ∧ (cmd = 0x15 → makes (.routerCount x)) ∧
      (cmd = 0x20 → makes (.ckpt x (BitVec.ofNat 512 (imgRead b 0 64)))) ∧
      (cmd = 0x21 → ∃ sig peers seen, makes (.restore x (BitVec.ofNat 512 (imgRead b 0 64)) sig peers seen))) ∧
    (snd.who = .fmLd ∨ snd.who = .mgmt → ∀ r, r ≠ .bmaddr → r ≠ .bmgo → exec (.registerWrite snd r v) s = .next s)) ∧
  -- what the spaces read
  (∀ (s : State) (pid off : Nat) (v : W64),
    (off < 0x40 → readRegister s pid off = readRegister s (8 * sheetOf pid) off) ∧
    (off % 8 ≠ 0 ∨ off = 0x70 ∨ off = 0x78 ∨ 0xB0 ≤ off ∧ off < 0x100 ∨ 0x120 ≤ off ∧ off < 0x140 ∨ 0x1C0 ≤ off →
      readRegister s pid off = 0#64) ∧
    (off ≠ 0x50 → off ≠ 0x58 → off ≠ 0x60 → off ≠ 0x68 → readFmRegister s off = 0#64) ∧
    readRegister s pid 0x68 = readFmRegister s 0x68 ∧
    readFmRegister s 0x68 = BitVec.ofNat 64 (b2n s.strict + 2 * b2n s.holdover) ∧
    Safety.completes (.registerWrite (.ld pid) .evbase v) s (fun t => readRegister t pid 0x88 = v &&& 0xFFFFFFFFFFFFFFC0#64) ∧
    Safety.completes (.registerWrite (.ld pid) .bmaddr v) s (fun t => readRegister t pid 0x50 = v &&& 0x00FFFFFFFFFFFFC0#64) ∧
    Safety.completes (.registerWrite (.ld pid) .trapcfg v) s (fun t => readRegister t pid 0x80 = trapcfgOf s pid v)) ∧
  -- sheets and features
  (∀ (s : State) (sheet base size : Nat) (v : BitVec 256), let p := prtOf s (8 * sheet)
    let bind := sheet < 128 ∧ p.bound = false ∧ s.fwOk = true ∧ base % 2 ^ 28 = 0 ∧ size % 2 ^ 28 = 0 ∧ base + size ≤ 0xC000000000
    (bind → Safety.completes (.sheetBind sheet base size) s (fun t =>
      t = setPrt s { p with bound := true, mbase := base, msize := size })) ∧
    (¬bind → exec (.sheetBind sheet base size) s = .next s) ∧
    (s.recs.any (fun r => r.sheet = sheet && r.lvl = 3) = true →
      exec (.sheetUnbind sheet) s = .next { s with svc := { s.svc with unbindRes := busyRes } }) ∧
    (s.recs.any (fun r => r.sheet = sheet && r.lvl = 3) = false → Safety.completes (.sheetUnbind sheet) s (fun t =>
      t = { setPrt s { p with bound := false, mbase := 0, msize := 0 } with svc := { s.svc with unbindRes := okRes } })) ∧
    (p.acceptWritten = false → v.getLsbD 0 = true → v &&& ~~~p.featOffer = 0#256 →
      Safety.completes (.featAccept sheet v) s (fun t => t = setPrt s { p with featAccept := v, acceptWritten := true })) ∧
    (p.acceptWritten = true ∨ v.getLsbD 0 = false ∨ v &&& ~~~p.featOffer ≠ 0#256 → exec (.featAccept sheet v) s = .next s)) ∧
  -- accesses of a host: performed in the line at the home slice; a write is published at fabric scope
  (∀ (s : State) (sheet addr n : Nat) (data : Option (List Byte)), let p := prtOf s (8 * sheet)
    let inside := p.bound = true ∧ 0 < n ∧ (∀ bs, data = some bs → bs.length = n) ∧ p.mbase ≤ addr ∧ addr + n ≤ p.mbase + p.msize
    (¬inside → exec (.hostMemAccess sheet addr n data) s = .next s) ∧
    (inside → data ≠ none → isDoor s addr n = true → exec (.hostMemAccess sheet addr n data) s = .next s) ∧
    (inside → (data = none ∨ isDoor s addr n = false ∧ copyPending s addr n = false) → sliceIsolated s (homeSlice addr) = false →
      pinnedAgainst s hostAgent addr n = false → ∀ u, ready s (8 * sheet) addr n data.isSome true = .ok u →
      Safety.completes (.hostMemAccess sheet addr n data) s (fun t => t = match data with
        | some bs => storeOut u hostAgent addr bs
        | none => { u with svc := { u.svc with hostRead := some (sheet, addr, viewBytes u hostAgent addr n) } }))) ∧
  (∀ (s : State) (core a n : Nat) (bs : List Byte), bs.length = n → Memory.wf s.mem = true →
    let t := storeOut s core a bs
    t.g = s.g ∧ t.stash = s.stash ∧ ∀ i < n, cellGet t.mem (a + i) = bs.getD i 0#8)

/-- 20, R379-R390, 22, R410, R413: a checkpoint is asked for, cut, copied, signed, committed, or abandoned; an image is restored. What
the records of the plaintext look like is the model's (log 30), the ciphers are free functions (log 12), the request comes whole (log
27), other packages' work is outside (log 29), and an event whose condition fails changes nothing (log 13). The readings of the quorum
and of handles are log 99. -/
def Obligations.CheckpointsAreCutSealedAndRestored : Prop :=
  (∀ (s : State) (snd : Sender) (b : BitVec 512) (must : Bool) (i : Instr),
    i = .ckpt snd b ∧ must = false ∨ i = .migrate snd b ∧ must = true →
    let own := recSender s snd 3 (blk64 b 0 4)
    (∀ res ret, judgeCkpt s snd b must = .error (res, ret) → Safety.asked i s snd 0x20 own (answer s snd 0x20 res ret [])) ∧
    (∀ c k, judgeCkpt s snd b must = .ok c → ctrOf s c.sheet c.job = some k →
      Safety.asked i s snd 0x20 own (markBusy { s with svc := { s.svc with ckpts := s.svc.ckpts ++ [c] } } snd 0x20)) ∧
    (∀ c, judgeCkpt s snd b must = .ok c → ctrOf s c.sheet c.job = none →
      let s1 := setCtr s (newCtr s c.sheet c.job 0)
      Safety.asked i s snd 0x20 own (markBusy { s1 with svc := { s1.svc with ckpts := s1.svc.ckpts ++ [c] } } snd 0x20)) ∧
    boxBusy (markBusy s snd 0x20) snd = true ∧ (∀ cmd res ret blk, res < 2 ^ 16 → boxBusy (answer s snd cmd res ret blk) snd = false) ∧
    (∀ c, judgeCkpt s snd b must = .ok c → (c.migrate = true ↔ blk64 b 16 1 = 1) ∧ (must = true → c.migrate = true) ∧
      c.stage = 0 ∧ c.since = s.time ∧ c.pending = [] ∧ c.reached = [] ∧ c.closing = inClose s c.sheet c.job ∧
      c.job = b.toNat % 2 ^ 32 ∧ 1000 ≤ c.tmo ∧ c.tmo ≤ 10000000 ∧
      s.svc.ckpts.any (fun x => x.sheet = c.sheet && x.job = c.job) = false)) ∧
  (∀ (s : State) (job : Nat), let cut := s.svc.ckpts.find? (fun c => c.job = job && c.stage = 0 && cutReached s c)
    (cut = none → exec (.cutTaken job) s = .next s) ∧
    (∀ c, cut = some c → let gs := jobGroups s c.sheet c.job
      ((∃ g ∈ gs, storesAccepted s g.key = false) → exec (.cutTaken job) s = .next s) ∧
      ((∀ g ∈ gs, storesAccepted s g.key = true) →
        (∀ u, publishForCut s gs = some u → exec (.cutTaken job) s = .next u) ∧
        (publishForCut s gs = none → Safety.completes (.cutTaken job) s (fun t => t = takeCut s c)))) ∧
    (∀ c, allPages s c.pid .read (blockList c.regions) = none → takeCut s c = endCkpt s c 3 0)) ∧
  (∀ (s : State) (job : Nat), let late := s.svc.ckpts.find? (fun c => c.job = job && c.stage = 0 && c.since + 1000 * c.tmo ≤ s.time)
    (late = none → exec (.cutTimeout job) s = .next s) ∧
    (∀ c, late = some c → Safety.completes (.cutTimeout job) s (fun t => t = endCkpt s c 1 0))) ∧
  (∀ (s : State) (c : Ckpt) (res : Nat), let t := endCkpt s c res 0
    (∀ x ∈ t.svc.ckpts, x.sheet ≠ c.sheet ∨ x.job ≠ c.job) ∧ t.mem = s.mem ∧ t.svc.ctrs = s.svc.ctrs) ∧
  (∀ (s : State) (job : Nat) (c : Ckpt), s.svc.ckpts.find? (fun c => c.job = job && c.stage = 1) = some c →
    (c.pending = [] → Safety.completes (.blockCopy job) s (fun t => t = setCkpt s { c with stage := 2 })) ∧
    (∀ b, ((∃ x, c.pending.find? (wanted s c) = some x ∧ x = b) ∨ (c.pending.find? (wanted s c) = none ∧ c.pending.head? = some b)) →
      ((∃ pg ∈ b.2, poisoned s pg 4096 ≠ none) → exec (.blockCopy job) s = .next (endCkpt s c 6 0)) ∧
      ((∀ pg ∈ b.2, poisoned s pg 4096 = none) → let left := c.pending.filter (fun x => x.1 != b.1)
        Safety.completes (.blockCopy job) s (fun t => t = setCkpt s { c with
          pending := left, held := c.held.filter (fun x => x != b.1), stage := if left = [] then 2 else 1 })))) ∧
  (∀ (s : State) (job : Nat), s.svc.ckpts.find? (fun c => c.job = job && c.stage = 1) = none → exec (.blockCopy job) s = .next s) ∧
  (∀ (s : State) (job copies : Nat), let sealed := s.svc.ckpts.find? (fun c => c.job = job && (c.stage = 2 || c.stage = 3))
    (sealed = none → exec (.checkpointCommit job (.own copies)) s = .next s) ∧
    (∀ c k, sealed = some c → ctrOf s c.sheet c.job = some k →
      (c.stage = 2 → 2 ^ 20 ≤ s.svc.sigs → exec (.checkpointCommit job (.own copies)) s = .next (endCkpt s c 5 0)) ∧
      (c.stage = 2 → s.svc.sigs < 2 ^ 20 → Safety.completes (.checkpointCommit job (.own copies)) s (fun t => t = signCkpt s c k)) ∧
      (c.stage = 3 → k.cells.length + copies < 2 →
        exec (.checkpointCommit job (.own copies)) s = .next (endCkpt (backCtr s c) c 4 0)) ∧
      (c.stage = 3 → 2 ≤ k.cells.length + copies →
        Safety.completes (.checkpointCommit job (.own copies)) s (fun t => t = commitCkpt s c k)))) ∧
  (∀ (s : State) (job keeper v : Nat),
    Safety.completes (.checkpointCommit job (.copy keeper v)) s (fun t => ⟨keeper, job, v⟩ ∈ t.svc.copies ∧ t.svc.ctrs = s.svc.ctrs) ∧
    Safety.completes (.checkpointCommit job (.drop keeper)) s (fun t => t.svc.ckpts = s.svc.ckpts ∧
      (∀ x ∈ t.svc.copies, x.keeper ≠ keeper ∨ x.job ≠ job) ∧ ∀ k ∈ s.svc.ctrs, k.moved = false → k ∈ t.svc.ctrs)) ∧
  (∀ (s : State) (c : Ckpt) (k : JobCtr),
    (plaintext c.cut).length = plainSize c.cut ∧ (manifest s c k).length = 4096 ∧
    (manifest s c k).take 256 = signedBytes s c k ∧ (signedBytes s c k).take 160 = manifestHead s c k ∧
    (sealedChunks s c k).length = chunksOf (plainSize c.cut) ∧
    (manifest s c k ++ (sealedChunks s c k).flatten).length = imageSize c.cut) ∧
  (∀ (s : State) (m : Img) (pid n : Nat) (sig peers tags : Bool) (reads : List Nat), let p := prtOf s (8 * sheetOf pid)
    let shape := n = m.cut.packages.length ∧ sheetCores s (sheetOf pid) = m.cores ∧ (∀ l ∈ m.cut.launches, sameGrid l = true) ∧
      p.featAccept = m.legend
    let read := readCtr s m.sheet m.job reads
    let j := judgeRestore s m pid n
    (sig = false → j sig peers tags reads = 7) ∧
    (sig = true → peers = false → j sig peers tags reads = causeCode .sealPeer) ∧
    (sig = true → peers = true → ¬shape → j sig peers tags reads = causeCode .sealShape) ∧
    (sig = true → peers = true → shape → read = none → j sig peers tags reads = 4) ∧
    (∀ c, sig = true → peers = true → shape → read = some c → c ≠ m.ctr → j sig peers tags reads = causeCode .sealStale) ∧
    (sig = true → peers = true → shape → read = some m.ctr → j sig peers tags reads = if tags then 0 else 7)) ∧
  (∀ (s : State) (snd : Sender) (b : BitVec 512) (sig peers tags : Bool) (reads : List Nat) (plist : List Byte), let r := blk64 b
    let reader := match snd.who with
      | .ld pid => pid
      | _ => (imageAt s snd (r 0 8) (r 8 8) []).pid
    readGen s (hostReader reader) (r 24 8) (r 32 1 + 1) = .ok plist →
    let m := imageAt s snd (r 0 8) (r 8 8) plist
    let restore : State → Prop := fun u => Safety.asked (.restore snd b sig peers ⟨tags, reads⟩) s snd 0x21 (ownSender snd m.pid) u
    let place := imgPlace s (r 0 8) (r 8 8) = true
    let on := featOn s m.pid 4 = true
    let live := s.recs.any (fun x => x.sheet = sheetOf m.pid && x.lvl = 3 && x.h = r 20 4)
    let code := judgeRestore s m m.pid plist.length sig peers tags reads
    (¬place ∨ ¬on → restore (answer s snd 0x21 3 0 [])) ∧
    (place → on → live = true → restore (answer s snd 0x21 2 0 [])) ∧
    (place → on → live = false → r 8 8 < m.size → restore (answer s snd 0x21 3 m.size [])) ∧
    (place → on → live = false → m.size ≤ r 8 8 → code ≠ 0 → restore (answer s snd 0x21 code 0 [])) ∧
    (place → on → live = false → m.size ≤ r 8 8 → code = 0 → restore (restoreOnto s snd m m.pid (r 20 4) plist))) ∧
  (∀ (s : State) (snd : Sender) (m : Img) (pid job q : Nat) (bs : List Byte) (pages : List (Nat × List Nat)) (t : State),
    allPages s pid .write (m.cut.blocks.map (fun b => b.1)) = some pages → ownPart s bs = some q →
    restoreJob (pages.foldl (fun t b => putBlock t b.2 (assocD [] m.cut.blocks b.1)) s) m pid job = some t →
    restoreOnto s snd m pid job bs = answer t snd 0x21 0 0 [])

/-- 04, R93, 12, R269, 14, R298-R301, 22, R415-R420: units that fail and their tests, start-up, clocks, power, resets. A slice is not
retired while a pseudo-channel that its lines need is under test; a package that is too hot stops its groups before it powers down
(logs 100, 101). What a reset keeps beyond the rules is the model's (log 28). An event whose condition fails changes nothing (log 13). -/
def Obligations.UnitsStartUpAndResets : Prop :=
  (∀ (s : State) (d p : Nat) (corrected : Bool), let u : UnitId := .lane d p
    testingOf s u = none → Safety.completes (.unitError u corrected) s (fun t => t = { s with
      notices := s.notices ++ [((if corrected then .errCorrected else .unitErr), s.time)]
      svc := { s.svc with testing := s.svc.testing ++ [(u, false)] } })) ∧
  (∀ (s : State) (u : UnitId) (corrected : Bool), Safety.completes (.unitError u corrected) s (fun t => t.mem = s.mem ∧
    t.notices = s.notices ++ [((if corrected then .errCorrected else .unitErr), s.time)] ∧
    testingOf t u = some (testingOf s u).isSome ∧ (∀ v, v ≠ u → testingOf t v = testingOf s v) ∧
    (corrected = true → t.poison = s.poison ∧ t.memPoison = s.memPoison))) ∧
  -- an uncorrected error of a pseudo-channel poisons the eight words of one 32-byte unit of its stack; one of a slice, a word it holds
  (∀ (s : State) (st pc : Nat), ∃ x, x % 32 = 0 ∧ x / 256 % 64 = pc % 64 ∧ ∀ w, w ∈ (poisonSome s (.channel st pc)).memPoison ↔
    w ∈ s.memPoison ∨ ∃ i < 8, w = ofStack st (x + 4 * i)) ∧
  (∀ (s : State) (n w : Nat), w ∈ (poisonSome s (.slice n)).poison → w ∈ s.poison ∨
    ∃ l ∈ s.lines, l.slice = n ∧ w ∈ lineWords l.addr l.valid) ∧
  (∀ (s : State) (u : UnitId), let s1 : State := { s with svc := { s.svc with testing := s.svc.testing.filter (fun t => t.1 != u) } }
    let failed : State → Prop := fun t => ∃ bad, t = retireUnit (if bad = true then poisonSome { s1 with free := s.free + 1 } u
      else { s1 with free := s.free + 1 }) u
    (testingOf s u = none → ∀ pass, exec (.selfTestDone u pass) s = .next s) ∧
    -- a slice is not retired while a line of it that is to be written back has a pseudo-channel under test
    let keeps := ∃ n, u = .slice n ∧ ∃ l ∈ s.lines, l.slice = n ∧ l.dirty ≠ 0#32 ∧ chanTesting s l.addr = true
    (testingOf s u = some false → Safety.completes (.selfTestDone u true) s (fun t => t = s1) ∧
      (keeps → exec (.selfTestDone u false) s = .next s) ∧ (¬keeps → Safety.completes (.selfTestDone u false) s failed)) ∧
    (testingOf s u = some true → ∀ pass, (keeps → exec (.selfTestDone u pass) s = .next s) ∧
      (¬keeps → Safety.completes (.selfTestDone u pass) s failed))) ∧
  (∀ (s : State) (p l : Nat), retireUnit s (.tamly p l) =
    if assocD 4 s.net.lanes p = 1 then (if portUp s p = true then failPort s p else s)
    else { s with net := { s.net with lanes := assocSet s.net.lanes p (if assocD 4 s.net.lanes p = 4 then 2 else 1) } }) ∧
  (∀ (s : State) (n : Nat), let v := s.svc
    (∀ l, takeSpare v.coreSpares (n / 192) = some l → retireUnit s (.core n) = { s with svc := { v with coreSpares := l } }) ∧
    (takeSpare v.coreSpares (n / 192) = none →
      retireUnit s (.core n) = { s with svc := { v with stoppedCores := v.stoppedCores ++ [n] } })) ∧
  (∀ (s : State) (ok : Bool) (m : BitVec 512),
    (s.started = true → exec (.firmwareVerify ok m) s = .next s ∧ exec .startupComplete s = .next s) ∧
    -- an image that fails keeps the package in recovery, whatever image is verified after it
    (s.started = false → Safety.completes (.firmwareVerify ok m) s (fun t => let good := ok && !s.svc.fwBad
      t.fwOk = good ∧ t.svc.fwBad = !good ∧ t.svc.measures = s.svc.measures ++ [m] ∧ t.selfTest = s.selfTest ∧
      t.started = (good && s.selfTest) ∧ t.strict = (s.strict && !(good && s.selfTest)))) ∧
    (s.started = false → Safety.completes .startupComplete s (fun t =>
      t.fwOk = s.fwOk ∧ t.selfTest = true ∧ t.started = s.fwOk ∧ t.strict = (s.strict && !s.fwOk)))) ∧
  (∀ s : State, Safety.completes .clockHoldover s (fun t => t = { s with holdover := true }) ∧
    Safety.completes .ptpMasterHeard s (fun t => t = { s with holdover := false })) ∧
  (∀ (s : State) (f : Nat),
    (f % 100 = 0 → 0 < f → f < s.mhz → Safety.completes (.powerCap f) s (fun t => t = { s with mhz := f })) ∧
    (f % 100 ≠ 0 ∨ f = 0 ∨ s.mhz ≤ f → exec (.powerCap f) s = .next s) ∧
    (f % 100 = 0 → s.mhz < f → f ≤ 1600 → Safety.completes (.powerCapLifted f) s (fun t => t = { s with mhz := f })) ∧
    (f % 100 ≠ 0 ∨ f ≤ s.mhz ∨ 1600 < f → exec (.powerCapLifted f) s = .next s)) ∧
  -- every group leaves its core as at the end of a slice; once none is left to stop, the package powers down
  (∀ s : State, let hot : State := if s.svc.hot = true then s
      else { s with svc := { s.svc with hot := true }, cores := s.cores.map (fun r => { r with leaveAt := s.time }) }
    (∀ g pid core, mayNotStay hot g = true ∧ coreRuns hot pid core = false) ∧
    (unstopped hot ≠ [] → Safety.completes .thermalShutdown s (fun t => t = hot)) ∧
    (unstopped hot = [] → Safety.completes .thermalShutdown s (fun t =>
      t = { hot.parcels.foldl stopStreamer hot with powered := false })) ∧
    (s.powered = false → s.agenda = [] → step s = .fault .poweredDown)) ∧
  (∀ s : State, Safety.completes .powerOn s (fun t =>
    t.powered = true ∧ t.mem = State.reset.mem ∧ t.g = State.reset.g ∧ t.others = [] ∧
    t.prts = [] ∧ t.cores = [] ∧ t.launches = [] ∧ t.strict = true ∧ t.started = false ∧ t.selfTest = false ∧ t.time = s.time ∧
    t.svc.ctrs = s.svc.ctrs ∧ t.svc.sigs = s.svc.sigs)) ∧
  (∀ s : State, Safety.completes .packageReset s (fun t => t.net.inc = (s.net.inc + 1) % 65536 ∧ t.mem = s.mem ∧ t.others = [] ∧
    (∀ n, n ≠ pkgNo s → n < 256 → peerEnt t n = (0, 2)) ∧ pkgNo t = pkgNo s ∧
    (∀ n, inDomain t n = inDomain s n) ∧
    ∀ x ∈ t.net.sent, x.2.kind = 12 ∧ x.2.spkg = pkgNo s ∧ x.2.sinc = (s.net.inc + 1) % 65536))


/-! ## The whole machine -/

/-- 03, R60, 07, R179, 12, R269, 14, R295-R299, 18, R344-R346, 19, R373, 21, R392-R399, 22, R411, R418-R420: the machine after reset:
nothing runs, no partition is bound, the registers hold their reset values; a group's registers at its start; and what every step keeps
holds. Reset values that the spec does not give are the model's (log 10). -/
def Obligations.ResetLeavesTheMachine : Prop :=
  let r := State.reset
  Safety.inv r ∧
  r.powered = true ∧ r.strict = true ∧ r.holdover = false ∧ r.mhz = 1600 ∧ r.started = false ∧ r.fwOk = false ∧
  (∀ k, getG r k = none) ∧ r.launches = [] ∧ r.parcels = [] ∧ r.recs = [] ∧ r.ops = [] ∧ r.tickets = [] ∧ r.qctxs = [] ∧
  r.unpub = [] ∧ r.spec = [] ∧ r.tlb1 = [] ∧ r.tlb2 = [] ∧
  (∀ pid, let p := prtOf r pid
    p.bound = false ∧ p.quads = 0 ∧ p.weight = 16 ∧ p.lvl = 0 ∧ p.quantum = 1000 ∧ p.hbmsh = 0 ∧ p.tamsh = 0 ∧ p.tksh = 0 ∧
    p.tk3q = 64 ∧ p.prqcap = 1024 ∧ p.saveto = 20 ∧ p.ways = 0 ∧ p.s1root = 0#64 ∧ p.s2root = 0#64 ∧ p.trapcfg = 0#64 ∧
    p.mbox.go = 0#64 ∧ p.lreq = 0#64 ∧ p.lres = 0#64 ∧ p.featAccept = 0#256 ∧ p.acceptWritten = false ∧
    p.evsel = 0xFFFFFFFFFFFFFFFF#64 ∧ p.trcptr = 0#64 ∧ p.trchead = 0#64 ∧ p.trcctl.extractLsb' 3 5 = 4#5 ∧
    (∀ n < 8, p.watch[n]? = some ⟨0, 2, 0⟩)) ∧
  (∀ c, let q := coreOf r c
    q.mode = 0 ∧ q.pids = List.replicate 8 0x3FF ∧ q.running = none ∧ q.skctl.extractLsb' 14 10 = 0x3FF#10 ∧ q.sketchN = 0) ∧
  r.net.inc = 0 ∧ r.net.row = 0 ∧ r.net.col = 0 ∧ r.net.lvl = 0 ∧ r.net.cap = 8 ∧ r.net.dto = 20 ∧ r.net.rto = 100 ∧
  (∀ n, n ≠ pkgNo r → peerEnt r n = (0, 0)) ∧ (∀ i < 64, (slotAt r i).st = 0) ∧
  (∀ (k : GKey) (pid parcel pos core w cells : Nat) (d : Desc), let g := Group.start k pid parcel pos core w cells d
    (∀ n < 64, g.s[n]? = some 0#64) ∧ (∀ n < d.regs * w, g.v[n]? = some 0#32) ∧ g.k[0]? = some 0xFFFFFFFF#32 ∧
    (∀ n, 1 ≤ n → n < 8 → g.k[n]? = some 0#32) ∧ (∀ n < 12, g.flags[n]? = some 0) ∧ (∀ n < 16, g.tc[n]? = some 0#64) ∧
    g.step = 0 ∧ g.isOpen = true ∧ g.argp = d.argp ∧ g.spw = none ∧ g.cont = 0#64 ∧ g.super = false ∧
    g.p0.occ = true ∧ g.p1.occ = false ∧ g.p0.pc = d.entry ∧ g.p0.mask = BitVec.ofNat 32 (2 ^ cells - 1) ∧ g.p0.depth = 0 ∧
    g.p0.gmode = 1#32 ∧ g.p0.gfmt = 0xD40FC647#64 ∧ g.p0.cq = [])

/-- 01, R6-R7, R26, R30: a turn fetches a word, decodes it and executes it; a word that is no instruction traps with ILL_ENC and does
nothing else; a package without power does nothing. Around an instruction the step counts it and what its accesses missed in the
L1 TLB (21, R394; logs 59, 97). -/
def Obligations.StepRunsTheDecodedInstruction : Prop :=
  (∀ (s : State) (k : GKey) (slot : Bool) (g : Group) (r : List Turn), s.agenda = .scalar k slot :: r → s.powered = true →
    let u0 : State := { s with agenda := r }
    -- an instruction that has not issued yet leaves the scalar unit's choice behind it
    let u := if (pathOf g slot).wait = none then takeUnit (focusOn u0 k slot) else focusOn u0 k slot
    getG u0 k = some g →
    (mayRun u0 g slot = false ∨ ((pathOf g slot).wait = none ∧ scalarWins u0 g slot = false) →
      step s = .next (noteShares (noteEligible u0))) ∧
    (mayRun u0 g slot = true → ((pathOf g slot).wait ≠ none ∨ scalarWins u0 g slot = true) →
      (∀ bs i t, fetchBytes u u.g (cur u).pc.toNat 4 = .ok bs → decode bs = some i → exec i u = .next t →
        step s = .next (noteShares (noteEligible
          (scalarMisses u (if encTraps u i then t else afterScalar t u.g.key u.slot (cur u).pc))))) ∧
      (∀ c stg, fetchBytes u u.g (cur u).pc.toNat 4 = .error (c, stg) → step s = .next (noteShares (noteEligible
        (turnMisses u (takeTrap u { cause := c, stg := stg, acc := .fetch, slot := u.slot, addr := (cur u).pc.toNat }))))))) ∧
  (∀ (s : State) (k : GKey) (slot : Bool) (g : Group) (r : List Turn), s.agenda = .lane k slot :: r → s.powered = true →
    let u0 : State := { s with agenda := r }
    let u := focusOn u0 k slot
    getG u0 k = some g → active g = true →
    ∀ e w, curEnt u = some e → e.code[e.idx]? = some w →
      (∀ i t, decodeLane w = .ok i → exec i u = .next t → step s = .next (noteShares (noteEligible (turnMisses u t)))) ∧
      (∀ c, decodeLane w = .error c → step s = .next (noteShares (noteEligible (takeTrap u { cause := c, slot := u.slot }))))) ∧
  (∀ (s t : State) (i : Instr) (r : List Turn), s.agenda = .act i :: r →
    (s.powered = true → exec i { s with agenda := r } = .next t → step s = .next (noteShares (noteEligible t))) ∧
    (s.powered = false → i ≠ .powerOn → step s = .fault .poweredDown)) ∧
  (∀ (s : State) (ns : Nat) (r : List Turn), s.agenda = .tick ns :: r → s.powered = true → ∃ t, step s = .next t ∧
    t.time = s.time + ns ∧ t.mem = s.mem) ∧
  (∀ s : State, s.agenda = [] → s.powered = true → step s = .next (noteShares (noteEligible (autoStep s)))) ∧
  (∀ (s : State) (w : W32), exec (.illegalEncoding w) s = .next (takeTrap s { cause := .illEnc, slot := s.slot }))

/-- 01, R8-R16, R30: words written out from their encodings decode to their instructions. -/
def Obligations.WordsDecodeAsTheirTablesSay : Prop :=
  decodeScalar 0x00304200#32 = .add 3#6 1#6 2#6 ∧                      -- 000000 000011 000001 000010 00000000
  decodeScalar 0x04103FFF#32 = .addi 1#6 0#6 0x3FFF#14 ∧               -- 000001 000001 000000 11111111111111
  decodeScalar 0x285FFFFF#32 = .lui 5#6 0xFFFFF#20 ∧                   -- 001010 000101 11111111111111111111
  decodeScalar 0x4010BFFF#32 = .beq 1#6 2#6 0x3FFF#14 ∧                -- 010000 000001 000010 11111111111111
  decodeScalar 0x59FFFFFF#32 = .jmp 0x1FFFFFF#26 ∧                     -- 010110 01111111111111111111111111
  decodeScalar 0x65800005#32 = .split 3#3 0#1 5#14 ∧                   -- 011001 011 0 00000000 00000000000101
  decodeScalar 0x88410008#32 = .ldw 4#6 4#6 8#14 ∧                     -- 100010 000100 000100 00000000001000
  decodeScalar 0xAC100F00#32 = .gets 1#6 15#6 ∧                        -- 101011 000001 000000 001111 00000000
  decodeScalar 0xD4200304#32 = .qpop 2#6 4#3 ∧                         -- 110101 000010 000000 00000011 00000 100
  decodeScalar 0xD0000000#32 = .step ∧                                 -- 110100, then zeros
  decodeScalar 0xE0000005#32 = .trap 5#6 ∧                             -- 111000 00000000 00000000 0000 000101
  decodeScalar 0xEC10C302#32 = .satomCas 1#6 3#6 3#6 ∧                 -- 111011 000001 000011 000011 00000010
  decodeScalar 0xF00C0000#32 = .setmode 48#6 ∧                         -- 111100 000000 110000 00000000000000
  decodeScalar 0xFC000000#32 = .illegalEncoding 0xFC000000#32 ∧        -- no row has opcode 111111
  decodeScalar 0xAC101100#32 = .illegalEncoding 0xAC101100#32          -- `gets` of a register beyond the last

/-- 01, R8-R17, R29: every instruction whose fields an encoding can hold is what its word decodes to, and every word is the word of
what it decodes to. -/
def Obligations.DecodeAndEncodeAgree : Prop :=
  (∀ i : Instr, wfScalar i = true → ∃ bs, encode i = some bs ∧ bs.length = 4 ∧ decode bs = some i) ∧
  (∀ (i : Instr) (op : BitVec 10) (f : LaneF), laneParts i = some (op, f) → ∃ bs, encode i = some bs ∧ bs.length = 12 ∧
    decode bs = some i) ∧
  (∀ w : W32, wfScalar (decodeScalar w) = true ∧ encodeScalar (decodeScalar w) = some w) ∧
  (∀ (w : W96) (i : Instr), decodeLane w = .ok i → encodeLane i = some w)

/-- 00, R4, 01, R9, 04, R82, 06, R157, 07, R179: what holds of memory, the stashes and the register files before a step holds after it,
whatever the step does. -/
def Obligations.EveryStepKeepsTheMachineWhole : Prop :=
  ∀ s t : State, Safety.inv s → step s = .next t → Safety.inv t
end

