-- ==== Sys2Proof/Laws/Memory.lean ====
section
/-!
SUPPORT. Cells: reading after writing, and the canonical form, kept by every operation on memory.
-/

namespace Sys2Proof.Machine

/-! ## Cells -/

theorem cellsFrom_mono {m : List Host.Cell} {n k : Nat} (h : cellsFrom k m = true) (l : n ≤ k) : cellsFrom n m = true := by
  cases m with
  | nil => rfl
  | cons c m =>
    simp only [cellsFrom, Bool.and_eq_true, decide_eq_true_eq] at h ⊢
    exact ⟨⟨by omega, h.1.2⟩, h.2⟩

theorem cellGet_below {m : List Host.Cell} {n a : Nat} (h : cellsFrom n m = true) (l : a < n) : cellGet m a = 0#8 := by
  induction m generalizing n with
  | nil => rfl
  | cons c m ih =>
    simp only [cellsFrom, Bool.and_eq_true, decide_eq_true_eq] at h
    have e : a ≠ c.1 := by omega
    simp only [cellGet, e, if_false]
    exact ih h.2 (by omega)

theorem cellSet_from {m : List Host.Cell} {n a : Nat} {v : Byte} (h : cellsFrom n m = true) (l : n ≤ a) :
    cellsFrom n (cellSet m a v) = true := by
  induction m generalizing n with
  | nil => by_cases e : v = 0#8 <;> simp [cellSet, cellsFrom, e, l]
  | cons c m ih =>
    obtain ⟨b, w⟩ := c
    simp only [cellsFrom, Bool.and_eq_true, decide_eq_true_eq, bne_iff_ne] at h
    unfold cellSet
    split
    · split
      · simp [cellsFrom, h]
      · rename_i h1 h2
        simp only [cellsFrom, Bool.and_eq_true, decide_eq_true_eq, bne_iff_ne]
        exact ⟨⟨l, h2⟩, ⟨by omega, h.1.2⟩, h.2⟩
    · split
      · split
        · exact cellsFrom_mono h.2 (by omega)
        · rename_i h1 h2 h3
          subst h2
          simp only [cellsFrom, Bool.and_eq_true, decide_eq_true_eq, bne_iff_ne]
          exact ⟨⟨l, h3⟩, h.2⟩
      · simp only [cellsFrom, Bool.and_eq_true, decide_eq_true_eq, bne_iff_ne]
        exact ⟨h.1, ih h.2 (by omega)⟩

theorem cellGet_cellSet {m : List Host.Cell} {n a : Nat} (h : cellsFrom n m = true) (v : Byte) (b : Nat) :
    cellGet (cellSet m a v) b = if b = a then v else cellGet m b := by
  induction m generalizing n with
  | nil => by_cases e : v = 0#8 <;> by_cases f : b = a <;> simp [cellSet, cellGet, e, f]
  | cons c m ih =>
    obtain ⟨x, w⟩ := c
    simp only [cellsFrom, Bool.and_eq_true, decide_eq_true_eq] at h
    have low : ∀ y, y ≤ x → cellGet m y = 0#8 := fun y hy => cellGet_below h.2 (by omega)
    unfold cellSet
    split
    · rename_i h1
      have hz : cellGet ((x, w) :: m) a = 0#8 := by
        have e : a ≠ x := by omega
        simpa [cellGet, e] using low a (by omega)
      split
      · rename_i h2
        by_cases f : b = a
        · subst f; simp [hz, h2]
        · simp [f]
      · by_cases f : b = a
        · simp [f, cellGet]
        · simp [cellGet, f]
    · split
      · rename_i h1 h2
        subst h2
        split
        · rename_i h3
          by_cases f : b = a
          · subst f; simp [low b (Nat.le_refl _), h3]
          · simp [cellGet, f]
        · by_cases f : b = a <;> simp [cellGet, f]
      · rename_i h1 h2
        by_cases f : b = x
        · subst f
          have e : b ≠ a := by omega
          simp [cellGet, e]
        · simp only [cellGet, f, if_false]
          exact ih h.2

theorem cellSet_wf {m : List Host.Cell} (h : Memory.wf m = true) (a : Nat) (v : Byte) : Memory.wf (cellSet m a v) = true :=
  cellSet_from h (Nat.zero_le _)

theorem cellWrite_wf {m : List Host.Cell} (h : Memory.wf m = true) (a : Nat) (bs : List Byte) :
    Memory.wf (cellWrite m a bs) = true := by
  induction bs generalizing m a with
  | nil => exact h
  | cons b bs ih => exact ih (cellSet_wf h a b) (a + 1)

/-- A write leaves every other byte alone. -/
theorem cellGet_cellWrite_out {m : List Host.Cell} (h : Memory.wf m = true) {a b : Nat} {bs : List Byte}
    (o : b < a ∨ a + bs.length ≤ b) : cellGet (cellWrite m a bs) b = cellGet m b := by
  induction bs generalizing m a with
  | nil => rfl
  | cons c bs ih =>
    simp only [List.length_cons] at o
    have e : b ≠ a := by omega
    rw [cellWrite, ih (cellSet_wf h a c) (by omega), cellGet_cellSet h, if_neg e]

/-- A write puts its bytes where it says. -/
theorem cellGet_cellWrite_in {m : List Host.Cell} (h : Memory.wf m = true) {a i : Nat} {bs : List Byte} (l : i < bs.length) :
    cellGet (cellWrite m a bs) (a + i) = bs[i] := by
  induction bs generalizing m a i with
  | nil => simp at l
  | cons c bs ih =>
    cases i with
    | zero =>
      rw [cellWrite, cellGet_cellWrite_out (cellSet_wf h a c) (by omega), cellGet_cellSet h]
      simp
    | succ i =>
      have := ih (cellSet_wf h a c) (a := a + 1) (i := i) (by simpa using l)
      rw [cellWrite, show a + (i + 1) = a + 1 + i by omega, this]
      simp

theorem cellsFrom_filter {m : List Host.Cell} {n : Nat} (h : cellsFrom n m = true) (p : Host.Cell → Bool) :
    cellsFrom n (m.filter p) = true := by
  induction m generalizing n with
  | nil => rfl
  | cons c m ih =>
    simp only [cellsFrom, Bool.and_eq_true, decide_eq_true_eq] at h
    by_cases e : p c
    · simp only [List.filter_cons, e, if_true, cellsFrom, Bool.and_eq_true, decide_eq_true_eq]
      exact ⟨h.1, ih h.2⟩
    · simp only [List.filter_cons, e, Bool.false_eq_true, if_false]
      exact cellsFrom_mono (ih h.2) (by omega)

theorem wf_filter {m : List Host.Cell} (h : Memory.wf m = true) (p : Host.Cell → Bool) : Memory.wf (m.filter p) = true :=
  cellsFrom_filter h p

theorem wf_foldl {α : Type} {m : List Host.Cell} (l : List α) (f : List Host.Cell → α → List Host.Cell)
    (hf : ∀ m x, Memory.wf m = true → Memory.wf (f m x) = true) (h : Memory.wf m = true) : Memory.wf (l.foldl f m) = true := by
  induction l generalizing m with
  | nil => exact h
  | cons x l ih => exact ih (hf m x h)

/-! ## The state's memories -/

/-- Device memory and the stashes are in canonical form. -/
def State.wf (s : State) : Prop := Memory.wf s.mem = true ∧ Memory.wf s.stash = true

theorem reset_wf : State.reset.wf := ⟨rfl, rfl⟩

theorem widenList_wf {s : State} (h : s.wf) (sc : Nat) (p : Narrow → Bool) (l : List Narrow) : (widenList s sc p l).wf := by
  induction l with
  | nil => exact h
  | cons n l ih =>
    unfold widenList
    dsimp only
    split
    · split
      · exact ⟨cellSet_wf ih.1 n.addr n.val, ih.2⟩
      · exact ih
    · exact ih

theorem widenFabric_wf {s : State} (h : s.wf) (p : Narrow → Bool) : (widenFabric s p).wf := by
  have f : ∀ (l : List Unpub) (t : State), t.wf → (l.foldl (fun t u => { t with
      mem := cellSet t.mem u.addr u.val, narrow := t.narrow.filter (fun n => n.addr != u.addr) }) t).wf := by
    intro l
    induction l with
    | nil => exact fun _ h => h
    | cons u l ih => exact fun t h => ih _ ⟨cellSet_wf h.1 u.addr u.val, h.2⟩
  exact f _ _ (widenList_wf (s := { s with narrow := [] }) h 5 p s.narrow)

theorem dirRoom_wf {s : State} (h : s.wf) (a : Nat) : (dirRoom s a).wf := by
  unfold dirRoom
  dsimp only
  split
  · exact h
  · split
    · exact widenFabric_wf h ..
    · exact h

theorem publishByte_wf {s : State} (h : s.wf) (c sc a : Nat) (v : Byte) (ws : List GKey) : (publishByte s c sc a v ws).wf := by
  unfold publishByte
  split
  · exact ⟨cellSet_wf h.1 a v, h.2⟩
  · exact dirRoom_wf h a

theorem publishAll_wf {s : State} (h : s.wf) (sc : Nat) (l : List Unpub) : (publishAll s sc l).wf := by
  induction l generalizing s with
  | nil => exact h
  | cons u l ih => exact ih (publishByte_wf h ..)

theorem publishWhere_wf {s : State} (h : s.wf) (sc : Nat) (p : Unpub → Bool) : (publishWhere s sc p).wf :=
  publishAll_wf (s := { s with unpub := s.unpub.filter (fun u => !p u) }) h sc _

theorem publishOver_wf {s : State} (h : s.wf) (sc : Nat) (p : Narrow → Bool) (q : Unpub → Bool) : (publishOver s sc p q).wf :=
  publishWhere_wf (widenList_wf (s := { s with narrow := [] }) h sc p s.narrow) ..

theorem widenWhere_wf {s : State} (h : s.wf) (sc : Nat) (p : Narrow → Bool) : (widenWhere s sc p).wf := publishOver_wf h ..

theorem passHost_wf {s : State} (h : s.wf) (p : Unpub → Bool) : (passHost s p).wf := h

theorem tickP_wf {s : State} (h : s.wf) : (tickP s).wf := h

theorem publishGroup_wf {s : State} (h : s.wf) (c : Nat) (g : GKey) (sc : Nat) : (publishGroup s c g sc).wf :=
  tickP_wf (passHost_wf (publishOver_wf h ..) _)

theorem forceBytes_wf {s : State} (h : s.wf) (a n : Nat) : (forceBytes s a n).wf := publishOver_wf h ..

theorem writeNow_wf {s : State} (h : s.wf) (a : Nat) (bs : List Byte) : (writeNow s a bs).wf :=
  ⟨cellWrite_wf (forceBytes_wf h a bs.length).1 a bs, (forceBytes_wf h a bs.length).2⟩

theorem storeOut_wf {s : State} (h : s.wf) (c a : Nat) (bs : List Byte) : (storeOut s c a bs).wf := ⟨cellWrite_wf h.1 a bs, h.2⟩

theorem forceAtomic_wf {s : State} (h : s.wf) (c a n : Nat) : (forceAtomic s c a n).wf := by
  unfold forceAtomic
  dsimp only
  split
  · exact widenWhere_wf (forceBytes_wf h a n) ..
  · exact forceBytes_wf h a n

theorem acceptStore_wf {s : State} (h : s.wf) (c a : Nat) (g : GKey) (bs : List Byte) : (acceptStore s c a g bs).wf := h

theorem acquire_wf {s : State} (h : s.wf) (c sc : Nat) : (acquire s c sc).wf := by
  unfold acquire
  apply tickP_wf
  split
  · exact h
  · exact widenWhere_wf h ..

theorem stashWrite_wf {s : State} (h : s.wf) (c a : Nat) (bs : List Byte) : (stashWrite s c a bs).wf :=
  ⟨h.1, cellWrite_wf h.2 ..⟩

end Sys2Proof.Machine
end

