-- ==== Sys2Proof/Laws/State.lean ====
section
/-!
SUPPORT. What each update of the state leaves alone, field by field.
-/

namespace Sys2Proof.Machine

/-! ### `setCur` -/

@[simp] theorem setCur_slot (s : State) (p : Path) : (setCur s p).slot = s.slot := rfl
@[simp] theorem setCur_others (s : State) (p : Path) : (setCur s p).others = s.others := rfl
@[simp] theorem setCur_ops (s : State) (p : Path) : (setCur s p).ops = s.ops := rfl
@[simp] theorem setCur_clauses (s : State) (p : Path) : (setCur s p).clauses = s.clauses := rfl
@[simp] theorem setCur_nextId (s : State) (p : Path) : (setCur s p).nextId = s.nextId := rfl
@[simp] theorem setCur_free (s : State) (p : Path) : (setCur s p).free = s.free := rfl
@[simp] theorem setCur_turns (s : State) (p : Path) : (setCur s p).turns = s.turns := rfl
@[simp] theorem setCur_round (s : State) (p : Path) : (setCur s p).round = s.round := rfl
@[simp] theorem setCur_agenda (s : State) (p : Path) : (setCur s p).agenda = s.agenda := rfl
@[simp] theorem setCur_mem (s : State) (p : Path) : (setCur s p).mem = s.mem := rfl
@[simp] theorem setCur_poison (s : State) (p : Path) : (setCur s p).poison = s.poison := rfl
@[simp] theorem setCur_memPoison (s : State) (p : Path) : (setCur s p).memPoison = s.memPoison := rfl
@[simp] theorem setCur_unpub (s : State) (p : Path) : (setCur s p).unpub = s.unpub := rfl
@[simp] theorem setCur_narrow (s : State) (p : Path) : (setCur s p).narrow = s.narrow := rfl
@[simp] theorem setCur_spec (s : State) (p : Path) : (setCur s p).spec = s.spec := rfl
@[simp] theorem setCur_lines (s : State) (p : Path) : (setCur s p).lines = s.lines := rfl
@[simp] theorem setCur_away (s : State) (p : Path) : (setCur s p).away = s.away := rfl
@[simp] theorem setCur_replied (s : State) (p : Path) : (setCur s p).replied = s.replied := rfl
@[simp] theorem setCur_reclaimed (s : State) (p : Path) : (setCur s p).reclaimed = s.reclaimed := rfl
@[simp] theorem setCur_pOrder (s : State) (p : Path) : (setCur s p).pOrder = s.pOrder := rfl
@[simp] theorem setCur_retries (s : State) (p : Path) : (setCur s p).retries = s.retries := rfl
@[simp] theorem setCur_stash (s : State) (p : Path) : (setCur s p).stash = s.stash := rfl
@[simp] theorem setCur_emptyLines (s : State) (p : Path) : (setCur s p).emptyLines = s.emptyLines := rfl
@[simp] theorem setCur_hostOut (s : State) (p : Path) : (setCur s p).hostOut = s.hostOut := rfl
@[simp] theorem setCur_hostHeld (s : State) (p : Path) : (setCur s p).hostHeld = s.hostHeld := rfl
@[simp] theorem setCur_tlb1 (s : State) (p : Path) : (setCur s p).tlb1 = s.tlb1 := rfl
@[simp] theorem setCur_tlb2 (s : State) (p : Path) : (setCur s p).tlb2 = s.tlb2 := rfl
@[simp] theorem setCur_tickets (s : State) (p : Path) : (setCur s p).tickets = s.tickets := rfl
@[simp] theorem setCur_qctxs (s : State) (p : Path) : (setCur s p).qctxs = s.qctxs := rfl
@[simp] theorem setCur_msgs (s : State) (p : Path) : (setCur s p).msgs = s.msgs := rfl
@[simp] theorem setCur_margin (s : State) (p : Path) : (setCur s p).margin = s.margin := rfl
@[simp] theorem setCur_mbuf (s : State) (p : Path) : (setCur s p).mbuf = s.mbuf := rfl
@[simp] theorem setCur_anns (s : State) (p : Path) : (setCur s p).anns = s.anns := rfl
@[simp] theorem setCur_parcels (s : State) (p : Path) : (setCur s p).parcels = s.parcels := rfl
@[simp] theorem setCur_launches (s : State) (p : Path) : (setCur s p).launches = s.launches := rfl
@[simp] theorem setCur_recs (s : State) (p : Path) : (setCur s p).recs = s.recs := rfl
@[simp] theorem setCur_seqs (s : State) (p : Path) : (setCur s p).seqs = s.seqs := rfl
@[simp] theorem setCur_doors (s : State) (p : Path) : (setCur s p).doors = s.doors := rfl
@[simp] theorem setCur_orders (s : State) (p : Path) : (setCur s p).orders = s.orders := rfl
@[simp] theorem setCur_prts (s : State) (p : Path) : (setCur s p).prts = s.prts := rfl
@[simp] theorem setCur_cores (s : State) (p : Path) : (setCur s p).cores = s.cores := rfl
@[simp] theorem setCur_time (s : State) (p : Path) : (setCur s p).time = s.time := rfl
@[simp] theorem setCur_mhz (s : State) (p : Path) : (setCur s p).mhz = s.mhz := rfl
@[simp] theorem setCur_powered (s : State) (p : Path) : (setCur s p).powered = s.powered := rfl
@[simp] theorem setCur_strict (s : State) (p : Path) : (setCur s p).strict = s.strict := rfl
@[simp] theorem setCur_holdover (s : State) (p : Path) : (setCur s p).holdover = s.holdover := rfl
@[simp] theorem setCur_fwOk (s : State) (p : Path) : (setCur s p).fwOk = s.fwOk := rfl
@[simp] theorem setCur_selfTest (s : State) (p : Path) : (setCur s p).selfTest = s.selfTest := rfl
@[simp] theorem setCur_started (s : State) (p : Path) : (setCur s p).started = s.started := rfl
@[simp] theorem setCur_notices (s : State) (p : Path) : (setCur s p).notices = s.notices := rfl
@[simp] theorem setCur_net (s : State) (p : Path) : (setCur s p).net = s.net := rfl
@[simp] theorem setCur_svc (s : State) (p : Path) : (setCur s p).svc = s.svc := rfl

/-! ### `advance` -/

@[simp] theorem advance_slot (s : State) : (advance s).slot = s.slot := rfl
@[simp] theorem advance_others (s : State) : (advance s).others = s.others := rfl
@[simp] theorem advance_ops (s : State) : (advance s).ops = s.ops := rfl
@[simp] theorem advance_clauses (s : State) : (advance s).clauses = s.clauses := rfl
@[simp] theorem advance_nextId (s : State) : (advance s).nextId = s.nextId := rfl
@[simp] theorem advance_free (s : State) : (advance s).free = s.free := rfl
@[simp] theorem advance_turns (s : State) : (advance s).turns = s.turns := rfl
@[simp] theorem advance_round (s : State) : (advance s).round = s.round := rfl
@[simp] theorem advance_agenda (s : State) : (advance s).agenda = s.agenda := rfl
@[simp] theorem advance_mem (s : State) : (advance s).mem = s.mem := rfl
@[simp] theorem advance_poison (s : State) : (advance s).poison = s.poison := rfl
@[simp] theorem advance_memPoison (s : State) : (advance s).memPoison = s.memPoison := rfl
@[simp] theorem advance_unpub (s : State) : (advance s).unpub = s.unpub := rfl
@[simp] theorem advance_narrow (s : State) : (advance s).narrow = s.narrow := rfl
@[simp] theorem advance_spec (s : State) : (advance s).spec = s.spec := rfl
@[simp] theorem advance_lines (s : State) : (advance s).lines = s.lines := rfl
@[simp] theorem advance_away (s : State) : (advance s).away = s.away := rfl
@[simp] theorem advance_replied (s : State) : (advance s).replied = s.replied := rfl
@[simp] theorem advance_reclaimed (s : State) : (advance s).reclaimed = s.reclaimed := rfl
@[simp] theorem advance_pOrder (s : State) : (advance s).pOrder = s.pOrder := rfl
@[simp] theorem advance_retries (s : State) : (advance s).retries = s.retries := rfl
@[simp] theorem advance_stash (s : State) : (advance s).stash = s.stash := rfl
@[simp] theorem advance_emptyLines (s : State) : (advance s).emptyLines = s.emptyLines := rfl
@[simp] theorem advance_hostOut (s : State) : (advance s).hostOut = s.hostOut := rfl
@[simp] theorem advance_hostHeld (s : State) : (advance s).hostHeld = s.hostHeld := rfl
@[simp] theorem advance_tlb1 (s : State) : (advance s).tlb1 = s.tlb1 := rfl
@[simp] theorem advance_tlb2 (s : State) : (advance s).tlb2 = s.tlb2 := rfl
@[simp] theorem advance_tickets (s : State) : (advance s).tickets = s.tickets := rfl
@[simp] theorem advance_qctxs (s : State) : (advance s).qctxs = s.qctxs := rfl
@[simp] theorem advance_msgs (s : State) : (advance s).msgs = s.msgs := rfl
@[simp] theorem advance_margin (s : State) : (advance s).margin = s.margin := rfl
@[simp] theorem advance_mbuf (s : State) : (advance s).mbuf = s.mbuf := rfl
@[simp] theorem advance_anns (s : State) : (advance s).anns = s.anns := rfl
@[simp] theorem advance_parcels (s : State) : (advance s).parcels = s.parcels := rfl
@[simp] theorem advance_launches (s : State) : (advance s).launches = s.launches := rfl
@[simp] theorem advance_recs (s : State) : (advance s).recs = s.recs := rfl
@[simp] theorem advance_seqs (s : State) : (advance s).seqs = s.seqs := rfl
@[simp] theorem advance_doors (s : State) : (advance s).doors = s.doors := rfl
@[simp] theorem advance_orders (s : State) : (advance s).orders = s.orders := rfl
@[simp] theorem advance_prts (s : State) : (advance s).prts = s.prts := rfl
@[simp] theorem advance_cores (s : State) : (advance s).cores = s.cores := rfl
@[simp] theorem advance_time (s : State) : (advance s).time = s.time := rfl
@[simp] theorem advance_mhz (s : State) : (advance s).mhz = s.mhz := rfl
@[simp] theorem advance_powered (s : State) : (advance s).powered = s.powered := rfl
@[simp] theorem advance_strict (s : State) : (advance s).strict = s.strict := rfl
@[simp] theorem advance_holdover (s : State) : (advance s).holdover = s.holdover := rfl
@[simp] theorem advance_fwOk (s : State) : (advance s).fwOk = s.fwOk := rfl
@[simp] theorem advance_selfTest (s : State) : (advance s).selfTest = s.selfTest := rfl
@[simp] theorem advance_started (s : State) : (advance s).started = s.started := rfl
@[simp] theorem advance_notices (s : State) : (advance s).notices = s.notices := rfl
@[simp] theorem advance_net (s : State) : (advance s).net = s.net := rfl
@[simp] theorem advance_svc (s : State) : (advance s).svc = s.svc := rfl

/-! ### `goTo` -/

@[simp] theorem goTo_slot (s : State) (pc : W64) : (goTo s pc).slot = s.slot := rfl
@[simp] theorem goTo_others (s : State) (pc : W64) : (goTo s pc).others = s.others := rfl
@[simp] theorem goTo_ops (s : State) (pc : W64) : (goTo s pc).ops = s.ops := rfl
@[simp] theorem goTo_clauses (s : State) (pc : W64) : (goTo s pc).clauses = s.clauses := rfl
@[simp] theorem goTo_nextId (s : State) (pc : W64) : (goTo s pc).nextId = s.nextId := rfl
@[simp] theorem goTo_free (s : State) (pc : W64) : (goTo s pc).free = s.free := rfl
@[simp] theorem goTo_turns (s : State) (pc : W64) : (goTo s pc).turns = s.turns := rfl
@[simp] theorem goTo_round (s : State) (pc : W64) : (goTo s pc).round = s.round := rfl
@[simp] theorem goTo_agenda (s : State) (pc : W64) : (goTo s pc).agenda = s.agenda := rfl
@[simp] theorem goTo_mem (s : State) (pc : W64) : (goTo s pc).mem = s.mem := rfl
@[simp] theorem goTo_poison (s : State) (pc : W64) : (goTo s pc).poison = s.poison := rfl
@[simp] theorem goTo_memPoison (s : State) (pc : W64) : (goTo s pc).memPoison = s.memPoison := rfl
@[simp] theorem goTo_unpub (s : State) (pc : W64) : (goTo s pc).unpub = s.unpub := rfl
@[simp] theorem goTo_narrow (s : State) (pc : W64) : (goTo s pc).narrow = s.narrow := rfl
@[simp] theorem goTo_spec (s : State) (pc : W64) : (goTo s pc).spec = s.spec := rfl
@[simp] theorem goTo_lines (s : State) (pc : W64) : (goTo s pc).lines = s.lines := rfl
@[simp] theorem goTo_away (s : State) (pc : W64) : (goTo s pc).away = s.away := rfl
@[simp] theorem goTo_replied (s : State) (pc : W64) : (goTo s pc).replied = s.replied := rfl
@[simp] theorem goTo_reclaimed (s : State) (pc : W64) : (goTo s pc).reclaimed = s.reclaimed := rfl
@[simp] theorem goTo_pOrder (s : State) (pc : W64) : (goTo s pc).pOrder = s.pOrder := rfl
@[simp] theorem goTo_retries (s : State) (pc : W64) : (goTo s pc).retries = s.retries := rfl
@[simp] theorem goTo_stash (s : State) (pc : W64) : (goTo s pc).stash = s.stash := rfl
@[simp] theorem goTo_emptyLines (s : State) (pc : W64) : (goTo s pc).emptyLines = s.emptyLines := rfl
@[simp] theorem goTo_hostOut (s : State) (pc : W64) : (goTo s pc).hostOut = s.hostOut := rfl
@[simp] theorem goTo_hostHeld (s : State) (pc : W64) : (goTo s pc).hostHeld = s.hostHeld := rfl
@[simp] theorem goTo_tlb1 (s : State) (pc : W64) : (goTo s pc).tlb1 = s.tlb1 := rfl
@[simp] theorem goTo_tlb2 (s : State) (pc : W64) : (goTo s pc).tlb2 = s.tlb2 := rfl
@[simp] theorem goTo_tickets (s : State) (pc : W64) : (goTo s pc).tickets = s.tickets := rfl
@[simp] theorem goTo_qctxs (s : State) (pc : W64) : (goTo s pc).qctxs = s.qctxs := rfl
@[simp] theorem goTo_msgs (s : State) (pc : W64) : (goTo s pc).msgs = s.msgs := rfl
@[simp] theorem goTo_margin (s : State) (pc : W64) : (goTo s pc).margin = s.margin := rfl
@[simp] theorem goTo_mbuf (s : State) (pc : W64) : (goTo s pc).mbuf = s.mbuf := rfl
@[simp] theorem goTo_anns (s : State) (pc : W64) : (goTo s pc).anns = s.anns := rfl
@[simp] theorem goTo_parcels (s : State) (pc : W64) : (goTo s pc).parcels = s.parcels := rfl
@[simp] theorem goTo_launches (s : State) (pc : W64) : (goTo s pc).launches = s.launches := rfl
@[simp] theorem goTo_recs (s : State) (pc : W64) : (goTo s pc).recs = s.recs := rfl
@[simp] theorem goTo_seqs (s : State) (pc : W64) : (goTo s pc).seqs = s.seqs := rfl
@[simp] theorem goTo_doors (s : State) (pc : W64) : (goTo s pc).doors = s.doors := rfl
@[simp] theorem goTo_orders (s : State) (pc : W64) : (goTo s pc).orders = s.orders := rfl
@[simp] theorem goTo_prts (s : State) (pc : W64) : (goTo s pc).prts = s.prts := rfl
@[simp] theorem goTo_cores (s : State) (pc : W64) : (goTo s pc).cores = s.cores := rfl
@[simp] theorem goTo_time (s : State) (pc : W64) : (goTo s pc).time = s.time := rfl
@[simp] theorem goTo_mhz (s : State) (pc : W64) : (goTo s pc).mhz = s.mhz := rfl
@[simp] theorem goTo_powered (s : State) (pc : W64) : (goTo s pc).powered = s.powered := rfl
@[simp] theorem goTo_strict (s : State) (pc : W64) : (goTo s pc).strict = s.strict := rfl
@[simp] theorem goTo_holdover (s : State) (pc : W64) : (goTo s pc).holdover = s.holdover := rfl
@[simp] theorem goTo_fwOk (s : State) (pc : W64) : (goTo s pc).fwOk = s.fwOk := rfl
@[simp] theorem goTo_selfTest (s : State) (pc : W64) : (goTo s pc).selfTest = s.selfTest := rfl
@[simp] theorem goTo_started (s : State) (pc : W64) : (goTo s pc).started = s.started := rfl
@[simp] theorem goTo_notices (s : State) (pc : W64) : (goTo s pc).notices = s.notices := rfl
@[simp] theorem goTo_net (s : State) (pc : W64) : (goTo s pc).net = s.net := rfl
@[simp] theorem goTo_svc (s : State) (pc : W64) : (goTo s pc).svc = s.svc := rfl

/-! ### `ws` -/

@[simp] theorem ws_slot (s : State) (r : SReg) (v : W64) : (ws s r v).slot = s.slot := by unfold ws; split <;> rfl
@[simp] theorem ws_others (s : State) (r : SReg) (v : W64) : (ws s r v).others = s.others := by unfold ws; split <;> rfl
@[simp] theorem ws_ops (s : State) (r : SReg) (v : W64) : (ws s r v).ops = s.ops := by unfold ws; split <;> rfl
@[simp] theorem ws_clauses (s : State) (r : SReg) (v : W64) : (ws s r v).clauses = s.clauses := by unfold ws; split <;> rfl
@[simp] theorem ws_nextId (s : State) (r : SReg) (v : W64) : (ws s r v).nextId = s.nextId := by unfold ws; split <;> rfl
@[simp] theorem ws_free (s : State) (r : SReg) (v : W64) : (ws s r v).free = s.free := by unfold ws; split <;> rfl
@[simp] theorem ws_turns (s : State) (r : SReg) (v : W64) : (ws s r v).turns = s.turns := by unfold ws; split <;> rfl
@[simp] theorem ws_round (s : State) (r : SReg) (v : W64) : (ws s r v).round = s.round := by unfold ws; split <;> rfl
@[simp] theorem ws_agenda (s : State) (r : SReg) (v : W64) : (ws s r v).agenda = s.agenda := by unfold ws; split <;> rfl
@[simp] theorem ws_mem (s : State) (r : SReg) (v : W64) : (ws s r v).mem = s.mem := by unfold ws; split <;> rfl
@[simp] theorem ws_poison (s : State) (r : SReg) (v : W64) : (ws s r v).poison = s.poison := by unfold ws; split <;> rfl
@[simp] theorem ws_memPoison (s : State) (r : SReg) (v : W64) : (ws s r v).memPoison = s.memPoison := by unfold ws; split <;> rfl
@[simp] theorem ws_unpub (s : State) (r : SReg) (v : W64) : (ws s r v).unpub = s.unpub := by unfold ws; split <;> rfl
@[simp] theorem ws_narrow (s : State) (r : SReg) (v : W64) : (ws s r v).narrow = s.narrow := by unfold ws; split <;> rfl
@[simp] theorem ws_spec (s : State) (r : SReg) (v : W64) : (ws s r v).spec = s.spec := by unfold ws; split <;> rfl
@[simp] theorem ws_lines (s : State) (r : SReg) (v : W64) : (ws s r v).lines = s.lines := by unfold ws; split <;> rfl
@[simp] theorem ws_away (s : State) (r : SReg) (v : W64) : (ws s r v).away = s.away := by unfold ws; split <;> rfl
@[simp] theorem ws_replied (s : State) (r : SReg) (v : W64) : (ws s r v).replied = s.replied := by unfold ws; split <;> rfl
@[simp] theorem ws_reclaimed (s : State) (r : SReg) (v : W64) : (ws s r v).reclaimed = s.reclaimed := by unfold ws; split <;> rfl
@[simp] theorem ws_pOrder (s : State) (r : SReg) (v : W64) : (ws s r v).pOrder = s.pOrder := by unfold ws; split <;> rfl
@[simp] theorem ws_retries (s : State) (r : SReg) (v : W64) : (ws s r v).retries = s.retries := by unfold ws; split <;> rfl
@[simp] theorem ws_stash (s : State) (r : SReg) (v : W64) : (ws s r v).stash = s.stash := by unfold ws; split <;> rfl
@[simp] theorem ws_emptyLines (s : State) (r : SReg) (v : W64) : (ws s r v).emptyLines = s.emptyLines := by unfold ws; split <;> rfl
@[simp] theorem ws_hostOut (s : State) (r : SReg) (v : W64) : (ws s r v).hostOut = s.hostOut := by unfold ws; split <;> rfl
@[simp] theorem ws_hostHeld (s : State) (r : SReg) (v : W64) : (ws s r v).hostHeld = s.hostHeld := by unfold ws; split <;> rfl
@[simp] theorem ws_tlb1 (s : State) (r : SReg) (v : W64) : (ws s r v).tlb1 = s.tlb1 := by unfold ws; split <;> rfl
@[simp] theorem ws_tlb2 (s : State) (r : SReg) (v : W64) : (ws s r v).tlb2 = s.tlb2 := by unfold ws; split <;> rfl
@[simp] theorem ws_tickets (s : State) (r : SReg) (v : W64) : (ws s r v).tickets = s.tickets := by unfold ws; split <;> rfl
@[simp] theorem ws_qctxs (s : State) (r : SReg) (v : W64) : (ws s r v).qctxs = s.qctxs := by unfold ws; split <;> rfl
@[simp] theorem ws_msgs (s : State) (r : SReg) (v : W64) : (ws s r v).msgs = s.msgs := by unfold ws; split <;> rfl
@[simp] theorem ws_margin (s : State) (r : SReg) (v : W64) : (ws s r v).margin = s.margin := by unfold ws; split <;> rfl
@[simp] theorem ws_mbuf (s : State) (r : SReg) (v : W64) : (ws s r v).mbuf = s.mbuf := by unfold ws; split <;> rfl
@[simp] theorem ws_anns (s : State) (r : SReg) (v : W64) : (ws s r v).anns = s.anns := by unfold ws; split <;> rfl
@[simp] theorem ws_parcels (s : State) (r : SReg) (v : W64) : (ws s r v).parcels = s.parcels := by unfold ws; split <;> rfl
@[simp] theorem ws_launches (s : State) (r : SReg) (v : W64) : (ws s r v).launches = s.launches := by unfold ws; split <;> rfl
@[simp] theorem ws_recs (s : State) (r : SReg) (v : W64) : (ws s r v).recs = s.recs := by unfold ws; split <;> rfl
@[simp] theorem ws_seqs (s : State) (r : SReg) (v : W64) : (ws s r v).seqs = s.seqs := by unfold ws; split <;> rfl
@[simp] theorem ws_doors (s : State) (r : SReg) (v : W64) : (ws s r v).doors = s.doors := by unfold ws; split <;> rfl
@[simp] theorem ws_orders (s : State) (r : SReg) (v : W64) : (ws s r v).orders = s.orders := by unfold ws; split <;> rfl
@[simp] theorem ws_prts (s : State) (r : SReg) (v : W64) : (ws s r v).prts = s.prts := by unfold ws; split <;> rfl
@[simp] theorem ws_cores (s : State) (r : SReg) (v : W64) : (ws s r v).cores = s.cores := by unfold ws; split <;> rfl
@[simp] theorem ws_time (s : State) (r : SReg) (v : W64) : (ws s r v).time = s.time := by unfold ws; split <;> rfl
@[simp] theorem ws_mhz (s : State) (r : SReg) (v : W64) : (ws s r v).mhz = s.mhz := by unfold ws; split <;> rfl
@[simp] theorem ws_powered (s : State) (r : SReg) (v : W64) : (ws s r v).powered = s.powered := by unfold ws; split <;> rfl
@[simp] theorem ws_strict (s : State) (r : SReg) (v : W64) : (ws s r v).strict = s.strict := by unfold ws; split <;> rfl
@[simp] theorem ws_holdover (s : State) (r : SReg) (v : W64) : (ws s r v).holdover = s.holdover := by unfold ws; split <;> rfl
@[simp] theorem ws_fwOk (s : State) (r : SReg) (v : W64) : (ws s r v).fwOk = s.fwOk := by unfold ws; split <;> rfl
@[simp] theorem ws_selfTest (s : State) (r : SReg) (v : W64) : (ws s r v).selfTest = s.selfTest := by unfold ws; split <;> rfl
@[simp] theorem ws_started (s : State) (r : SReg) (v : W64) : (ws s r v).started = s.started := by unfold ws; split <;> rfl
@[simp] theorem ws_notices (s : State) (r : SReg) (v : W64) : (ws s r v).notices = s.notices := by unfold ws; split <;> rfl
@[simp] theorem ws_net (s : State) (r : SReg) (v : W64) : (ws s r v).net = s.net := by unfold ws; split <;> rfl
@[simp] theorem ws_svc (s : State) (r : SReg) (v : W64) : (ws s r v).svc = s.svc := by unfold ws; split <;> rfl

/-! ### `setOp` -/

@[simp] theorem setOp_g (s : State) (o : Op) : (setOp s o).g = s.g := rfl
@[simp] theorem setOp_slot (s : State) (o : Op) : (setOp s o).slot = s.slot := rfl
@[simp] theorem setOp_others (s : State) (o : Op) : (setOp s o).others = s.others := rfl
@[simp] theorem setOp_clauses (s : State) (o : Op) : (setOp s o).clauses = s.clauses := rfl
@[simp] theorem setOp_nextId (s : State) (o : Op) : (setOp s o).nextId = s.nextId := rfl
@[simp] theorem setOp_free (s : State) (o : Op) : (setOp s o).free = s.free := rfl
@[simp] theorem setOp_turns (s : State) (o : Op) : (setOp s o).turns = s.turns := rfl
@[simp] theorem setOp_round (s : State) (o : Op) : (setOp s o).round = s.round := rfl
@[simp] theorem setOp_agenda (s : State) (o : Op) : (setOp s o).agenda = s.agenda := rfl
@[simp] theorem setOp_mem (s : State) (o : Op) : (setOp s o).mem = s.mem := rfl
@[simp] theorem setOp_poison (s : State) (o : Op) : (setOp s o).poison = s.poison := rfl
@[simp] theorem setOp_memPoison (s : State) (o : Op) : (setOp s o).memPoison = s.memPoison := rfl
@[simp] theorem setOp_unpub (s : State) (o : Op) : (setOp s o).unpub = s.unpub := rfl
@[simp] theorem setOp_narrow (s : State) (o : Op) : (setOp s o).narrow = s.narrow := rfl
@[simp] theorem setOp_spec (s : State) (o : Op) : (setOp s o).spec = s.spec := rfl
@[simp] theorem setOp_lines (s : State) (o : Op) : (setOp s o).lines = s.lines := rfl
@[simp] theorem setOp_away (s : State) (o : Op) : (setOp s o).away = s.away := rfl
@[simp] theorem setOp_replied (s : State) (o : Op) : (setOp s o).replied = s.replied := rfl
@[simp] theorem setOp_reclaimed (s : State) (o : Op) : (setOp s o).reclaimed = s.reclaimed := rfl
@[simp] theorem setOp_pOrder (s : State) (o : Op) : (setOp s o).pOrder = s.pOrder := rfl
@[simp] theorem setOp_retries (s : State) (o : Op) : (setOp s o).retries = s.retries := rfl
@[simp] theorem setOp_stash (s : State) (o : Op) : (setOp s o).stash = s.stash := rfl
@[simp] theorem setOp_emptyLines (s : State) (o : Op) : (setOp s o).emptyLines = s.emptyLines := rfl
@[simp] theorem setOp_hostOut (s : State) (o : Op) : (setOp s o).hostOut = s.hostOut := rfl
@[simp] theorem setOp_hostHeld (s : State) (o : Op) : (setOp s o).hostHeld = s.hostHeld := rfl
@[simp] theorem setOp_tlb1 (s : State) (o : Op) : (setOp s o).tlb1 = s.tlb1 := rfl
@[simp] theorem setOp_tlb2 (s : State) (o : Op) : (setOp s o).tlb2 = s.tlb2 := rfl
@[simp] theorem setOp_tickets (s : State) (o : Op) : (setOp s o).tickets = s.tickets := rfl
@[simp] theorem setOp_qctxs (s : State) (o : Op) : (setOp s o).qctxs = s.qctxs := rfl
@[simp] theorem setOp_msgs (s : State) (o : Op) : (setOp s o).msgs = s.msgs := rfl
@[simp] theorem setOp_margin (s : State) (o : Op) : (setOp s o).margin = s.margin := rfl
@[simp] theorem setOp_mbuf (s : State) (o : Op) : (setOp s o).mbuf = s.mbuf := rfl
@[simp] theorem setOp_anns (s : State) (o : Op) : (setOp s o).anns = s.anns := rfl
@[simp] theorem setOp_parcels (s : State) (o : Op) : (setOp s o).parcels = s.parcels := rfl
@[simp] theorem setOp_launches (s : State) (o : Op) : (setOp s o).launches = s.launches := rfl
@[simp] theorem setOp_recs (s : State) (o : Op) : (setOp s o).recs = s.recs := rfl
@[simp] theorem setOp_seqs (s : State) (o : Op) : (setOp s o).seqs = s.seqs := rfl
@[simp] theorem setOp_doors (s : State) (o : Op) : (setOp s o).doors = s.doors := rfl
@[simp] theorem setOp_orders (s : State) (o : Op) : (setOp s o).orders = s.orders := rfl
@[simp] theorem setOp_prts (s : State) (o : Op) : (setOp s o).prts = s.prts := rfl
@[simp] theorem setOp_cores (s : State) (o : Op) : (setOp s o).cores = s.cores := rfl
@[simp] theorem setOp_time (s : State) (o : Op) : (setOp s o).time = s.time := rfl
@[simp] theorem setOp_mhz (s : State) (o : Op) : (setOp s o).mhz = s.mhz := rfl
@[simp] theorem setOp_powered (s : State) (o : Op) : (setOp s o).powered = s.powered := rfl
@[simp] theorem setOp_strict (s : State) (o : Op) : (setOp s o).strict = s.strict := rfl
@[simp] theorem setOp_holdover (s : State) (o : Op) : (setOp s o).holdover = s.holdover := rfl
@[simp] theorem setOp_fwOk (s : State) (o : Op) : (setOp s o).fwOk = s.fwOk := rfl
@[simp] theorem setOp_selfTest (s : State) (o : Op) : (setOp s o).selfTest = s.selfTest := rfl
@[simp] theorem setOp_started (s : State) (o : Op) : (setOp s o).started = s.started := rfl
@[simp] theorem setOp_notices (s : State) (o : Op) : (setOp s o).notices = s.notices := rfl
@[simp] theorem setOp_net (s : State) (o : Op) : (setOp s o).net = s.net := rfl
@[simp] theorem setOp_svc (s : State) (o : Op) : (setOp s o).svc = s.svc := rfl

/-! ### `addOp` -/

@[simp] theorem addOp_g (s : State) (o : Op) : (addOp s o).g = s.g := rfl
@[simp] theorem addOp_slot (s : State) (o : Op) : (addOp s o).slot = s.slot := rfl
@[simp] theorem addOp_others (s : State) (o : Op) : (addOp s o).others = s.others := rfl
@[simp] theorem addOp_clauses (s : State) (o : Op) : (addOp s o).clauses = s.clauses := rfl
@[simp] theorem addOp_free (s : State) (o : Op) : (addOp s o).free = s.free := rfl
@[simp] theorem addOp_turns (s : State) (o : Op) : (addOp s o).turns = s.turns := rfl
@[simp] theorem addOp_round (s : State) (o : Op) : (addOp s o).round = s.round := rfl
@[simp] theorem addOp_agenda (s : State) (o : Op) : (addOp s o).agenda = s.agenda := rfl
@[simp] theorem addOp_mem (s : State) (o : Op) : (addOp s o).mem = s.mem := rfl
@[simp] theorem addOp_poison (s : State) (o : Op) : (addOp s o).poison = s.poison := rfl
@[simp] theorem addOp_memPoison (s : State) (o : Op) : (addOp s o).memPoison = s.memPoison := rfl
@[simp] theorem addOp_unpub (s : State) (o : Op) : (addOp s o).unpub = s.unpub := rfl
@[simp] theorem addOp_narrow (s : State) (o : Op) : (addOp s o).narrow = s.narrow := rfl
@[simp] theorem addOp_spec (s : State) (o : Op) : (addOp s o).spec = s.spec := rfl
@[simp] theorem addOp_lines (s : State) (o : Op) : (addOp s o).lines = s.lines := rfl
@[simp] theorem addOp_away (s : State) (o : Op) : (addOp s o).away = s.away := rfl
@[simp] theorem addOp_replied (s : State) (o : Op) : (addOp s o).replied = s.replied := rfl
@[simp] theorem addOp_reclaimed (s : State) (o : Op) : (addOp s o).reclaimed = s.reclaimed := rfl
@[simp] theorem addOp_pOrder (s : State) (o : Op) : (addOp s o).pOrder = s.pOrder := rfl
@[simp] theorem addOp_retries (s : State) (o : Op) : (addOp s o).retries = s.retries := rfl
@[simp] theorem addOp_stash (s : State) (o : Op) : (addOp s o).stash = s.stash := rfl
@[simp] theorem addOp_emptyLines (s : State) (o : Op) : (addOp s o).emptyLines = s.emptyLines := rfl
@[simp] theorem addOp_hostOut (s : State) (o : Op) : (addOp s o).hostOut = s.hostOut := rfl
@[simp] theorem addOp_hostHeld (s : State) (o : Op) : (addOp s o).hostHeld = s.hostHeld := rfl
@[simp] theorem addOp_tlb1 (s : State) (o : Op) : (addOp s o).tlb1 = s.tlb1 := rfl
@[simp] theorem addOp_tlb2 (s : State) (o : Op) : (addOp s o).tlb2 = s.tlb2 := rfl
@[simp] theorem addOp_tickets (s : State) (o : Op) : (addOp s o).tickets = s.tickets := rfl
@[simp] theorem addOp_qctxs (s : State) (o : Op) : (addOp s o).qctxs = s.qctxs := rfl
@[simp] theorem addOp_msgs (s : State) (o : Op) : (addOp s o).msgs = s.msgs := rfl
@[simp] theorem addOp_margin (s : State) (o : Op) : (addOp s o).margin = s.margin := rfl
@[simp] theorem addOp_mbuf (s : State) (o : Op) : (addOp s o).mbuf = s.mbuf := rfl
@[simp] theorem addOp_anns (s : State) (o : Op) : (addOp s o).anns = s.anns := rfl
@[simp] theorem addOp_parcels (s : State) (o : Op) : (addOp s o).parcels = s.parcels := rfl
@[simp] theorem addOp_launches (s : State) (o : Op) : (addOp s o).launches = s.launches := rfl
@[simp] theorem addOp_recs (s : State) (o : Op) : (addOp s o).recs = s.recs := rfl
@[simp] theorem addOp_seqs (s : State) (o : Op) : (addOp s o).seqs = s.seqs := rfl
@[simp] theorem addOp_doors (s : State) (o : Op) : (addOp s o).doors = s.doors := rfl
@[simp] theorem addOp_orders (s : State) (o : Op) : (addOp s o).orders = s.orders := rfl
@[simp] theorem addOp_prts (s : State) (o : Op) : (addOp s o).prts = s.prts := rfl
@[simp] theorem addOp_cores (s : State) (o : Op) : (addOp s o).cores = s.cores := rfl
@[simp] theorem addOp_time (s : State) (o : Op) : (addOp s o).time = s.time := rfl
@[simp] theorem addOp_mhz (s : State) (o : Op) : (addOp s o).mhz = s.mhz := rfl
@[simp] theorem addOp_powered (s : State) (o : Op) : (addOp s o).powered = s.powered := rfl
@[simp] theorem addOp_strict (s : State) (o : Op) : (addOp s o).strict = s.strict := rfl
@[simp] theorem addOp_holdover (s : State) (o : Op) : (addOp s o).holdover = s.holdover := rfl
@[simp] theorem addOp_fwOk (s : State) (o : Op) : (addOp s o).fwOk = s.fwOk := rfl
@[simp] theorem addOp_selfTest (s : State) (o : Op) : (addOp s o).selfTest = s.selfTest := rfl
@[simp] theorem addOp_started (s : State) (o : Op) : (addOp s o).started = s.started := rfl
@[simp] theorem addOp_notices (s : State) (o : Op) : (addOp s o).notices = s.notices := rfl
@[simp] theorem addOp_net (s : State) (o : Op) : (addOp s o).net = s.net := rfl
@[simp] theorem addOp_svc (s : State) (o : Op) : (addOp s o).svc = s.svc := rfl

/-! ### `pruneOps` -/

@[simp] theorem pruneOps_g (s : State) : (pruneOps s).g = s.g := rfl
@[simp] theorem pruneOps_slot (s : State) : (pruneOps s).slot = s.slot := rfl
@[simp] theorem pruneOps_others (s : State) : (pruneOps s).others = s.others := rfl
@[simp] theorem pruneOps_clauses (s : State) : (pruneOps s).clauses = s.clauses := rfl
@[simp] theorem pruneOps_nextId (s : State) : (pruneOps s).nextId = s.nextId := rfl
@[simp] theorem pruneOps_free (s : State) : (pruneOps s).free = s.free := rfl
@[simp] theorem pruneOps_turns (s : State) : (pruneOps s).turns = s.turns := rfl
@[simp] theorem pruneOps_round (s : State) : (pruneOps s).round = s.round := rfl
@[simp] theorem pruneOps_agenda (s : State) : (pruneOps s).agenda = s.agenda := rfl
@[simp] theorem pruneOps_mem (s : State) : (pruneOps s).mem = s.mem := rfl
@[simp] theorem pruneOps_poison (s : State) : (pruneOps s).poison = s.poison := rfl
@[simp] theorem pruneOps_memPoison (s : State) : (pruneOps s).memPoison = s.memPoison := rfl
@[simp] theorem pruneOps_unpub (s : State) : (pruneOps s).unpub = s.unpub := rfl
@[simp] theorem pruneOps_narrow (s : State) : (pruneOps s).narrow = s.narrow := rfl
@[simp] theorem pruneOps_spec (s : State) : (pruneOps s).spec = s.spec := rfl
@[simp] theorem pruneOps_lines (s : State) : (pruneOps s).lines = s.lines := rfl
@[simp] theorem pruneOps_away (s : State) : (pruneOps s).away = s.away := rfl
@[simp] theorem pruneOps_replied (s : State) : (pruneOps s).replied = s.replied := rfl
@[simp] theorem pruneOps_reclaimed (s : State) : (pruneOps s).reclaimed = s.reclaimed := rfl
@[simp] theorem pruneOps_pOrder (s : State) : (pruneOps s).pOrder = s.pOrder := rfl
@[simp] theorem pruneOps_retries (s : State) : (pruneOps s).retries = s.retries := rfl
@[simp] theorem pruneOps_stash (s : State) : (pruneOps s).stash = s.stash := rfl
@[simp] theorem pruneOps_emptyLines (s : State) : (pruneOps s).emptyLines = s.emptyLines := rfl
@[simp] theorem pruneOps_hostOut (s : State) : (pruneOps s).hostOut = s.hostOut := rfl
@[simp] theorem pruneOps_hostHeld (s : State) : (pruneOps s).hostHeld = s.hostHeld := rfl
@[simp] theorem pruneOps_tlb1 (s : State) : (pruneOps s).tlb1 = s.tlb1 := rfl
@[simp] theorem pruneOps_tlb2 (s : State) : (pruneOps s).tlb2 = s.tlb2 := rfl
@[simp] theorem pruneOps_tickets (s : State) : (pruneOps s).tickets = s.tickets := rfl
@[simp] theorem pruneOps_qctxs (s : State) : (pruneOps s).qctxs = s.qctxs := rfl
@[simp] theorem pruneOps_msgs (s : State) : (pruneOps s).msgs = s.msgs := rfl
@[simp] theorem pruneOps_margin (s : State) : (pruneOps s).margin = s.margin := rfl
@[simp] theorem pruneOps_mbuf (s : State) : (pruneOps s).mbuf = s.mbuf := rfl
@[simp] theorem pruneOps_anns (s : State) : (pruneOps s).anns = s.anns := rfl
@[simp] theorem pruneOps_parcels (s : State) : (pruneOps s).parcels = s.parcels := rfl
@[simp] theorem pruneOps_launches (s : State) : (pruneOps s).launches = s.launches := rfl
@[simp] theorem pruneOps_recs (s : State) : (pruneOps s).recs = s.recs := rfl
@[simp] theorem pruneOps_seqs (s : State) : (pruneOps s).seqs = s.seqs := rfl
@[simp] theorem pruneOps_doors (s : State) : (pruneOps s).doors = s.doors := rfl
@[simp] theorem pruneOps_orders (s : State) : (pruneOps s).orders = s.orders := rfl
@[simp] theorem pruneOps_prts (s : State) : (pruneOps s).prts = s.prts := rfl
@[simp] theorem pruneOps_cores (s : State) : (pruneOps s).cores = s.cores := rfl
@[simp] theorem pruneOps_time (s : State) : (pruneOps s).time = s.time := rfl
@[simp] theorem pruneOps_mhz (s : State) : (pruneOps s).mhz = s.mhz := rfl
@[simp] theorem pruneOps_powered (s : State) : (pruneOps s).powered = s.powered := rfl
@[simp] theorem pruneOps_strict (s : State) : (pruneOps s).strict = s.strict := rfl
@[simp] theorem pruneOps_holdover (s : State) : (pruneOps s).holdover = s.holdover := rfl
@[simp] theorem pruneOps_fwOk (s : State) : (pruneOps s).fwOk = s.fwOk := rfl
@[simp] theorem pruneOps_selfTest (s : State) : (pruneOps s).selfTest = s.selfTest := rfl
@[simp] theorem pruneOps_started (s : State) : (pruneOps s).started = s.started := rfl
@[simp] theorem pruneOps_notices (s : State) : (pruneOps s).notices = s.notices := rfl
@[simp] theorem pruneOps_net (s : State) : (pruneOps s).net = s.net := rfl
@[simp] theorem pruneOps_svc (s : State) : (pruneOps s).svc = s.svc := rfl

/-! ### `setParcel` -/

@[simp] theorem setParcel_g (s : State) (p : Parcel) : (setParcel s p).g = s.g := rfl
@[simp] theorem setParcel_slot (s : State) (p : Parcel) : (setParcel s p).slot = s.slot := rfl
@[simp] theorem setParcel_others (s : State) (p : Parcel) : (setParcel s p).others = s.others := rfl
@[simp] theorem setParcel_ops (s : State) (p : Parcel) : (setParcel s p).ops = s.ops := rfl
@[simp] theorem setParcel_clauses (s : State) (p : Parcel) : (setParcel s p).clauses = s.clauses := rfl
@[simp] theorem setParcel_nextId (s : State) (p : Parcel) : (setParcel s p).nextId = s.nextId := rfl
@[simp] theorem setParcel_free (s : State) (p : Parcel) : (setParcel s p).free = s.free := rfl
@[simp] theorem setParcel_turns (s : State) (p : Parcel) : (setParcel s p).turns = s.turns := rfl
@[simp] theorem setParcel_round (s : State) (p : Parcel) : (setParcel s p).round = s.round := rfl
@[simp] theorem setParcel_agenda (s : State) (p : Parcel) : (setParcel s p).agenda = s.agenda := rfl
@[simp] theorem setParcel_mem (s : State) (p : Parcel) : (setParcel s p).mem = s.mem := rfl
@[simp] theorem setParcel_poison (s : State) (p : Parcel) : (setParcel s p).poison = s.poison := rfl
@[simp] theorem setParcel_memPoison (s : State) (p : Parcel) : (setParcel s p).memPoison = s.memPoison := rfl
@[simp] theorem setParcel_unpub (s : State) (p : Parcel) : (setParcel s p).unpub = s.unpub := rfl
@[simp] theorem setParcel_narrow (s : State) (p : Parcel) : (setParcel s p).narrow = s.narrow := rfl
@[simp] theorem setParcel_spec (s : State) (p : Parcel) : (setParcel s p).spec = s.spec := rfl
@[simp] theorem setParcel_lines (s : State) (p : Parcel) : (setParcel s p).lines = s.lines := rfl
@[simp] theorem setParcel_away (s : State) (p : Parcel) : (setParcel s p).away = s.away := rfl
@[simp] theorem setParcel_replied (s : State) (p : Parcel) : (setParcel s p).replied = s.replied := rfl
@[simp] theorem setParcel_reclaimed (s : State) (p : Parcel) : (setParcel s p).reclaimed = s.reclaimed := rfl
@[simp] theorem setParcel_pOrder (s : State) (p : Parcel) : (setParcel s p).pOrder = s.pOrder := rfl
@[simp] theorem setParcel_retries (s : State) (p : Parcel) : (setParcel s p).retries = s.retries := rfl
@[simp] theorem setParcel_stash (s : State) (p : Parcel) : (setParcel s p).stash = s.stash := rfl
@[simp] theorem setParcel_emptyLines (s : State) (p : Parcel) : (setParcel s p).emptyLines = s.emptyLines := rfl
@[simp] theorem setParcel_hostOut (s : State) (p : Parcel) : (setParcel s p).hostOut = s.hostOut := rfl
@[simp] theorem setParcel_hostHeld (s : State) (p : Parcel) : (setParcel s p).hostHeld = s.hostHeld := rfl
@[simp] theorem setParcel_tlb1 (s : State) (p : Parcel) : (setParcel s p).tlb1 = s.tlb1 := rfl
@[simp] theorem setParcel_tlb2 (s : State) (p : Parcel) : (setParcel s p).tlb2 = s.tlb2 := rfl
@[simp] theorem setParcel_tickets (s : State) (p : Parcel) : (setParcel s p).tickets = s.tickets := rfl
@[simp] theorem setParcel_qctxs (s : State) (p : Parcel) : (setParcel s p).qctxs = s.qctxs := rfl
@[simp] theorem setParcel_msgs (s : State) (p : Parcel) : (setParcel s p).msgs = s.msgs := rfl
@[simp] theorem setParcel_margin (s : State) (p : Parcel) : (setParcel s p).margin = s.margin := rfl
@[simp] theorem setParcel_mbuf (s : State) (p : Parcel) : (setParcel s p).mbuf = s.mbuf := rfl
@[simp] theorem setParcel_anns (s : State) (p : Parcel) : (setParcel s p).anns = s.anns := rfl
@[simp] theorem setParcel_launches (s : State) (p : Parcel) : (setParcel s p).launches = s.launches := rfl
@[simp] theorem setParcel_recs (s : State) (p : Parcel) : (setParcel s p).recs = s.recs := rfl
@[simp] theorem setParcel_seqs (s : State) (p : Parcel) : (setParcel s p).seqs = s.seqs := rfl
@[simp] theorem setParcel_doors (s : State) (p : Parcel) : (setParcel s p).doors = s.doors := rfl
@[simp] theorem setParcel_orders (s : State) (p : Parcel) : (setParcel s p).orders = s.orders := rfl
@[simp] theorem setParcel_prts (s : State) (p : Parcel) : (setParcel s p).prts = s.prts := rfl
@[simp] theorem setParcel_cores (s : State) (p : Parcel) : (setParcel s p).cores = s.cores := rfl
@[simp] theorem setParcel_time (s : State) (p : Parcel) : (setParcel s p).time = s.time := rfl
@[simp] theorem setParcel_mhz (s : State) (p : Parcel) : (setParcel s p).mhz = s.mhz := rfl
@[simp] theorem setParcel_powered (s : State) (p : Parcel) : (setParcel s p).powered = s.powered := rfl
@[simp] theorem setParcel_strict (s : State) (p : Parcel) : (setParcel s p).strict = s.strict := rfl
@[simp] theorem setParcel_holdover (s : State) (p : Parcel) : (setParcel s p).holdover = s.holdover := rfl
@[simp] theorem setParcel_fwOk (s : State) (p : Parcel) : (setParcel s p).fwOk = s.fwOk := rfl
@[simp] theorem setParcel_selfTest (s : State) (p : Parcel) : (setParcel s p).selfTest = s.selfTest := rfl
@[simp] theorem setParcel_started (s : State) (p : Parcel) : (setParcel s p).started = s.started := rfl
@[simp] theorem setParcel_notices (s : State) (p : Parcel) : (setParcel s p).notices = s.notices := rfl
@[simp] theorem setParcel_net (s : State) (p : Parcel) : (setParcel s p).net = s.net := rfl
@[simp] theorem setParcel_svc (s : State) (p : Parcel) : (setParcel s p).svc = s.svc := rfl

/-! ### `setLaunch` -/

@[simp] theorem setLaunch_g (s : State) (l : Launch) : (setLaunch s l).g = s.g := rfl
@[simp] theorem setLaunch_slot (s : State) (l : Launch) : (setLaunch s l).slot = s.slot := rfl
@[simp] theorem setLaunch_others (s : State) (l : Launch) : (setLaunch s l).others = s.others := rfl
@[simp] theorem setLaunch_ops (s : State) (l : Launch) : (setLaunch s l).ops = s.ops := rfl
@[simp] theorem setLaunch_clauses (s : State) (l : Launch) : (setLaunch s l).clauses = s.clauses := rfl
@[simp] theorem setLaunch_nextId (s : State) (l : Launch) : (setLaunch s l).nextId = s.nextId := rfl
@[simp] theorem setLaunch_free (s : State) (l : Launch) : (setLaunch s l).free = s.free := rfl
@[simp] theorem setLaunch_turns (s : State) (l : Launch) : (setLaunch s l).turns = s.turns := rfl
@[simp] theorem setLaunch_round (s : State) (l : Launch) : (setLaunch s l).round = s.round := rfl
@[simp] theorem setLaunch_agenda (s : State) (l : Launch) : (setLaunch s l).agenda = s.agenda := rfl
@[simp] theorem setLaunch_mem (s : State) (l : Launch) : (setLaunch s l).mem = s.mem := rfl
@[simp] theorem setLaunch_poison (s : State) (l : Launch) : (setLaunch s l).poison = s.poison := rfl
@[simp] theorem setLaunch_memPoison (s : State) (l : Launch) : (setLaunch s l).memPoison = s.memPoison := rfl
@[simp] theorem setLaunch_unpub (s : State) (l : Launch) : (setLaunch s l).unpub = s.unpub := rfl
@[simp] theorem setLaunch_narrow (s : State) (l : Launch) : (setLaunch s l).narrow = s.narrow := rfl
@[simp] theorem setLaunch_spec (s : State) (l : Launch) : (setLaunch s l).spec = s.spec := rfl
@[simp] theorem setLaunch_lines (s : State) (l : Launch) : (setLaunch s l).lines = s.lines := rfl
@[simp] theorem setLaunch_away (s : State) (l : Launch) : (setLaunch s l).away = s.away := rfl
@[simp] theorem setLaunch_replied (s : State) (l : Launch) : (setLaunch s l).replied = s.replied := rfl
@[simp] theorem setLaunch_reclaimed (s : State) (l : Launch) : (setLaunch s l).reclaimed = s.reclaimed := rfl
@[simp] theorem setLaunch_pOrder (s : State) (l : Launch) : (setLaunch s l).pOrder = s.pOrder := rfl
@[simp] theorem setLaunch_retries (s : State) (l : Launch) : (setLaunch s l).retries = s.retries := rfl
@[simp] theorem setLaunch_stash (s : State) (l : Launch) : (setLaunch s l).stash = s.stash := rfl
@[simp] theorem setLaunch_emptyLines (s : State) (l : Launch) : (setLaunch s l).emptyLines = s.emptyLines := rfl
@[simp] theorem setLaunch_hostOut (s : State) (l : Launch) : (setLaunch s l).hostOut = s.hostOut := rfl
@[simp] theorem setLaunch_hostHeld (s : State) (l : Launch) : (setLaunch s l).hostHeld = s.hostHeld := rfl
@[simp] theorem setLaunch_tlb1 (s : State) (l : Launch) : (setLaunch s l).tlb1 = s.tlb1 := rfl
@[simp] theorem setLaunch_tlb2 (s : State) (l : Launch) : (setLaunch s l).tlb2 = s.tlb2 := rfl
@[simp] theorem setLaunch_tickets (s : State) (l : Launch) : (setLaunch s l).tickets = s.tickets := rfl
@[simp] theorem setLaunch_qctxs (s : State) (l : Launch) : (setLaunch s l).qctxs = s.qctxs := rfl
@[simp] theorem setLaunch_msgs (s : State) (l : Launch) : (setLaunch s l).msgs = s.msgs := rfl
@[simp] theorem setLaunch_margin (s : State) (l : Launch) : (setLaunch s l).margin = s.margin := rfl
@[simp] theorem setLaunch_mbuf (s : State) (l : Launch) : (setLaunch s l).mbuf = s.mbuf := rfl
@[simp] theorem setLaunch_anns (s : State) (l : Launch) : (setLaunch s l).anns = s.anns := rfl
@[simp] theorem setLaunch_parcels (s : State) (l : Launch) : (setLaunch s l).parcels = s.parcels := rfl
@[simp] theorem setLaunch_recs (s : State) (l : Launch) : (setLaunch s l).recs = s.recs := rfl
@[simp] theorem setLaunch_seqs (s : State) (l : Launch) : (setLaunch s l).seqs = s.seqs := rfl
@[simp] theorem setLaunch_doors (s : State) (l : Launch) : (setLaunch s l).doors = s.doors := rfl
@[simp] theorem setLaunch_orders (s : State) (l : Launch) : (setLaunch s l).orders = s.orders := rfl
@[simp] theorem setLaunch_prts (s : State) (l : Launch) : (setLaunch s l).prts = s.prts := rfl
@[simp] theorem setLaunch_cores (s : State) (l : Launch) : (setLaunch s l).cores = s.cores := rfl
@[simp] theorem setLaunch_time (s : State) (l : Launch) : (setLaunch s l).time = s.time := rfl
@[simp] theorem setLaunch_mhz (s : State) (l : Launch) : (setLaunch s l).mhz = s.mhz := rfl
@[simp] theorem setLaunch_powered (s : State) (l : Launch) : (setLaunch s l).powered = s.powered := rfl
@[simp] theorem setLaunch_strict (s : State) (l : Launch) : (setLaunch s l).strict = s.strict := rfl
@[simp] theorem setLaunch_holdover (s : State) (l : Launch) : (setLaunch s l).holdover = s.holdover := rfl
@[simp] theorem setLaunch_fwOk (s : State) (l : Launch) : (setLaunch s l).fwOk = s.fwOk := rfl
@[simp] theorem setLaunch_selfTest (s : State) (l : Launch) : (setLaunch s l).selfTest = s.selfTest := rfl
@[simp] theorem setLaunch_started (s : State) (l : Launch) : (setLaunch s l).started = s.started := rfl
@[simp] theorem setLaunch_notices (s : State) (l : Launch) : (setLaunch s l).notices = s.notices := rfl
@[simp] theorem setLaunch_net (s : State) (l : Launch) : (setLaunch s l).net = s.net := rfl
@[simp] theorem setLaunch_svc (s : State) (l : Launch) : (setLaunch s l).svc = s.svc := rfl

/-! ### `setPrt` -/

@[simp] theorem setPrt_g (s : State) (p : Prt) : (setPrt s p).g = s.g := by unfold setPrt; split <;> rfl
@[simp] theorem setPrt_slot (s : State) (p : Prt) : (setPrt s p).slot = s.slot := by unfold setPrt; split <;> rfl
@[simp] theorem setPrt_others (s : State) (p : Prt) : (setPrt s p).others = s.others := by unfold setPrt; split <;> rfl
@[simp] theorem setPrt_ops (s : State) (p : Prt) : (setPrt s p).ops = s.ops := by unfold setPrt; split <;> rfl
@[simp] theorem setPrt_clauses (s : State) (p : Prt) : (setPrt s p).clauses = s.clauses := by unfold setPrt; split <;> rfl
@[simp] theorem setPrt_nextId (s : State) (p : Prt) : (setPrt s p).nextId = s.nextId := by unfold setPrt; split <;> rfl
@[simp] theorem setPrt_free (s : State) (p : Prt) : (setPrt s p).free = s.free := by unfold setPrt; split <;> rfl
@[simp] theorem setPrt_turns (s : State) (p : Prt) : (setPrt s p).turns = s.turns := by unfold setPrt; split <;> rfl
@[simp] theorem setPrt_round (s : State) (p : Prt) : (setPrt s p).round = s.round := by unfold setPrt; split <;> rfl
@[simp] theorem setPrt_agenda (s : State) (p : Prt) : (setPrt s p).agenda = s.agenda := by unfold setPrt; split <;> rfl
@[simp] theorem setPrt_mem (s : State) (p : Prt) : (setPrt s p).mem = s.mem := by unfold setPrt; split <;> rfl
@[simp] theorem setPrt_poison (s : State) (p : Prt) : (setPrt s p).poison = s.poison := by unfold setPrt; split <;> rfl
@[simp] theorem setPrt_memPoison (s : State) (p : Prt) : (setPrt s p).memPoison = s.memPoison := by unfold setPrt; split <;> rfl
@[simp] theorem setPrt_unpub (s : State) (p : Prt) : (setPrt s p).unpub = s.unpub := by unfold setPrt; split <;> rfl
@[simp] theorem setPrt_narrow (s : State) (p : Prt) : (setPrt s p).narrow = s.narrow := by unfold setPrt; split <;> rfl
@[simp] theorem setPrt_spec (s : State) (p : Prt) : (setPrt s p).spec = s.spec := by unfold setPrt; split <;> rfl
@[simp] theorem setPrt_lines (s : State) (p : Prt) : (setPrt s p).lines = s.lines := by unfold setPrt; split <;> rfl
@[simp] theorem setPrt_away (s : State) (p : Prt) : (setPrt s p).away = s.away := by unfold setPrt; split <;> rfl
@[simp] theorem setPrt_replied (s : State) (p : Prt) : (setPrt s p).replied = s.replied := by unfold setPrt; split <;> rfl
@[simp] theorem setPrt_reclaimed (s : State) (p : Prt) : (setPrt s p).reclaimed = s.reclaimed := by unfold setPrt; split <;> rfl
@[simp] theorem setPrt_pOrder (s : State) (p : Prt) : (setPrt s p).pOrder = s.pOrder := by unfold setPrt; split <;> rfl
@[simp] theorem setPrt_retries (s : State) (p : Prt) : (setPrt s p).retries = s.retries := by unfold setPrt; split <;> rfl
@[simp] theorem setPrt_stash (s : State) (p : Prt) : (setPrt s p).stash = s.stash := by unfold setPrt; split <;> rfl
@[simp] theorem setPrt_emptyLines (s : State) (p : Prt) : (setPrt s p).emptyLines = s.emptyLines := by unfold setPrt; split <;> rfl
@[simp] theorem setPrt_hostOut (s : State) (p : Prt) : (setPrt s p).hostOut = s.hostOut := by unfold setPrt; split <;> rfl
@[simp] theorem setPrt_hostHeld (s : State) (p : Prt) : (setPrt s p).hostHeld = s.hostHeld := by unfold setPrt; split <;> rfl
@[simp] theorem setPrt_tlb1 (s : State) (p : Prt) : (setPrt s p).tlb1 = s.tlb1 := by unfold setPrt; split <;> rfl
@[simp] theorem setPrt_tlb2 (s : State) (p : Prt) : (setPrt s p).tlb2 = s.tlb2 := by unfold setPrt; split <;> rfl
@[simp] theorem setPrt_tickets (s : State) (p : Prt) : (setPrt s p).tickets = s.tickets := by unfold setPrt; split <;> rfl
@[simp] theorem setPrt_qctxs (s : State) (p : Prt) : (setPrt s p).qctxs = s.qctxs := by unfold setPrt; split <;> rfl
@[simp] theorem setPrt_msgs (s : State) (p : Prt) : (setPrt s p).msgs = s.msgs := by unfold setPrt; split <;> rfl
@[simp] theorem setPrt_margin (s : State) (p : Prt) : (setPrt s p).margin = s.margin := by unfold setPrt; split <;> rfl
@[simp] theorem setPrt_mbuf (s : State) (p : Prt) : (setPrt s p).mbuf = s.mbuf := by unfold setPrt; split <;> rfl
@[simp] theorem setPrt_anns (s : State) (p : Prt) : (setPrt s p).anns = s.anns := by unfold setPrt; split <;> rfl
@[simp] theorem setPrt_parcels (s : State) (p : Prt) : (setPrt s p).parcels = s.parcels := by unfold setPrt; split <;> rfl
@[simp] theorem setPrt_launches (s : State) (p : Prt) : (setPrt s p).launches = s.launches := by unfold setPrt; split <;> rfl
@[simp] theorem setPrt_recs (s : State) (p : Prt) : (setPrt s p).recs = s.recs := by unfold setPrt; split <;> rfl
@[simp] theorem setPrt_seqs (s : State) (p : Prt) : (setPrt s p).seqs = s.seqs := by unfold setPrt; split <;> rfl
@[simp] theorem setPrt_doors (s : State) (p : Prt) : (setPrt s p).doors = s.doors := by unfold setPrt; split <;> rfl
@[simp] theorem setPrt_orders (s : State) (p : Prt) : (setPrt s p).orders = s.orders := by unfold setPrt; split <;> rfl
@[simp] theorem setPrt_cores (s : State) (p : Prt) : (setPrt s p).cores = s.cores := by unfold setPrt; split <;> rfl
@[simp] theorem setPrt_time (s : State) (p : Prt) : (setPrt s p).time = s.time := by unfold setPrt; split <;> rfl
@[simp] theorem setPrt_mhz (s : State) (p : Prt) : (setPrt s p).mhz = s.mhz := by unfold setPrt; split <;> rfl
@[simp] theorem setPrt_powered (s : State) (p : Prt) : (setPrt s p).powered = s.powered := by unfold setPrt; split <;> rfl
@[simp] theorem setPrt_strict (s : State) (p : Prt) : (setPrt s p).strict = s.strict := by unfold setPrt; split <;> rfl
@[simp] theorem setPrt_holdover (s : State) (p : Prt) : (setPrt s p).holdover = s.holdover := by unfold setPrt; split <;> rfl
@[simp] theorem setPrt_fwOk (s : State) (p : Prt) : (setPrt s p).fwOk = s.fwOk := by unfold setPrt; split <;> rfl
@[simp] theorem setPrt_selfTest (s : State) (p : Prt) : (setPrt s p).selfTest = s.selfTest := by unfold setPrt; split <;> rfl
@[simp] theorem setPrt_started (s : State) (p : Prt) : (setPrt s p).started = s.started := by unfold setPrt; split <;> rfl
@[simp] theorem setPrt_notices (s : State) (p : Prt) : (setPrt s p).notices = s.notices := by unfold setPrt; split <;> rfl
@[simp] theorem setPrt_net (s : State) (p : Prt) : (setPrt s p).net = s.net := by unfold setPrt; split <;> rfl
@[simp] theorem setPrt_svc (s : State) (p : Prt) : (setPrt s p).svc = s.svc := by unfold setPrt; split <;> rfl

/-! ### `setCore` -/

@[simp] theorem setCore_g (s : State) (r : CoreRec) : (setCore s r).g = s.g := by unfold setCore; split <;> rfl
@[simp] theorem setCore_slot (s : State) (r : CoreRec) : (setCore s r).slot = s.slot := by unfold setCore; split <;> rfl
@[simp] theorem setCore_others (s : State) (r : CoreRec) : (setCore s r).others = s.others := by unfold setCore; split <;> rfl
@[simp] theorem setCore_ops (s : State) (r : CoreRec) : (setCore s r).ops = s.ops := by unfold setCore; split <;> rfl
@[simp] theorem setCore_clauses (s : State) (r : CoreRec) : (setCore s r).clauses = s.clauses := by unfold setCore; split <;> rfl
@[simp] theorem setCore_nextId (s : State) (r : CoreRec) : (setCore s r).nextId = s.nextId := by unfold setCore; split <;> rfl
@[simp] theorem setCore_free (s : State) (r : CoreRec) : (setCore s r).free = s.free := by unfold setCore; split <;> rfl
@[simp] theorem setCore_turns (s : State) (r : CoreRec) : (setCore s r).turns = s.turns := by unfold setCore; split <;> rfl
@[simp] theorem setCore_round (s : State) (r : CoreRec) : (setCore s r).round = s.round := by unfold setCore; split <;> rfl
@[simp] theorem setCore_agenda (s : State) (r : CoreRec) : (setCore s r).agenda = s.agenda := by unfold setCore; split <;> rfl
@[simp] theorem setCore_mem (s : State) (r : CoreRec) : (setCore s r).mem = s.mem := by unfold setCore; split <;> rfl
@[simp] theorem setCore_poison (s : State) (r : CoreRec) : (setCore s r).poison = s.poison := by unfold setCore; split <;> rfl
@[simp] theorem setCore_memPoison (s : State) (r : CoreRec) : (setCore s r).memPoison = s.memPoison := by unfold setCore; split <;> rfl
@[simp] theorem setCore_unpub (s : State) (r : CoreRec) : (setCore s r).unpub = s.unpub := by unfold setCore; split <;> rfl
@[simp] theorem setCore_narrow (s : State) (r : CoreRec) : (setCore s r).narrow = s.narrow := by unfold setCore; split <;> rfl
@[simp] theorem setCore_spec (s : State) (r : CoreRec) : (setCore s r).spec = s.spec := by unfold setCore; split <;> rfl
@[simp] theorem setCore_lines (s : State) (r : CoreRec) : (setCore s r).lines = s.lines := by unfold setCore; split <;> rfl
@[simp] theorem setCore_away (s : State) (r : CoreRec) : (setCore s r).away = s.away := by unfold setCore; split <;> rfl
@[simp] theorem setCore_replied (s : State) (r : CoreRec) : (setCore s r).replied = s.replied := by unfold setCore; split <;> rfl
@[simp] theorem setCore_reclaimed (s : State) (r : CoreRec) : (setCore s r).reclaimed = s.reclaimed := by unfold setCore; split <;> rfl
@[simp] theorem setCore_pOrder (s : State) (r : CoreRec) : (setCore s r).pOrder = s.pOrder := by unfold setCore; split <;> rfl
@[simp] theorem setCore_retries (s : State) (r : CoreRec) : (setCore s r).retries = s.retries := by unfold setCore; split <;> rfl
@[simp] theorem setCore_stash (s : State) (r : CoreRec) : (setCore s r).stash = s.stash := by unfold setCore; split <;> rfl
@[simp] theorem setCore_emptyLines (s : State) (r : CoreRec) : (setCore s r).emptyLines = s.emptyLines := by unfold setCore; split <;> rfl
@[simp] theorem setCore_hostOut (s : State) (r : CoreRec) : (setCore s r).hostOut = s.hostOut := by unfold setCore; split <;> rfl
@[simp] theorem setCore_hostHeld (s : State) (r : CoreRec) : (setCore s r).hostHeld = s.hostHeld := by unfold setCore; split <;> rfl
@[simp] theorem setCore_tlb1 (s : State) (r : CoreRec) : (setCore s r).tlb1 = s.tlb1 := by unfold setCore; split <;> rfl
@[simp] theorem setCore_tlb2 (s : State) (r : CoreRec) : (setCore s r).tlb2 = s.tlb2 := by unfold setCore; split <;> rfl
@[simp] theorem setCore_tickets (s : State) (r : CoreRec) : (setCore s r).tickets = s.tickets := by unfold setCore; split <;> rfl
@[simp] theorem setCore_qctxs (s : State) (r : CoreRec) : (setCore s r).qctxs = s.qctxs := by unfold setCore; split <;> rfl
@[simp] theorem setCore_msgs (s : State) (r : CoreRec) : (setCore s r).msgs = s.msgs := by unfold setCore; split <;> rfl
@[simp] theorem setCore_margin (s : State) (r : CoreRec) : (setCore s r).margin = s.margin := by unfold setCore; split <;> rfl
@[simp] theorem setCore_mbuf (s : State) (r : CoreRec) : (setCore s r).mbuf = s.mbuf := by unfold setCore; split <;> rfl
@[simp] theorem setCore_anns (s : State) (r : CoreRec) : (setCore s r).anns = s.anns := by unfold setCore; split <;> rfl
@[simp] theorem setCore_parcels (s : State) (r : CoreRec) : (setCore s r).parcels = s.parcels := by unfold setCore; split <;> rfl
@[simp] theorem setCore_launches (s : State) (r : CoreRec) : (setCore s r).launches = s.launches := by unfold setCore; split <;> rfl
@[simp] theorem setCore_recs (s : State) (r : CoreRec) : (setCore s r).recs = s.recs := by unfold setCore; split <;> rfl
@[simp] theorem setCore_seqs (s : State) (r : CoreRec) : (setCore s r).seqs = s.seqs := by unfold setCore; split <;> rfl
@[simp] theorem setCore_doors (s : State) (r : CoreRec) : (setCore s r).doors = s.doors := by unfold setCore; split <;> rfl
@[simp] theorem setCore_orders (s : State) (r : CoreRec) : (setCore s r).orders = s.orders := by unfold setCore; split <;> rfl
@[simp] theorem setCore_prts (s : State) (r : CoreRec) : (setCore s r).prts = s.prts := by unfold setCore; split <;> rfl
@[simp] theorem setCore_time (s : State) (r : CoreRec) : (setCore s r).time = s.time := by unfold setCore; split <;> rfl
@[simp] theorem setCore_mhz (s : State) (r : CoreRec) : (setCore s r).mhz = s.mhz := by unfold setCore; split <;> rfl
@[simp] theorem setCore_powered (s : State) (r : CoreRec) : (setCore s r).powered = s.powered := by unfold setCore; split <;> rfl
@[simp] theorem setCore_strict (s : State) (r : CoreRec) : (setCore s r).strict = s.strict := by unfold setCore; split <;> rfl
@[simp] theorem setCore_holdover (s : State) (r : CoreRec) : (setCore s r).holdover = s.holdover := by unfold setCore; split <;> rfl
@[simp] theorem setCore_fwOk (s : State) (r : CoreRec) : (setCore s r).fwOk = s.fwOk := by unfold setCore; split <;> rfl
@[simp] theorem setCore_selfTest (s : State) (r : CoreRec) : (setCore s r).selfTest = s.selfTest := by unfold setCore; split <;> rfl
@[simp] theorem setCore_started (s : State) (r : CoreRec) : (setCore s r).started = s.started := by unfold setCore; split <;> rfl
@[simp] theorem setCore_notices (s : State) (r : CoreRec) : (setCore s r).notices = s.notices := by unfold setCore; split <;> rfl
@[simp] theorem setCore_net (s : State) (r : CoreRec) : (setCore s r).net = s.net := by unfold setCore; split <;> rfl
@[simp] theorem setCore_svc (s : State) (r : CoreRec) : (setCore s r).svc = s.svc := by unfold setCore; split <;> rfl

/-! ### `setG` -/

@[simp] theorem setG_slot (s : State) (g : Group) : (setG s g).slot = s.slot := by unfold setG; split <;> rfl
@[simp] theorem setG_ops (s : State) (g : Group) : (setG s g).ops = s.ops := by unfold setG; split <;> rfl
@[simp] theorem setG_clauses (s : State) (g : Group) : (setG s g).clauses = s.clauses := by unfold setG; split <;> rfl
@[simp] theorem setG_nextId (s : State) (g : Group) : (setG s g).nextId = s.nextId := by unfold setG; split <;> rfl
@[simp] theorem setG_free (s : State) (g : Group) : (setG s g).free = s.free := by unfold setG; split <;> rfl
@[simp] theorem setG_turns (s : State) (g : Group) : (setG s g).turns = s.turns := by unfold setG; split <;> rfl
@[simp] theorem setG_round (s : State) (g : Group) : (setG s g).round = s.round := by unfold setG; split <;> rfl
@[simp] theorem setG_agenda (s : State) (g : Group) : (setG s g).agenda = s.agenda := by unfold setG; split <;> rfl
@[simp] theorem setG_mem (s : State) (g : Group) : (setG s g).mem = s.mem := by unfold setG; split <;> rfl
@[simp] theorem setG_poison (s : State) (g : Group) : (setG s g).poison = s.poison := by unfold setG; split <;> rfl
@[simp] theorem setG_memPoison (s : State) (g : Group) : (setG s g).memPoison = s.memPoison := by unfold setG; split <;> rfl
@[simp] theorem setG_unpub (s : State) (g : Group) : (setG s g).unpub = s.unpub := by unfold setG; split <;> rfl
@[simp] theorem setG_narrow (s : State) (g : Group) : (setG s g).narrow = s.narrow := by unfold setG; split <;> rfl
@[simp] theorem setG_spec (s : State) (g : Group) : (setG s g).spec = s.spec := by unfold setG; split <;> rfl
@[simp] theorem setG_lines (s : State) (g : Group) : (setG s g).lines = s.lines := by unfold setG; split <;> rfl
@[simp] theorem setG_away (s : State) (g : Group) : (setG s g).away = s.away := by unfold setG; split <;> rfl
@[simp] theorem setG_replied (s : State) (g : Group) : (setG s g).replied = s.replied := by unfold setG; split <;> rfl
@[simp] theorem setG_reclaimed (s : State) (g : Group) : (setG s g).reclaimed = s.reclaimed := by unfold setG; split <;> rfl
@[simp] theorem setG_pOrder (s : State) (g : Group) : (setG s g).pOrder = s.pOrder := by unfold setG; split <;> rfl
@[simp] theorem setG_retries (s : State) (g : Group) : (setG s g).retries = s.retries := by unfold setG; split <;> rfl
@[simp] theorem setG_stash (s : State) (g : Group) : (setG s g).stash = s.stash := by unfold setG; split <;> rfl
@[simp] theorem setG_emptyLines (s : State) (g : Group) : (setG s g).emptyLines = s.emptyLines := by unfold setG; split <;> rfl
@[simp] theorem setG_hostOut (s : State) (g : Group) : (setG s g).hostOut = s.hostOut := by unfold setG; split <;> rfl
@[simp] theorem setG_hostHeld (s : State) (g : Group) : (setG s g).hostHeld = s.hostHeld := by unfold setG; split <;> rfl
@[simp] theorem setG_tlb1 (s : State) (g : Group) : (setG s g).tlb1 = s.tlb1 := by unfold setG; split <;> rfl
@[simp] theorem setG_tlb2 (s : State) (g : Group) : (setG s g).tlb2 = s.tlb2 := by unfold setG; split <;> rfl
@[simp] theorem setG_tickets (s : State) (g : Group) : (setG s g).tickets = s.tickets := by unfold setG; split <;> rfl
@[simp] theorem setG_qctxs (s : State) (g : Group) : (setG s g).qctxs = s.qctxs := by unfold setG; split <;> rfl
@[simp] theorem setG_msgs (s : State) (g : Group) : (setG s g).msgs = s.msgs := by unfold setG; split <;> rfl
@[simp] theorem setG_margin (s : State) (g : Group) : (setG s g).margin = s.margin := by unfold setG; split <;> rfl
@[simp] theorem setG_mbuf (s : State) (g : Group) : (setG s g).mbuf = s.mbuf := by unfold setG; split <;> rfl
@[simp] theorem setG_anns (s : State) (g : Group) : (setG s g).anns = s.anns := by unfold setG; split <;> rfl
@[simp] theorem setG_parcels (s : State) (g : Group) : (setG s g).parcels = s.parcels := by unfold setG; split <;> rfl
@[simp] theorem setG_launches (s : State) (g : Group) : (setG s g).launches = s.launches := by unfold setG; split <;> rfl
@[simp] theorem setG_recs (s : State) (g : Group) : (setG s g).recs = s.recs := by unfold setG; split <;> rfl
@[simp] theorem setG_seqs (s : State) (g : Group) : (setG s g).seqs = s.seqs := by unfold setG; split <;> rfl
@[simp] theorem setG_doors (s : State) (g : Group) : (setG s g).doors = s.doors := by unfold setG; split <;> rfl
@[simp] theorem setG_orders (s : State) (g : Group) : (setG s g).orders = s.orders := by unfold setG; split <;> rfl
@[simp] theorem setG_prts (s : State) (g : Group) : (setG s g).prts = s.prts := by unfold setG; split <;> rfl
@[simp] theorem setG_cores (s : State) (g : Group) : (setG s g).cores = s.cores := by unfold setG; split <;> rfl
@[simp] theorem setG_time (s : State) (g : Group) : (setG s g).time = s.time := by unfold setG; split <;> rfl
@[simp] theorem setG_mhz (s : State) (g : Group) : (setG s g).mhz = s.mhz := by unfold setG; split <;> rfl
@[simp] theorem setG_powered (s : State) (g : Group) : (setG s g).powered = s.powered := by unfold setG; split <;> rfl
@[simp] theorem setG_strict (s : State) (g : Group) : (setG s g).strict = s.strict := by unfold setG; split <;> rfl
@[simp] theorem setG_holdover (s : State) (g : Group) : (setG s g).holdover = s.holdover := by unfold setG; split <;> rfl
@[simp] theorem setG_fwOk (s : State) (g : Group) : (setG s g).fwOk = s.fwOk := by unfold setG; split <;> rfl
@[simp] theorem setG_selfTest (s : State) (g : Group) : (setG s g).selfTest = s.selfTest := by unfold setG; split <;> rfl
@[simp] theorem setG_started (s : State) (g : Group) : (setG s g).started = s.started := by unfold setG; split <;> rfl
@[simp] theorem setG_notices (s : State) (g : Group) : (setG s g).notices = s.notices := by unfold setG; split <;> rfl
@[simp] theorem setG_net (s : State) (g : Group) : (setG s g).net = s.net := by unfold setG; split <;> rfl
@[simp] theorem setG_svc (s : State) (g : Group) : (setG s g).svc = s.svc := by unfold setG; split <;> rfl

/-! ### `updG` -/

@[simp] theorem updG_slot (s : State) (k : GKey) (f : Group → Group) : (updG s k f).slot = s.slot := by unfold updG setG; split <;> (try split) <;> rfl
@[simp] theorem updG_ops (s : State) (k : GKey) (f : Group → Group) : (updG s k f).ops = s.ops := by unfold updG setG; split <;> (try split) <;> rfl
@[simp] theorem updG_clauses (s : State) (k : GKey) (f : Group → Group) : (updG s k f).clauses = s.clauses := by unfold updG setG; split <;> (try split) <;> rfl
@[simp] theorem updG_nextId (s : State) (k : GKey) (f : Group → Group) : (updG s k f).nextId = s.nextId := by unfold updG setG; split <;> (try split) <;> rfl
@[simp] theorem updG_free (s : State) (k : GKey) (f : Group → Group) : (updG s k f).free = s.free := by unfold updG setG; split <;> (try split) <;> rfl
@[simp] theorem updG_turns (s : State) (k : GKey) (f : Group → Group) : (updG s k f).turns = s.turns := by unfold updG setG; split <;> (try split) <;> rfl
@[simp] theorem updG_round (s : State) (k : GKey) (f : Group → Group) : (updG s k f).round = s.round := by unfold updG setG; split <;> (try split) <;> rfl
@[simp] theorem updG_agenda (s : State) (k : GKey) (f : Group → Group) : (updG s k f).agenda = s.agenda := by unfold updG setG; split <;> (try split) <;> rfl
@[simp] theorem updG_mem (s : State) (k : GKey) (f : Group → Group) : (updG s k f).mem = s.mem := by unfold updG setG; split <;> (try split) <;> rfl
@[simp] theorem updG_poison (s : State) (k : GKey) (f : Group → Group) : (updG s k f).poison = s.poison := by unfold updG setG; split <;> (try split) <;> rfl
@[simp] theorem updG_memPoison (s : State) (k : GKey) (f : Group → Group) : (updG s k f).memPoison = s.memPoison := by unfold updG setG; split <;> (try split) <;> rfl
@[simp] theorem updG_unpub (s : State) (k : GKey) (f : Group → Group) : (updG s k f).unpub = s.unpub := by unfold updG setG; split <;> (try split) <;> rfl
@[simp] theorem updG_narrow (s : State) (k : GKey) (f : Group → Group) : (updG s k f).narrow = s.narrow := by unfold updG setG; split <;> (try split) <;> rfl
@[simp] theorem updG_spec (s : State) (k : GKey) (f : Group → Group) : (updG s k f).spec = s.spec := by unfold updG setG; split <;> (try split) <;> rfl
@[simp] theorem updG_lines (s : State) (k : GKey) (f : Group → Group) : (updG s k f).lines = s.lines := by unfold updG setG; split <;> (try split) <;> rfl
@[simp] theorem updG_away (s : State) (k : GKey) (f : Group → Group) : (updG s k f).away = s.away := by unfold updG setG; split <;> (try split) <;> rfl
@[simp] theorem updG_replied (s : State) (k : GKey) (f : Group → Group) : (updG s k f).replied = s.replied := by unfold updG setG; split <;> (try split) <;> rfl
@[simp] theorem updG_reclaimed (s : State) (k : GKey) (f : Group → Group) : (updG s k f).reclaimed = s.reclaimed := by unfold updG setG; split <;> (try split) <;> rfl
@[simp] theorem updG_pOrder (s : State) (k : GKey) (f : Group → Group) : (updG s k f).pOrder = s.pOrder := by unfold updG setG; split <;> (try split) <;> rfl
@[simp] theorem updG_retries (s : State) (k : GKey) (f : Group → Group) : (updG s k f).retries = s.retries := by unfold updG setG; split <;> (try split) <;> rfl
@[simp] theorem updG_stash (s : State) (k : GKey) (f : Group → Group) : (updG s k f).stash = s.stash := by unfold updG setG; split <;> (try split) <;> rfl
@[simp] theorem updG_emptyLines (s : State) (k : GKey) (f : Group → Group) : (updG s k f).emptyLines = s.emptyLines := by unfold updG setG; split <;> (try split) <;> rfl
@[simp] theorem updG_hostOut (s : State) (k : GKey) (f : Group → Group) : (updG s k f).hostOut = s.hostOut := by unfold updG setG; split <;> (try split) <;> rfl
@[simp] theorem updG_hostHeld (s : State) (k : GKey) (f : Group → Group) : (updG s k f).hostHeld = s.hostHeld := by unfold updG setG; split <;> (try split) <;> rfl
@[simp] theorem updG_tlb1 (s : State) (k : GKey) (f : Group → Group) : (updG s k f).tlb1 = s.tlb1 := by unfold updG setG; split <;> (try split) <;> rfl
@[simp] theorem updG_tlb2 (s : State) (k : GKey) (f : Group → Group) : (updG s k f).tlb2 = s.tlb2 := by unfold updG setG; split <;> (try split) <;> rfl
@[simp] theorem updG_tickets (s : State) (k : GKey) (f : Group → Group) : (updG s k f).tickets = s.tickets := by unfold updG setG; split <;> (try split) <;> rfl
@[simp] theorem updG_qctxs (s : State) (k : GKey) (f : Group → Group) : (updG s k f).qctxs = s.qctxs := by unfold updG setG; split <;> (try split) <;> rfl
@[simp] theorem updG_msgs (s : State) (k : GKey) (f : Group → Group) : (updG s k f).msgs = s.msgs := by unfold updG setG; split <;> (try split) <;> rfl
@[simp] theorem updG_margin (s : State) (k : GKey) (f : Group → Group) : (updG s k f).margin = s.margin := by unfold updG setG; split <;> (try split) <;> rfl
@[simp] theorem updG_mbuf (s : State) (k : GKey) (f : Group → Group) : (updG s k f).mbuf = s.mbuf := by unfold updG setG; split <;> (try split) <;> rfl
@[simp] theorem updG_anns (s : State) (k : GKey) (f : Group → Group) : (updG s k f).anns = s.anns := by unfold updG setG; split <;> (try split) <;> rfl
@[simp] theorem updG_parcels (s : State) (k : GKey) (f : Group → Group) : (updG s k f).parcels = s.parcels := by unfold updG setG; split <;> (try split) <;> rfl
@[simp] theorem updG_launches (s : State) (k : GKey) (f : Group → Group) : (updG s k f).launches = s.launches := by unfold updG setG; split <;> (try split) <;> rfl
@[simp] theorem updG_recs (s : State) (k : GKey) (f : Group → Group) : (updG s k f).recs = s.recs := by unfold updG setG; split <;> (try split) <;> rfl
@[simp] theorem updG_seqs (s : State) (k : GKey) (f : Group → Group) : (updG s k f).seqs = s.seqs := by unfold updG setG; split <;> (try split) <;> rfl
@[simp] theorem updG_doors (s : State) (k : GKey) (f : Group → Group) : (updG s k f).doors = s.doors := by unfold updG setG; split <;> (try split) <;> rfl
@[simp] theorem updG_orders (s : State) (k : GKey) (f : Group → Group) : (updG s k f).orders = s.orders := by unfold updG setG; split <;> (try split) <;> rfl
@[simp] theorem updG_prts (s : State) (k : GKey) (f : Group → Group) : (updG s k f).prts = s.prts := by unfold updG setG; split <;> (try split) <;> rfl
@[simp] theorem updG_cores (s : State) (k : GKey) (f : Group → Group) : (updG s k f).cores = s.cores := by unfold updG setG; split <;> (try split) <;> rfl
@[simp] theorem updG_time (s : State) (k : GKey) (f : Group → Group) : (updG s k f).time = s.time := by unfold updG setG; split <;> (try split) <;> rfl
@[simp] theorem updG_mhz (s : State) (k : GKey) (f : Group → Group) : (updG s k f).mhz = s.mhz := by unfold updG setG; split <;> (try split) <;> rfl
@[simp] theorem updG_powered (s : State) (k : GKey) (f : Group → Group) : (updG s k f).powered = s.powered := by unfold updG setG; split <;> (try split) <;> rfl
@[simp] theorem updG_strict (s : State) (k : GKey) (f : Group → Group) : (updG s k f).strict = s.strict := by unfold updG setG; split <;> (try split) <;> rfl
@[simp] theorem updG_holdover (s : State) (k : GKey) (f : Group → Group) : (updG s k f).holdover = s.holdover := by unfold updG setG; split <;> (try split) <;> rfl
@[simp] theorem updG_fwOk (s : State) (k : GKey) (f : Group → Group) : (updG s k f).fwOk = s.fwOk := by unfold updG setG; split <;> (try split) <;> rfl
@[simp] theorem updG_selfTest (s : State) (k : GKey) (f : Group → Group) : (updG s k f).selfTest = s.selfTest := by unfold updG setG; split <;> (try split) <;> rfl
@[simp] theorem updG_started (s : State) (k : GKey) (f : Group → Group) : (updG s k f).started = s.started := by unfold updG setG; split <;> (try split) <;> rfl
@[simp] theorem updG_notices (s : State) (k : GKey) (f : Group → Group) : (updG s k f).notices = s.notices := by unfold updG setG; split <;> (try split) <;> rfl
@[simp] theorem updG_net (s : State) (k : GKey) (f : Group → Group) : (updG s k f).net = s.net := by unfold updG setG; split <;> (try split) <;> rfl
@[simp] theorem updG_svc (s : State) (k : GKey) (f : Group → Group) : (updG s k f).svc = s.svc := by unfold updG setG; split <;> (try split) <;> rfl

/-! ### `focusOn` -/

@[simp] theorem focusOn_ops (s : State) (k : GKey) (slot : Bool) : (focusOn s k slot).ops = s.ops := by unfold focusOn; split <;> (try split) <;> rfl
@[simp] theorem focusOn_clauses (s : State) (k : GKey) (slot : Bool) : (focusOn s k slot).clauses = s.clauses := by unfold focusOn; split <;> (try split) <;> rfl
@[simp] theorem focusOn_nextId (s : State) (k : GKey) (slot : Bool) : (focusOn s k slot).nextId = s.nextId := by unfold focusOn; split <;> (try split) <;> rfl
@[simp] theorem focusOn_free (s : State) (k : GKey) (slot : Bool) : (focusOn s k slot).free = s.free := by unfold focusOn; split <;> (try split) <;> rfl
@[simp] theorem focusOn_turns (s : State) (k : GKey) (slot : Bool) : (focusOn s k slot).turns = s.turns := by unfold focusOn; split <;> (try split) <;> rfl
@[simp] theorem focusOn_round (s : State) (k : GKey) (slot : Bool) : (focusOn s k slot).round = s.round := by unfold focusOn; split <;> (try split) <;> rfl
@[simp] theorem focusOn_agenda (s : State) (k : GKey) (slot : Bool) : (focusOn s k slot).agenda = s.agenda := by unfold focusOn; split <;> (try split) <;> rfl
@[simp] theorem focusOn_mem (s : State) (k : GKey) (slot : Bool) : (focusOn s k slot).mem = s.mem := by unfold focusOn; split <;> (try split) <;> rfl
@[simp] theorem focusOn_poison (s : State) (k : GKey) (slot : Bool) : (focusOn s k slot).poison = s.poison := by unfold focusOn; split <;> (try split) <;> rfl
@[simp] theorem focusOn_memPoison (s : State) (k : GKey) (slot : Bool) : (focusOn s k slot).memPoison = s.memPoison := by unfold focusOn; split <;> (try split) <;> rfl
@[simp] theorem focusOn_unpub (s : State) (k : GKey) (slot : Bool) : (focusOn s k slot).unpub = s.unpub := by unfold focusOn; split <;> (try split) <;> rfl
@[simp] theorem focusOn_narrow (s : State) (k : GKey) (slot : Bool) : (focusOn s k slot).narrow = s.narrow := by unfold focusOn; split <;> (try split) <;> rfl
@[simp] theorem focusOn_spec (s : State) (k : GKey) (slot : Bool) : (focusOn s k slot).spec = s.spec := by unfold focusOn; split <;> (try split) <;> rfl
@[simp] theorem focusOn_lines (s : State) (k : GKey) (slot : Bool) : (focusOn s k slot).lines = s.lines := by unfold focusOn; split <;> (try split) <;> rfl
@[simp] theorem focusOn_away (s : State) (k : GKey) (slot : Bool) : (focusOn s k slot).away = s.away := by unfold focusOn; split <;> (try split) <;> rfl
@[simp] theorem focusOn_replied (s : State) (k : GKey) (slot : Bool) : (focusOn s k slot).replied = s.replied := by unfold focusOn; split <;> (try split) <;> rfl
@[simp] theorem focusOn_reclaimed (s : State) (k : GKey) (slot : Bool) : (focusOn s k slot).reclaimed = s.reclaimed := by unfold focusOn; split <;> (try split) <;> rfl
@[simp] theorem focusOn_pOrder (s : State) (k : GKey) (slot : Bool) : (focusOn s k slot).pOrder = s.pOrder := by unfold focusOn; split <;> (try split) <;> rfl
@[simp] theorem focusOn_retries (s : State) (k : GKey) (slot : Bool) : (focusOn s k slot).retries = s.retries := by unfold focusOn; split <;> (try split) <;> rfl
@[simp] theorem focusOn_stash (s : State) (k : GKey) (slot : Bool) : (focusOn s k slot).stash = s.stash := by unfold focusOn; split <;> (try split) <;> rfl
@[simp] theorem focusOn_emptyLines (s : State) (k : GKey) (slot : Bool) : (focusOn s k slot).emptyLines = s.emptyLines := by unfold focusOn; split <;> (try split) <;> rfl
@[simp] theorem focusOn_hostOut (s : State) (k : GKey) (slot : Bool) : (focusOn s k slot).hostOut = s.hostOut := by unfold focusOn; split <;> (try split) <;> rfl
@[simp] theorem focusOn_hostHeld (s : State) (k : GKey) (slot : Bool) : (focusOn s k slot).hostHeld = s.hostHeld := by unfold focusOn; split <;> (try split) <;> rfl
@[simp] theorem focusOn_tlb1 (s : State) (k : GKey) (slot : Bool) : (focusOn s k slot).tlb1 = s.tlb1 := by unfold focusOn; split <;> (try split) <;> rfl
@[simp] theorem focusOn_tlb2 (s : State) (k : GKey) (slot : Bool) : (focusOn s k slot).tlb2 = s.tlb2 := by unfold focusOn; split <;> (try split) <;> rfl
@[simp] theorem focusOn_tickets (s : State) (k : GKey) (slot : Bool) : (focusOn s k slot).tickets = s.tickets := by unfold focusOn; split <;> (try split) <;> rfl
@[simp] theorem focusOn_qctxs (s : State) (k : GKey) (slot : Bool) : (focusOn s k slot).qctxs = s.qctxs := by unfold focusOn; split <;> (try split) <;> rfl
@[simp] theorem focusOn_msgs (s : State) (k : GKey) (slot : Bool) : (focusOn s k slot).msgs = s.msgs := by unfold focusOn; split <;> (try split) <;> rfl
@[simp] theorem focusOn_margin (s : State) (k : GKey) (slot : Bool) : (focusOn s k slot).margin = s.margin := by unfold focusOn; split <;> (try split) <;> rfl
@[simp] theorem focusOn_mbuf (s : State) (k : GKey) (slot : Bool) : (focusOn s k slot).mbuf = s.mbuf := by unfold focusOn; split <;> (try split) <;> rfl
@[simp] theorem focusOn_anns (s : State) (k : GKey) (slot : Bool) : (focusOn s k slot).anns = s.anns := by unfold focusOn; split <;> (try split) <;> rfl
@[simp] theorem focusOn_parcels (s : State) (k : GKey) (slot : Bool) : (focusOn s k slot).parcels = s.parcels := by unfold focusOn; split <;> (try split) <;> rfl
@[simp] theorem focusOn_launches (s : State) (k : GKey) (slot : Bool) : (focusOn s k slot).launches = s.launches := by unfold focusOn; split <;> (try split) <;> rfl
@[simp] theorem focusOn_recs (s : State) (k : GKey) (slot : Bool) : (focusOn s k slot).recs = s.recs := by unfold focusOn; split <;> (try split) <;> rfl
@[simp] theorem focusOn_seqs (s : State) (k : GKey) (slot : Bool) : (focusOn s k slot).seqs = s.seqs := by unfold focusOn; split <;> (try split) <;> rfl
@[simp] theorem focusOn_doors (s : State) (k : GKey) (slot : Bool) : (focusOn s k slot).doors = s.doors := by unfold focusOn; split <;> (try split) <;> rfl
@[simp] theorem focusOn_orders (s : State) (k : GKey) (slot : Bool) : (focusOn s k slot).orders = s.orders := by unfold focusOn; split <;> (try split) <;> rfl
@[simp] theorem focusOn_prts (s : State) (k : GKey) (slot : Bool) : (focusOn s k slot).prts = s.prts := by unfold focusOn; split <;> (try split) <;> rfl
@[simp] theorem focusOn_cores (s : State) (k : GKey) (slot : Bool) : (focusOn s k slot).cores = s.cores := by unfold focusOn; split <;> (try split) <;> rfl
@[simp] theorem focusOn_time (s : State) (k : GKey) (slot : Bool) : (focusOn s k slot).time = s.time := by unfold focusOn; split <;> (try split) <;> rfl
@[simp] theorem focusOn_mhz (s : State) (k : GKey) (slot : Bool) : (focusOn s k slot).mhz = s.mhz := by unfold focusOn; split <;> (try split) <;> rfl
@[simp] theorem focusOn_powered (s : State) (k : GKey) (slot : Bool) : (focusOn s k slot).powered = s.powered := by unfold focusOn; split <;> (try split) <;> rfl
@[simp] theorem focusOn_strict (s : State) (k : GKey) (slot : Bool) : (focusOn s k slot).strict = s.strict := by unfold focusOn; split <;> (try split) <;> rfl
@[simp] theorem focusOn_holdover (s : State) (k : GKey) (slot : Bool) : (focusOn s k slot).holdover = s.holdover := by unfold focusOn; split <;> (try split) <;> rfl
@[simp] theorem focusOn_fwOk (s : State) (k : GKey) (slot : Bool) : (focusOn s k slot).fwOk = s.fwOk := by unfold focusOn; split <;> (try split) <;> rfl
@[simp] theorem focusOn_selfTest (s : State) (k : GKey) (slot : Bool) : (focusOn s k slot).selfTest = s.selfTest := by unfold focusOn; split <;> (try split) <;> rfl
@[simp] theorem focusOn_started (s : State) (k : GKey) (slot : Bool) : (focusOn s k slot).started = s.started := by unfold focusOn; split <;> (try split) <;> rfl
@[simp] theorem focusOn_notices (s : State) (k : GKey) (slot : Bool) : (focusOn s k slot).notices = s.notices := by unfold focusOn; split <;> (try split) <;> rfl
@[simp] theorem focusOn_net (s : State) (k : GKey) (slot : Bool) : (focusOn s k slot).net = s.net := by unfold focusOn; split <;> (try split) <;> rfl
@[simp] theorem focusOn_svc (s : State) (k : GKey) (slot : Bool) : (focusOn s k slot).svc = s.svc := by unfold focusOn; split <;> (try split) <;> rfl

/-! ### `tickP` -/

@[simp] theorem tickP_g (s : State) : (tickP s).g = s.g := rfl
@[simp] theorem tickP_slot (s : State) : (tickP s).slot = s.slot := rfl
@[simp] theorem tickP_others (s : State) : (tickP s).others = s.others := rfl
@[simp] theorem tickP_ops (s : State) : (tickP s).ops = s.ops := rfl
@[simp] theorem tickP_clauses (s : State) : (tickP s).clauses = s.clauses := rfl
@[simp] theorem tickP_nextId (s : State) : (tickP s).nextId = s.nextId := rfl
@[simp] theorem tickP_free (s : State) : (tickP s).free = s.free := rfl
@[simp] theorem tickP_turns (s : State) : (tickP s).turns = s.turns := rfl
@[simp] theorem tickP_round (s : State) : (tickP s).round = s.round := rfl
@[simp] theorem tickP_agenda (s : State) : (tickP s).agenda = s.agenda := rfl
@[simp] theorem tickP_mem (s : State) : (tickP s).mem = s.mem := rfl
@[simp] theorem tickP_poison (s : State) : (tickP s).poison = s.poison := rfl
@[simp] theorem tickP_memPoison (s : State) : (tickP s).memPoison = s.memPoison := rfl
@[simp] theorem tickP_unpub (s : State) : (tickP s).unpub = s.unpub := rfl
@[simp] theorem tickP_narrow (s : State) : (tickP s).narrow = s.narrow := rfl
@[simp] theorem tickP_spec (s : State) : (tickP s).spec = s.spec := rfl
@[simp] theorem tickP_lines (s : State) : (tickP s).lines = s.lines := rfl
@[simp] theorem tickP_away (s : State) : (tickP s).away = s.away := rfl
@[simp] theorem tickP_replied (s : State) : (tickP s).replied = s.replied := rfl
@[simp] theorem tickP_reclaimed (s : State) : (tickP s).reclaimed = s.reclaimed := rfl
@[simp] theorem tickP_retries (s : State) : (tickP s).retries = s.retries := rfl
@[simp] theorem tickP_stash (s : State) : (tickP s).stash = s.stash := rfl
@[simp] theorem tickP_emptyLines (s : State) : (tickP s).emptyLines = s.emptyLines := rfl
@[simp] theorem tickP_hostOut (s : State) : (tickP s).hostOut = s.hostOut := rfl
@[simp] theorem tickP_hostHeld (s : State) : (tickP s).hostHeld = s.hostHeld := rfl
@[simp] theorem tickP_tlb1 (s : State) : (tickP s).tlb1 = s.tlb1 := rfl
@[simp] theorem tickP_tlb2 (s : State) : (tickP s).tlb2 = s.tlb2 := rfl
@[simp] theorem tickP_tickets (s : State) : (tickP s).tickets = s.tickets := rfl
@[simp] theorem tickP_qctxs (s : State) : (tickP s).qctxs = s.qctxs := rfl
@[simp] theorem tickP_msgs (s : State) : (tickP s).msgs = s.msgs := rfl
@[simp] theorem tickP_margin (s : State) : (tickP s).margin = s.margin := rfl
@[simp] theorem tickP_mbuf (s : State) : (tickP s).mbuf = s.mbuf := rfl
@[simp] theorem tickP_anns (s : State) : (tickP s).anns = s.anns := rfl
@[simp] theorem tickP_parcels (s : State) : (tickP s).parcels = s.parcels := rfl
@[simp] theorem tickP_launches (s : State) : (tickP s).launches = s.launches := rfl
@[simp] theorem tickP_recs (s : State) : (tickP s).recs = s.recs := rfl
@[simp] theorem tickP_seqs (s : State) : (tickP s).seqs = s.seqs := rfl
@[simp] theorem tickP_doors (s : State) : (tickP s).doors = s.doors := rfl
@[simp] theorem tickP_orders (s : State) : (tickP s).orders = s.orders := rfl
@[simp] theorem tickP_prts (s : State) : (tickP s).prts = s.prts := rfl
@[simp] theorem tickP_cores (s : State) : (tickP s).cores = s.cores := rfl
@[simp] theorem tickP_time (s : State) : (tickP s).time = s.time := rfl
@[simp] theorem tickP_mhz (s : State) : (tickP s).mhz = s.mhz := rfl
@[simp] theorem tickP_powered (s : State) : (tickP s).powered = s.powered := rfl
@[simp] theorem tickP_strict (s : State) : (tickP s).strict = s.strict := rfl
@[simp] theorem tickP_holdover (s : State) : (tickP s).holdover = s.holdover := rfl
@[simp] theorem tickP_fwOk (s : State) : (tickP s).fwOk = s.fwOk := rfl
@[simp] theorem tickP_selfTest (s : State) : (tickP s).selfTest = s.selfTest := rfl
@[simp] theorem tickP_started (s : State) : (tickP s).started = s.started := rfl
@[simp] theorem tickP_notices (s : State) : (tickP s).notices = s.notices := rfl
@[simp] theorem tickP_net (s : State) : (tickP s).net = s.net := rfl
@[simp] theorem tickP_svc (s : State) : (tickP s).svc = s.svc := rfl

/-! ### `stashWrite` -/

@[simp] theorem stashWrite_g (s : State) (c a : Nat) (bs : List Byte) : (stashWrite s c a bs).g = s.g := rfl
@[simp] theorem stashWrite_slot (s : State) (c a : Nat) (bs : List Byte) : (stashWrite s c a bs).slot = s.slot := rfl
@[simp] theorem stashWrite_others (s : State) (c a : Nat) (bs : List Byte) : (stashWrite s c a bs).others = s.others := rfl
@[simp] theorem stashWrite_ops (s : State) (c a : Nat) (bs : List Byte) : (stashWrite s c a bs).ops = s.ops := rfl
@[simp] theorem stashWrite_clauses (s : State) (c a : Nat) (bs : List Byte) : (stashWrite s c a bs).clauses = s.clauses := rfl
@[simp] theorem stashWrite_nextId (s : State) (c a : Nat) (bs : List Byte) : (stashWrite s c a bs).nextId = s.nextId := rfl
@[simp] theorem stashWrite_free (s : State) (c a : Nat) (bs : List Byte) : (stashWrite s c a bs).free = s.free := rfl
@[simp] theorem stashWrite_turns (s : State) (c a : Nat) (bs : List Byte) : (stashWrite s c a bs).turns = s.turns := rfl
@[simp] theorem stashWrite_round (s : State) (c a : Nat) (bs : List Byte) : (stashWrite s c a bs).round = s.round := rfl
@[simp] theorem stashWrite_agenda (s : State) (c a : Nat) (bs : List Byte) : (stashWrite s c a bs).agenda = s.agenda := rfl
@[simp] theorem stashWrite_mem (s : State) (c a : Nat) (bs : List Byte) : (stashWrite s c a bs).mem = s.mem := rfl
@[simp] theorem stashWrite_poison (s : State) (c a : Nat) (bs : List Byte) : (stashWrite s c a bs).poison = s.poison := rfl
@[simp] theorem stashWrite_memPoison (s : State) (c a : Nat) (bs : List Byte) : (stashWrite s c a bs).memPoison = s.memPoison := rfl
@[simp] theorem stashWrite_unpub (s : State) (c a : Nat) (bs : List Byte) : (stashWrite s c a bs).unpub = s.unpub := rfl
@[simp] theorem stashWrite_narrow (s : State) (c a : Nat) (bs : List Byte) : (stashWrite s c a bs).narrow = s.narrow := rfl
@[simp] theorem stashWrite_spec (s : State) (c a : Nat) (bs : List Byte) : (stashWrite s c a bs).spec = s.spec := rfl
@[simp] theorem stashWrite_lines (s : State) (c a : Nat) (bs : List Byte) : (stashWrite s c a bs).lines = s.lines := rfl
@[simp] theorem stashWrite_away (s : State) (c a : Nat) (bs : List Byte) : (stashWrite s c a bs).away = s.away := rfl
@[simp] theorem stashWrite_replied (s : State) (c a : Nat) (bs : List Byte) : (stashWrite s c a bs).replied = s.replied := rfl
@[simp] theorem stashWrite_reclaimed (s : State) (c a : Nat) (bs : List Byte) : (stashWrite s c a bs).reclaimed = s.reclaimed := rfl
@[simp] theorem stashWrite_pOrder (s : State) (c a : Nat) (bs : List Byte) : (stashWrite s c a bs).pOrder = s.pOrder := rfl
@[simp] theorem stashWrite_retries (s : State) (c a : Nat) (bs : List Byte) : (stashWrite s c a bs).retries = s.retries := rfl
@[simp] theorem stashWrite_emptyLines (s : State) (c a : Nat) (bs : List Byte) : (stashWrite s c a bs).emptyLines = s.emptyLines := rfl
@[simp] theorem stashWrite_hostOut (s : State) (c a : Nat) (bs : List Byte) : (stashWrite s c a bs).hostOut = s.hostOut := rfl
@[simp] theorem stashWrite_hostHeld (s : State) (c a : Nat) (bs : List Byte) : (stashWrite s c a bs).hostHeld = s.hostHeld := rfl
@[simp] theorem stashWrite_tlb1 (s : State) (c a : Nat) (bs : List Byte) : (stashWrite s c a bs).tlb1 = s.tlb1 := rfl
@[simp] theorem stashWrite_tlb2 (s : State) (c a : Nat) (bs : List Byte) : (stashWrite s c a bs).tlb2 = s.tlb2 := rfl
@[simp] theorem stashWrite_tickets (s : State) (c a : Nat) (bs : List Byte) : (stashWrite s c a bs).tickets = s.tickets := rfl
@[simp] theorem stashWrite_qctxs (s : State) (c a : Nat) (bs : List Byte) : (stashWrite s c a bs).qctxs = s.qctxs := rfl
@[simp] theorem stashWrite_msgs (s : State) (c a : Nat) (bs : List Byte) : (stashWrite s c a bs).msgs = s.msgs := rfl
@[simp] theorem stashWrite_margin (s : State) (c a : Nat) (bs : List Byte) : (stashWrite s c a bs).margin = s.margin := rfl
@[simp] theorem stashWrite_mbuf (s : State) (c a : Nat) (bs : List Byte) : (stashWrite s c a bs).mbuf = s.mbuf := rfl
@[simp] theorem stashWrite_anns (s : State) (c a : Nat) (bs : List Byte) : (stashWrite s c a bs).anns = s.anns := rfl
@[simp] theorem stashWrite_parcels (s : State) (c a : Nat) (bs : List Byte) : (stashWrite s c a bs).parcels = s.parcels := rfl
@[simp] theorem stashWrite_launches (s : State) (c a : Nat) (bs : List Byte) : (stashWrite s c a bs).launches = s.launches := rfl
@[simp] theorem stashWrite_recs (s : State) (c a : Nat) (bs : List Byte) : (stashWrite s c a bs).recs = s.recs := rfl
@[simp] theorem stashWrite_seqs (s : State) (c a : Nat) (bs : List Byte) : (stashWrite s c a bs).seqs = s.seqs := rfl
@[simp] theorem stashWrite_doors (s : State) (c a : Nat) (bs : List Byte) : (stashWrite s c a bs).doors = s.doors := rfl
@[simp] theorem stashWrite_orders (s : State) (c a : Nat) (bs : List Byte) : (stashWrite s c a bs).orders = s.orders := rfl
@[simp] theorem stashWrite_prts (s : State) (c a : Nat) (bs : List Byte) : (stashWrite s c a bs).prts = s.prts := rfl
@[simp] theorem stashWrite_cores (s : State) (c a : Nat) (bs : List Byte) : (stashWrite s c a bs).cores = s.cores := rfl
@[simp] theorem stashWrite_time (s : State) (c a : Nat) (bs : List Byte) : (stashWrite s c a bs).time = s.time := rfl
@[simp] theorem stashWrite_mhz (s : State) (c a : Nat) (bs : List Byte) : (stashWrite s c a bs).mhz = s.mhz := rfl
@[simp] theorem stashWrite_powered (s : State) (c a : Nat) (bs : List Byte) : (stashWrite s c a bs).powered = s.powered := rfl
@[simp] theorem stashWrite_strict (s : State) (c a : Nat) (bs : List Byte) : (stashWrite s c a bs).strict = s.strict := rfl
@[simp] theorem stashWrite_holdover (s : State) (c a : Nat) (bs : List Byte) : (stashWrite s c a bs).holdover = s.holdover := rfl
@[simp] theorem stashWrite_fwOk (s : State) (c a : Nat) (bs : List Byte) : (stashWrite s c a bs).fwOk = s.fwOk := rfl
@[simp] theorem stashWrite_selfTest (s : State) (c a : Nat) (bs : List Byte) : (stashWrite s c a bs).selfTest = s.selfTest := rfl
@[simp] theorem stashWrite_started (s : State) (c a : Nat) (bs : List Byte) : (stashWrite s c a bs).started = s.started := rfl
@[simp] theorem stashWrite_notices (s : State) (c a : Nat) (bs : List Byte) : (stashWrite s c a bs).notices = s.notices := rfl
@[simp] theorem stashWrite_net (s : State) (c a : Nat) (bs : List Byte) : (stashWrite s c a bs).net = s.net := rfl
@[simp] theorem stashWrite_svc (s : State) (c a : Nat) (bs : List Byte) : (stashWrite s c a bs).svc = s.svc := rfl

/-! ### `touchLine` -/

@[simp] theorem touchLine_g (s : State) (l : Line) : (touchLine s l).g = s.g := rfl
@[simp] theorem touchLine_slot (s : State) (l : Line) : (touchLine s l).slot = s.slot := rfl
@[simp] theorem touchLine_others (s : State) (l : Line) : (touchLine s l).others = s.others := rfl
@[simp] theorem touchLine_ops (s : State) (l : Line) : (touchLine s l).ops = s.ops := rfl
@[simp] theorem touchLine_clauses (s : State) (l : Line) : (touchLine s l).clauses = s.clauses := rfl
@[simp] theorem touchLine_nextId (s : State) (l : Line) : (touchLine s l).nextId = s.nextId := rfl
@[simp] theorem touchLine_free (s : State) (l : Line) : (touchLine s l).free = s.free := rfl
@[simp] theorem touchLine_turns (s : State) (l : Line) : (touchLine s l).turns = s.turns := rfl
@[simp] theorem touchLine_round (s : State) (l : Line) : (touchLine s l).round = s.round := rfl
@[simp] theorem touchLine_agenda (s : State) (l : Line) : (touchLine s l).agenda = s.agenda := rfl
@[simp] theorem touchLine_mem (s : State) (l : Line) : (touchLine s l).mem = s.mem := rfl
@[simp] theorem touchLine_poison (s : State) (l : Line) : (touchLine s l).poison = s.poison := rfl
@[simp] theorem touchLine_memPoison (s : State) (l : Line) : (touchLine s l).memPoison = s.memPoison := rfl
@[simp] theorem touchLine_unpub (s : State) (l : Line) : (touchLine s l).unpub = s.unpub := rfl
@[simp] theorem touchLine_narrow (s : State) (l : Line) : (touchLine s l).narrow = s.narrow := rfl
@[simp] theorem touchLine_spec (s : State) (l : Line) : (touchLine s l).spec = s.spec := rfl
@[simp] theorem touchLine_away (s : State) (l : Line) : (touchLine s l).away = s.away := rfl
@[simp] theorem touchLine_replied (s : State) (l : Line) : (touchLine s l).replied = s.replied := rfl
@[simp] theorem touchLine_reclaimed (s : State) (l : Line) : (touchLine s l).reclaimed = s.reclaimed := rfl
@[simp] theorem touchLine_pOrder (s : State) (l : Line) : (touchLine s l).pOrder = s.pOrder := rfl
@[simp] theorem touchLine_retries (s : State) (l : Line) : (touchLine s l).retries = s.retries := rfl
@[simp] theorem touchLine_stash (s : State) (l : Line) : (touchLine s l).stash = s.stash := rfl
@[simp] theorem touchLine_emptyLines (s : State) (l : Line) : (touchLine s l).emptyLines = s.emptyLines := rfl
@[simp] theorem touchLine_hostOut (s : State) (l : Line) : (touchLine s l).hostOut = s.hostOut := rfl
@[simp] theorem touchLine_hostHeld (s : State) (l : Line) : (touchLine s l).hostHeld = s.hostHeld := rfl
@[simp] theorem touchLine_tlb1 (s : State) (l : Line) : (touchLine s l).tlb1 = s.tlb1 := rfl
@[simp] theorem touchLine_tlb2 (s : State) (l : Line) : (touchLine s l).tlb2 = s.tlb2 := rfl
@[simp] theorem touchLine_tickets (s : State) (l : Line) : (touchLine s l).tickets = s.tickets := rfl
@[simp] theorem touchLine_qctxs (s : State) (l : Line) : (touchLine s l).qctxs = s.qctxs := rfl
@[simp] theorem touchLine_msgs (s : State) (l : Line) : (touchLine s l).msgs = s.msgs := rfl
@[simp] theorem touchLine_margin (s : State) (l : Line) : (touchLine s l).margin = s.margin := rfl
@[simp] theorem touchLine_mbuf (s : State) (l : Line) : (touchLine s l).mbuf = s.mbuf := rfl
@[simp] theorem touchLine_anns (s : State) (l : Line) : (touchLine s l).anns = s.anns := rfl
@[simp] theorem touchLine_parcels (s : State) (l : Line) : (touchLine s l).parcels = s.parcels := rfl
@[simp] theorem touchLine_launches (s : State) (l : Line) : (touchLine s l).launches = s.launches := rfl
@[simp] theorem touchLine_recs (s : State) (l : Line) : (touchLine s l).recs = s.recs := rfl
@[simp] theorem touchLine_seqs (s : State) (l : Line) : (touchLine s l).seqs = s.seqs := rfl
@[simp] theorem touchLine_doors (s : State) (l : Line) : (touchLine s l).doors = s.doors := rfl
@[simp] theorem touchLine_orders (s : State) (l : Line) : (touchLine s l).orders = s.orders := rfl
@[simp] theorem touchLine_prts (s : State) (l : Line) : (touchLine s l).prts = s.prts := rfl
@[simp] theorem touchLine_cores (s : State) (l : Line) : (touchLine s l).cores = s.cores := rfl
@[simp] theorem touchLine_time (s : State) (l : Line) : (touchLine s l).time = s.time := rfl
@[simp] theorem touchLine_mhz (s : State) (l : Line) : (touchLine s l).mhz = s.mhz := rfl
@[simp] theorem touchLine_powered (s : State) (l : Line) : (touchLine s l).powered = s.powered := rfl
@[simp] theorem touchLine_strict (s : State) (l : Line) : (touchLine s l).strict = s.strict := rfl
@[simp] theorem touchLine_holdover (s : State) (l : Line) : (touchLine s l).holdover = s.holdover := rfl
@[simp] theorem touchLine_fwOk (s : State) (l : Line) : (touchLine s l).fwOk = s.fwOk := rfl
@[simp] theorem touchLine_selfTest (s : State) (l : Line) : (touchLine s l).selfTest = s.selfTest := rfl
@[simp] theorem touchLine_started (s : State) (l : Line) : (touchLine s l).started = s.started := rfl
@[simp] theorem touchLine_notices (s : State) (l : Line) : (touchLine s l).notices = s.notices := rfl
@[simp] theorem touchLine_net (s : State) (l : Line) : (touchLine s l).net = s.net := rfl
@[simp] theorem touchLine_svc (s : State) (l : Line) : (touchLine s l).svc = s.svc := rfl

/-! ### `acceptStore` -/

@[simp] theorem acceptStore_g (s : State) (c a : Nat) (g : GKey) (bs : List Byte) : (acceptStore s c a g bs).g = s.g := rfl
@[simp] theorem acceptStore_slot (s : State) (c a : Nat) (g : GKey) (bs : List Byte) : (acceptStore s c a g bs).slot = s.slot := rfl
@[simp] theorem acceptStore_others (s : State) (c a : Nat) (g : GKey) (bs : List Byte) : (acceptStore s c a g bs).others = s.others := rfl
@[simp] theorem acceptStore_ops (s : State) (c a : Nat) (g : GKey) (bs : List Byte) : (acceptStore s c a g bs).ops = s.ops := rfl
@[simp] theorem acceptStore_clauses (s : State) (c a : Nat) (g : GKey) (bs : List Byte) : (acceptStore s c a g bs).clauses = s.clauses := rfl
@[simp] theorem acceptStore_nextId (s : State) (c a : Nat) (g : GKey) (bs : List Byte) : (acceptStore s c a g bs).nextId = s.nextId := rfl
@[simp] theorem acceptStore_free (s : State) (c a : Nat) (g : GKey) (bs : List Byte) : (acceptStore s c a g bs).free = s.free := rfl
@[simp] theorem acceptStore_turns (s : State) (c a : Nat) (g : GKey) (bs : List Byte) : (acceptStore s c a g bs).turns = s.turns := rfl
@[simp] theorem acceptStore_round (s : State) (c a : Nat) (g : GKey) (bs : List Byte) : (acceptStore s c a g bs).round = s.round := rfl
@[simp] theorem acceptStore_agenda (s : State) (c a : Nat) (g : GKey) (bs : List Byte) : (acceptStore s c a g bs).agenda = s.agenda := rfl
@[simp] theorem acceptStore_mem (s : State) (c a : Nat) (g : GKey) (bs : List Byte) : (acceptStore s c a g bs).mem = s.mem := rfl
@[simp] theorem acceptStore_memPoison (s : State) (c a : Nat) (g : GKey) (bs : List Byte) : (acceptStore s c a g bs).memPoison = s.memPoison := rfl
@[simp] theorem acceptStore_narrow (s : State) (c a : Nat) (g : GKey) (bs : List Byte) : (acceptStore s c a g bs).narrow = s.narrow := rfl
@[simp] theorem acceptStore_spec (s : State) (c a : Nat) (g : GKey) (bs : List Byte) : (acceptStore s c a g bs).spec = s.spec := rfl
@[simp] theorem acceptStore_lines (s : State) (c a : Nat) (g : GKey) (bs : List Byte) : (acceptStore s c a g bs).lines = s.lines := rfl
@[simp] theorem acceptStore_away (s : State) (c a : Nat) (g : GKey) (bs : List Byte) : (acceptStore s c a g bs).away = s.away := rfl
@[simp] theorem acceptStore_replied (s : State) (c a : Nat) (g : GKey) (bs : List Byte) : (acceptStore s c a g bs).replied = s.replied := rfl
@[simp] theorem acceptStore_reclaimed (s : State) (c a : Nat) (g : GKey) (bs : List Byte) : (acceptStore s c a g bs).reclaimed = s.reclaimed := rfl
@[simp] theorem acceptStore_pOrder (s : State) (c a : Nat) (g : GKey) (bs : List Byte) : (acceptStore s c a g bs).pOrder = s.pOrder := rfl
@[simp] theorem acceptStore_retries (s : State) (c a : Nat) (g : GKey) (bs : List Byte) : (acceptStore s c a g bs).retries = s.retries := rfl
@[simp] theorem acceptStore_stash (s : State) (c a : Nat) (g : GKey) (bs : List Byte) : (acceptStore s c a g bs).stash = s.stash := rfl
@[simp] theorem acceptStore_emptyLines (s : State) (c a : Nat) (g : GKey) (bs : List Byte) : (acceptStore s c a g bs).emptyLines = s.emptyLines := rfl
@[simp] theorem acceptStore_hostOut (s : State) (c a : Nat) (g : GKey) (bs : List Byte) : (acceptStore s c a g bs).hostOut = s.hostOut := rfl
@[simp] theorem acceptStore_hostHeld (s : State) (c a : Nat) (g : GKey) (bs : List Byte) : (acceptStore s c a g bs).hostHeld = s.hostHeld := rfl
@[simp] theorem acceptStore_tlb1 (s : State) (c a : Nat) (g : GKey) (bs : List Byte) : (acceptStore s c a g bs).tlb1 = s.tlb1 := rfl
@[simp] theorem acceptStore_tlb2 (s : State) (c a : Nat) (g : GKey) (bs : List Byte) : (acceptStore s c a g bs).tlb2 = s.tlb2 := rfl
@[simp] theorem acceptStore_tickets (s : State) (c a : Nat) (g : GKey) (bs : List Byte) : (acceptStore s c a g bs).tickets = s.tickets := rfl
@[simp] theorem acceptStore_qctxs (s : State) (c a : Nat) (g : GKey) (bs : List Byte) : (acceptStore s c a g bs).qctxs = s.qctxs := rfl
@[simp] theorem acceptStore_msgs (s : State) (c a : Nat) (g : GKey) (bs : List Byte) : (acceptStore s c a g bs).msgs = s.msgs := rfl
@[simp] theorem acceptStore_margin (s : State) (c a : Nat) (g : GKey) (bs : List Byte) : (acceptStore s c a g bs).margin = s.margin := rfl
@[simp] theorem acceptStore_mbuf (s : State) (c a : Nat) (g : GKey) (bs : List Byte) : (acceptStore s c a g bs).mbuf = s.mbuf := rfl
@[simp] theorem acceptStore_anns (s : State) (c a : Nat) (g : GKey) (bs : List Byte) : (acceptStore s c a g bs).anns = s.anns := rfl
@[simp] theorem acceptStore_parcels (s : State) (c a : Nat) (g : GKey) (bs : List Byte) : (acceptStore s c a g bs).parcels = s.parcels := rfl
@[simp] theorem acceptStore_launches (s : State) (c a : Nat) (g : GKey) (bs : List Byte) : (acceptStore s c a g bs).launches = s.launches := rfl
@[simp] theorem acceptStore_recs (s : State) (c a : Nat) (g : GKey) (bs : List Byte) : (acceptStore s c a g bs).recs = s.recs := rfl
@[simp] theorem acceptStore_seqs (s : State) (c a : Nat) (g : GKey) (bs : List Byte) : (acceptStore s c a g bs).seqs = s.seqs := rfl
@[simp] theorem acceptStore_doors (s : State) (c a : Nat) (g : GKey) (bs : List Byte) : (acceptStore s c a g bs).doors = s.doors := rfl
@[simp] theorem acceptStore_orders (s : State) (c a : Nat) (g : GKey) (bs : List Byte) : (acceptStore s c a g bs).orders = s.orders := rfl
@[simp] theorem acceptStore_prts (s : State) (c a : Nat) (g : GKey) (bs : List Byte) : (acceptStore s c a g bs).prts = s.prts := rfl
@[simp] theorem acceptStore_cores (s : State) (c a : Nat) (g : GKey) (bs : List Byte) : (acceptStore s c a g bs).cores = s.cores := rfl
@[simp] theorem acceptStore_time (s : State) (c a : Nat) (g : GKey) (bs : List Byte) : (acceptStore s c a g bs).time = s.time := rfl
@[simp] theorem acceptStore_mhz (s : State) (c a : Nat) (g : GKey) (bs : List Byte) : (acceptStore s c a g bs).mhz = s.mhz := rfl
@[simp] theorem acceptStore_powered (s : State) (c a : Nat) (g : GKey) (bs : List Byte) : (acceptStore s c a g bs).powered = s.powered := rfl
@[simp] theorem acceptStore_strict (s : State) (c a : Nat) (g : GKey) (bs : List Byte) : (acceptStore s c a g bs).strict = s.strict := rfl
@[simp] theorem acceptStore_holdover (s : State) (c a : Nat) (g : GKey) (bs : List Byte) : (acceptStore s c a g bs).holdover = s.holdover := rfl
@[simp] theorem acceptStore_fwOk (s : State) (c a : Nat) (g : GKey) (bs : List Byte) : (acceptStore s c a g bs).fwOk = s.fwOk := rfl
@[simp] theorem acceptStore_selfTest (s : State) (c a : Nat) (g : GKey) (bs : List Byte) : (acceptStore s c a g bs).selfTest = s.selfTest := rfl
@[simp] theorem acceptStore_started (s : State) (c a : Nat) (g : GKey) (bs : List Byte) : (acceptStore s c a g bs).started = s.started := rfl
@[simp] theorem acceptStore_notices (s : State) (c a : Nat) (g : GKey) (bs : List Byte) : (acceptStore s c a g bs).notices = s.notices := rfl
@[simp] theorem acceptStore_net (s : State) (c a : Nat) (g : GKey) (bs : List Byte) : (acceptStore s c a g bs).net = s.net := rfl
@[simp] theorem acceptStore_svc (s : State) (c a : Nat) (g : GKey) (bs : List Byte) : (acceptStore s c a g bs).svc = s.svc := rfl

/-! ### `storeOut` -/

@[simp] theorem storeOut_g (s : State) (c a : Nat) (bs : List Byte) : (storeOut s c a bs).g = s.g := rfl
@[simp] theorem storeOut_slot (s : State) (c a : Nat) (bs : List Byte) : (storeOut s c a bs).slot = s.slot := rfl
@[simp] theorem storeOut_others (s : State) (c a : Nat) (bs : List Byte) : (storeOut s c a bs).others = s.others := rfl
@[simp] theorem storeOut_ops (s : State) (c a : Nat) (bs : List Byte) : (storeOut s c a bs).ops = s.ops := rfl
@[simp] theorem storeOut_clauses (s : State) (c a : Nat) (bs : List Byte) : (storeOut s c a bs).clauses = s.clauses := rfl
@[simp] theorem storeOut_nextId (s : State) (c a : Nat) (bs : List Byte) : (storeOut s c a bs).nextId = s.nextId := rfl
@[simp] theorem storeOut_free (s : State) (c a : Nat) (bs : List Byte) : (storeOut s c a bs).free = s.free := rfl
@[simp] theorem storeOut_turns (s : State) (c a : Nat) (bs : List Byte) : (storeOut s c a bs).turns = s.turns := rfl
@[simp] theorem storeOut_round (s : State) (c a : Nat) (bs : List Byte) : (storeOut s c a bs).round = s.round := rfl
@[simp] theorem storeOut_agenda (s : State) (c a : Nat) (bs : List Byte) : (storeOut s c a bs).agenda = s.agenda := rfl
@[simp] theorem storeOut_memPoison (s : State) (c a : Nat) (bs : List Byte) : (storeOut s c a bs).memPoison = s.memPoison := rfl
@[simp] theorem storeOut_spec (s : State) (c a : Nat) (bs : List Byte) : (storeOut s c a bs).spec = s.spec := rfl
@[simp] theorem storeOut_lines (s : State) (c a : Nat) (bs : List Byte) : (storeOut s c a bs).lines = s.lines := rfl
@[simp] theorem storeOut_away (s : State) (c a : Nat) (bs : List Byte) : (storeOut s c a bs).away = s.away := rfl
@[simp] theorem storeOut_replied (s : State) (c a : Nat) (bs : List Byte) : (storeOut s c a bs).replied = s.replied := rfl
@[simp] theorem storeOut_reclaimed (s : State) (c a : Nat) (bs : List Byte) : (storeOut s c a bs).reclaimed = s.reclaimed := rfl
@[simp] theorem storeOut_pOrder (s : State) (c a : Nat) (bs : List Byte) : (storeOut s c a bs).pOrder = s.pOrder := rfl
@[simp] theorem storeOut_retries (s : State) (c a : Nat) (bs : List Byte) : (storeOut s c a bs).retries = s.retries := rfl
@[simp] theorem storeOut_stash (s : State) (c a : Nat) (bs : List Byte) : (storeOut s c a bs).stash = s.stash := rfl
@[simp] theorem storeOut_emptyLines (s : State) (c a : Nat) (bs : List Byte) : (storeOut s c a bs).emptyLines = s.emptyLines := rfl
@[simp] theorem storeOut_hostOut (s : State) (c a : Nat) (bs : List Byte) : (storeOut s c a bs).hostOut = s.hostOut := rfl
@[simp] theorem storeOut_hostHeld (s : State) (c a : Nat) (bs : List Byte) : (storeOut s c a bs).hostHeld = s.hostHeld := rfl
@[simp] theorem storeOut_tlb1 (s : State) (c a : Nat) (bs : List Byte) : (storeOut s c a bs).tlb1 = s.tlb1 := rfl
@[simp] theorem storeOut_tlb2 (s : State) (c a : Nat) (bs : List Byte) : (storeOut s c a bs).tlb2 = s.tlb2 := rfl
@[simp] theorem storeOut_tickets (s : State) (c a : Nat) (bs : List Byte) : (storeOut s c a bs).tickets = s.tickets := rfl
@[simp] theorem storeOut_qctxs (s : State) (c a : Nat) (bs : List Byte) : (storeOut s c a bs).qctxs = s.qctxs := rfl
@[simp] theorem storeOut_msgs (s : State) (c a : Nat) (bs : List Byte) : (storeOut s c a bs).msgs = s.msgs := rfl
@[simp] theorem storeOut_margin (s : State) (c a : Nat) (bs : List Byte) : (storeOut s c a bs).margin = s.margin := rfl
@[simp] theorem storeOut_mbuf (s : State) (c a : Nat) (bs : List Byte) : (storeOut s c a bs).mbuf = s.mbuf := rfl
@[simp] theorem storeOut_anns (s : State) (c a : Nat) (bs : List Byte) : (storeOut s c a bs).anns = s.anns := rfl
@[simp] theorem storeOut_parcels (s : State) (c a : Nat) (bs : List Byte) : (storeOut s c a bs).parcels = s.parcels := rfl
@[simp] theorem storeOut_launches (s : State) (c a : Nat) (bs : List Byte) : (storeOut s c a bs).launches = s.launches := rfl
@[simp] theorem storeOut_recs (s : State) (c a : Nat) (bs : List Byte) : (storeOut s c a bs).recs = s.recs := rfl
@[simp] theorem storeOut_seqs (s : State) (c a : Nat) (bs : List Byte) : (storeOut s c a bs).seqs = s.seqs := rfl
@[simp] theorem storeOut_doors (s : State) (c a : Nat) (bs : List Byte) : (storeOut s c a bs).doors = s.doors := rfl
@[simp] theorem storeOut_orders (s : State) (c a : Nat) (bs : List Byte) : (storeOut s c a bs).orders = s.orders := rfl
@[simp] theorem storeOut_prts (s : State) (c a : Nat) (bs : List Byte) : (storeOut s c a bs).prts = s.prts := rfl
@[simp] theorem storeOut_cores (s : State) (c a : Nat) (bs : List Byte) : (storeOut s c a bs).cores = s.cores := rfl
@[simp] theorem storeOut_time (s : State) (c a : Nat) (bs : List Byte) : (storeOut s c a bs).time = s.time := rfl
@[simp] theorem storeOut_mhz (s : State) (c a : Nat) (bs : List Byte) : (storeOut s c a bs).mhz = s.mhz := rfl
@[simp] theorem storeOut_powered (s : State) (c a : Nat) (bs : List Byte) : (storeOut s c a bs).powered = s.powered := rfl
@[simp] theorem storeOut_strict (s : State) (c a : Nat) (bs : List Byte) : (storeOut s c a bs).strict = s.strict := rfl
@[simp] theorem storeOut_holdover (s : State) (c a : Nat) (bs : List Byte) : (storeOut s c a bs).holdover = s.holdover := rfl
@[simp] theorem storeOut_fwOk (s : State) (c a : Nat) (bs : List Byte) : (storeOut s c a bs).fwOk = s.fwOk := rfl
@[simp] theorem storeOut_selfTest (s : State) (c a : Nat) (bs : List Byte) : (storeOut s c a bs).selfTest = s.selfTest := rfl
@[simp] theorem storeOut_started (s : State) (c a : Nat) (bs : List Byte) : (storeOut s c a bs).started = s.started := rfl
@[simp] theorem storeOut_notices (s : State) (c a : Nat) (bs : List Byte) : (storeOut s c a bs).notices = s.notices := rfl
@[simp] theorem storeOut_net (s : State) (c a : Nat) (bs : List Byte) : (storeOut s c a bs).net = s.net := rfl
@[simp] theorem storeOut_svc (s : State) (c a : Nat) (bs : List Byte) : (storeOut s c a bs).svc = s.svc := rfl

/-! ### `passHost` -/

@[simp] theorem passHost_g (s : State) (p : Unpub → Bool) : (passHost s p).g = s.g := rfl
@[simp] theorem passHost_slot (s : State) (p : Unpub → Bool) : (passHost s p).slot = s.slot := rfl
@[simp] theorem passHost_others (s : State) (p : Unpub → Bool) : (passHost s p).others = s.others := rfl
@[simp] theorem passHost_ops (s : State) (p : Unpub → Bool) : (passHost s p).ops = s.ops := rfl
@[simp] theorem passHost_clauses (s : State) (p : Unpub → Bool) : (passHost s p).clauses = s.clauses := rfl
@[simp] theorem passHost_nextId (s : State) (p : Unpub → Bool) : (passHost s p).nextId = s.nextId := rfl
@[simp] theorem passHost_free (s : State) (p : Unpub → Bool) : (passHost s p).free = s.free := rfl
@[simp] theorem passHost_turns (s : State) (p : Unpub → Bool) : (passHost s p).turns = s.turns := rfl
@[simp] theorem passHost_round (s : State) (p : Unpub → Bool) : (passHost s p).round = s.round := rfl
@[simp] theorem passHost_agenda (s : State) (p : Unpub → Bool) : (passHost s p).agenda = s.agenda := rfl
@[simp] theorem passHost_mem (s : State) (p : Unpub → Bool) : (passHost s p).mem = s.mem := rfl
@[simp] theorem passHost_poison (s : State) (p : Unpub → Bool) : (passHost s p).poison = s.poison := rfl
@[simp] theorem passHost_memPoison (s : State) (p : Unpub → Bool) : (passHost s p).memPoison = s.memPoison := rfl
@[simp] theorem passHost_unpub (s : State) (p : Unpub → Bool) : (passHost s p).unpub = s.unpub := rfl
@[simp] theorem passHost_narrow (s : State) (p : Unpub → Bool) : (passHost s p).narrow = s.narrow := rfl
@[simp] theorem passHost_spec (s : State) (p : Unpub → Bool) : (passHost s p).spec = s.spec := rfl
@[simp] theorem passHost_lines (s : State) (p : Unpub → Bool) : (passHost s p).lines = s.lines := rfl
@[simp] theorem passHost_away (s : State) (p : Unpub → Bool) : (passHost s p).away = s.away := rfl
@[simp] theorem passHost_replied (s : State) (p : Unpub → Bool) : (passHost s p).replied = s.replied := rfl
@[simp] theorem passHost_reclaimed (s : State) (p : Unpub → Bool) : (passHost s p).reclaimed = s.reclaimed := rfl
@[simp] theorem passHost_pOrder (s : State) (p : Unpub → Bool) : (passHost s p).pOrder = s.pOrder := rfl
@[simp] theorem passHost_retries (s : State) (p : Unpub → Bool) : (passHost s p).retries = s.retries := rfl
@[simp] theorem passHost_stash (s : State) (p : Unpub → Bool) : (passHost s p).stash = s.stash := rfl
@[simp] theorem passHost_emptyLines (s : State) (p : Unpub → Bool) : (passHost s p).emptyLines = s.emptyLines := rfl
@[simp] theorem passHost_tlb1 (s : State) (p : Unpub → Bool) : (passHost s p).tlb1 = s.tlb1 := rfl
@[simp] theorem passHost_tlb2 (s : State) (p : Unpub → Bool) : (passHost s p).tlb2 = s.tlb2 := rfl
@[simp] theorem passHost_tickets (s : State) (p : Unpub → Bool) : (passHost s p).tickets = s.tickets := rfl
@[simp] theorem passHost_qctxs (s : State) (p : Unpub → Bool) : (passHost s p).qctxs = s.qctxs := rfl
@[simp] theorem passHost_msgs (s : State) (p : Unpub → Bool) : (passHost s p).msgs = s.msgs := rfl
@[simp] theorem passHost_margin (s : State) (p : Unpub → Bool) : (passHost s p).margin = s.margin := rfl
@[simp] theorem passHost_mbuf (s : State) (p : Unpub → Bool) : (passHost s p).mbuf = s.mbuf := rfl
@[simp] theorem passHost_anns (s : State) (p : Unpub → Bool) : (passHost s p).anns = s.anns := rfl
@[simp] theorem passHost_parcels (s : State) (p : Unpub → Bool) : (passHost s p).parcels = s.parcels := rfl
@[simp] theorem passHost_launches (s : State) (p : Unpub → Bool) : (passHost s p).launches = s.launches := rfl
@[simp] theorem passHost_recs (s : State) (p : Unpub → Bool) : (passHost s p).recs = s.recs := rfl
@[simp] theorem passHost_seqs (s : State) (p : Unpub → Bool) : (passHost s p).seqs = s.seqs := rfl
@[simp] theorem passHost_doors (s : State) (p : Unpub → Bool) : (passHost s p).doors = s.doors := rfl
@[simp] theorem passHost_orders (s : State) (p : Unpub → Bool) : (passHost s p).orders = s.orders := rfl
@[simp] theorem passHost_prts (s : State) (p : Unpub → Bool) : (passHost s p).prts = s.prts := rfl
@[simp] theorem passHost_cores (s : State) (p : Unpub → Bool) : (passHost s p).cores = s.cores := rfl
@[simp] theorem passHost_time (s : State) (p : Unpub → Bool) : (passHost s p).time = s.time := rfl
@[simp] theorem passHost_mhz (s : State) (p : Unpub → Bool) : (passHost s p).mhz = s.mhz := rfl
@[simp] theorem passHost_powered (s : State) (p : Unpub → Bool) : (passHost s p).powered = s.powered := rfl
@[simp] theorem passHost_strict (s : State) (p : Unpub → Bool) : (passHost s p).strict = s.strict := rfl
@[simp] theorem passHost_holdover (s : State) (p : Unpub → Bool) : (passHost s p).holdover = s.holdover := rfl
@[simp] theorem passHost_fwOk (s : State) (p : Unpub → Bool) : (passHost s p).fwOk = s.fwOk := rfl
@[simp] theorem passHost_selfTest (s : State) (p : Unpub → Bool) : (passHost s p).selfTest = s.selfTest := rfl
@[simp] theorem passHost_started (s : State) (p : Unpub → Bool) : (passHost s p).started = s.started := rfl
@[simp] theorem passHost_notices (s : State) (p : Unpub → Bool) : (passHost s p).notices = s.notices := rfl
@[simp] theorem passHost_net (s : State) (p : Unpub → Bool) : (passHost s p).net = s.net := rfl
@[simp] theorem passHost_svc (s : State) (p : Unpub → Bool) : (passHost s p).svc = s.svc := rfl

/-! ### `putPart` -/

@[simp] theorem putPart_g (s : State) (o : Op) (j : Nat) (p : Part) : (putPart s o j p).g = s.g := by unfold putPart; split <;> (try split) <;> rfl
@[simp] theorem putPart_slot (s : State) (o : Op) (j : Nat) (p : Part) : (putPart s o j p).slot = s.slot := by unfold putPart; split <;> (try split) <;> rfl
@[simp] theorem putPart_others (s : State) (o : Op) (j : Nat) (p : Part) : (putPart s o j p).others = s.others := by unfold putPart; split <;> (try split) <;> rfl
@[simp] theorem putPart_clauses (s : State) (o : Op) (j : Nat) (p : Part) : (putPart s o j p).clauses = s.clauses := by unfold putPart; split <;> (try split) <;> rfl
@[simp] theorem putPart_nextId (s : State) (o : Op) (j : Nat) (p : Part) : (putPart s o j p).nextId = s.nextId := by unfold putPart; split <;> (try split) <;> rfl
@[simp] theorem putPart_free (s : State) (o : Op) (j : Nat) (p : Part) : (putPart s o j p).free = s.free := by unfold putPart; split <;> (try split) <;> rfl
@[simp] theorem putPart_turns (s : State) (o : Op) (j : Nat) (p : Part) : (putPart s o j p).turns = s.turns := by unfold putPart; split <;> (try split) <;> rfl
@[simp] theorem putPart_round (s : State) (o : Op) (j : Nat) (p : Part) : (putPart s o j p).round = s.round := by unfold putPart; split <;> (try split) <;> rfl
@[simp] theorem putPart_agenda (s : State) (o : Op) (j : Nat) (p : Part) : (putPart s o j p).agenda = s.agenda := by unfold putPart; split <;> (try split) <;> rfl
@[simp] theorem putPart_mem (s : State) (o : Op) (j : Nat) (p : Part) : (putPart s o j p).mem = s.mem := by unfold putPart; split <;> (try split) <;> rfl
@[simp] theorem putPart_poison (s : State) (o : Op) (j : Nat) (p : Part) : (putPart s o j p).poison = s.poison := by unfold putPart; split <;> (try split) <;> rfl
@[simp] theorem putPart_memPoison (s : State) (o : Op) (j : Nat) (p : Part) : (putPart s o j p).memPoison = s.memPoison := by unfold putPart; split <;> (try split) <;> rfl
@[simp] theorem putPart_unpub (s : State) (o : Op) (j : Nat) (p : Part) : (putPart s o j p).unpub = s.unpub := by unfold putPart; split <;> (try split) <;> rfl
@[simp] theorem putPart_narrow (s : State) (o : Op) (j : Nat) (p : Part) : (putPart s o j p).narrow = s.narrow := by unfold putPart; split <;> (try split) <;> rfl
@[simp] theorem putPart_spec (s : State) (o : Op) (j : Nat) (p : Part) : (putPart s o j p).spec = s.spec := by unfold putPart; split <;> (try split) <;> rfl
@[simp] theorem putPart_lines (s : State) (o : Op) (j : Nat) (p : Part) : (putPart s o j p).lines = s.lines := by unfold putPart; split <;> (try split) <;> rfl
@[simp] theorem putPart_away (s : State) (o : Op) (j : Nat) (p : Part) : (putPart s o j p).away = s.away := by unfold putPart; split <;> (try split) <;> rfl
@[simp] theorem putPart_reclaimed (s : State) (o : Op) (j : Nat) (p : Part) : (putPart s o j p).reclaimed = s.reclaimed := by unfold putPart; split <;> (try split) <;> rfl
@[simp] theorem putPart_pOrder (s : State) (o : Op) (j : Nat) (p : Part) : (putPart s o j p).pOrder = s.pOrder := by unfold putPart; split <;> (try split) <;> rfl
@[simp] theorem putPart_retries (s : State) (o : Op) (j : Nat) (p : Part) : (putPart s o j p).retries = s.retries := by unfold putPart; split <;> (try split) <;> rfl
@[simp] theorem putPart_stash (s : State) (o : Op) (j : Nat) (p : Part) : (putPart s o j p).stash = s.stash := by unfold putPart; split <;> (try split) <;> rfl
@[simp] theorem putPart_emptyLines (s : State) (o : Op) (j : Nat) (p : Part) : (putPart s o j p).emptyLines = s.emptyLines := by unfold putPart; split <;> (try split) <;> rfl
@[simp] theorem putPart_hostOut (s : State) (o : Op) (j : Nat) (p : Part) : (putPart s o j p).hostOut = s.hostOut := by unfold putPart; split <;> (try split) <;> rfl
@[simp] theorem putPart_hostHeld (s : State) (o : Op) (j : Nat) (p : Part) : (putPart s o j p).hostHeld = s.hostHeld := by unfold putPart; split <;> (try split) <;> rfl
@[simp] theorem putPart_tlb1 (s : State) (o : Op) (j : Nat) (p : Part) : (putPart s o j p).tlb1 = s.tlb1 := by unfold putPart; split <;> (try split) <;> rfl
@[simp] theorem putPart_tlb2 (s : State) (o : Op) (j : Nat) (p : Part) : (putPart s o j p).tlb2 = s.tlb2 := by unfold putPart; split <;> (try split) <;> rfl
@[simp] theorem putPart_tickets (s : State) (o : Op) (j : Nat) (p : Part) : (putPart s o j p).tickets = s.tickets := by unfold putPart; split <;> (try split) <;> rfl
@[simp] theorem putPart_qctxs (s : State) (o : Op) (j : Nat) (p : Part) : (putPart s o j p).qctxs = s.qctxs := by unfold putPart; split <;> (try split) <;> rfl
@[simp] theorem putPart_msgs (s : State) (o : Op) (j : Nat) (p : Part) : (putPart s o j p).msgs = s.msgs := by unfold putPart; split <;> (try split) <;> rfl
@[simp] theorem putPart_margin (s : State) (o : Op) (j : Nat) (p : Part) : (putPart s o j p).margin = s.margin := by unfold putPart; split <;> (try split) <;> rfl
@[simp] theorem putPart_mbuf (s : State) (o : Op) (j : Nat) (p : Part) : (putPart s o j p).mbuf = s.mbuf := by unfold putPart; split <;> (try split) <;> rfl
@[simp] theorem putPart_anns (s : State) (o : Op) (j : Nat) (p : Part) : (putPart s o j p).anns = s.anns := by unfold putPart; split <;> (try split) <;> rfl
@[simp] theorem putPart_parcels (s : State) (o : Op) (j : Nat) (p : Part) : (putPart s o j p).parcels = s.parcels := by unfold putPart; split <;> (try split) <;> rfl
@[simp] theorem putPart_launches (s : State) (o : Op) (j : Nat) (p : Part) : (putPart s o j p).launches = s.launches := by unfold putPart; split <;> (try split) <;> rfl
@[simp] theorem putPart_recs (s : State) (o : Op) (j : Nat) (p : Part) : (putPart s o j p).recs = s.recs := by unfold putPart; split <;> (try split) <;> rfl
@[simp] theorem putPart_seqs (s : State) (o : Op) (j : Nat) (p : Part) : (putPart s o j p).seqs = s.seqs := by unfold putPart; split <;> (try split) <;> rfl
@[simp] theorem putPart_doors (s : State) (o : Op) (j : Nat) (p : Part) : (putPart s o j p).doors = s.doors := by unfold putPart; split <;> (try split) <;> rfl
@[simp] theorem putPart_orders (s : State) (o : Op) (j : Nat) (p : Part) : (putPart s o j p).orders = s.orders := by unfold putPart; split <;> (try split) <;> rfl
@[simp] theorem putPart_prts (s : State) (o : Op) (j : Nat) (p : Part) : (putPart s o j p).prts = s.prts := by unfold putPart; split <;> (try split) <;> rfl
@[simp] theorem putPart_cores (s : State) (o : Op) (j : Nat) (p : Part) : (putPart s o j p).cores = s.cores := by unfold putPart; split <;> (try split) <;> rfl
@[simp] theorem putPart_time (s : State) (o : Op) (j : Nat) (p : Part) : (putPart s o j p).time = s.time := by unfold putPart; split <;> (try split) <;> rfl
@[simp] theorem putPart_mhz (s : State) (o : Op) (j : Nat) (p : Part) : (putPart s o j p).mhz = s.mhz := by unfold putPart; split <;> (try split) <;> rfl
@[simp] theorem putPart_powered (s : State) (o : Op) (j : Nat) (p : Part) : (putPart s o j p).powered = s.powered := by unfold putPart; split <;> (try split) <;> rfl
@[simp] theorem putPart_strict (s : State) (o : Op) (j : Nat) (p : Part) : (putPart s o j p).strict = s.strict := by unfold putPart; split <;> (try split) <;> rfl
@[simp] theorem putPart_holdover (s : State) (o : Op) (j : Nat) (p : Part) : (putPart s o j p).holdover = s.holdover := by unfold putPart; split <;> (try split) <;> rfl
@[simp] theorem putPart_fwOk (s : State) (o : Op) (j : Nat) (p : Part) : (putPart s o j p).fwOk = s.fwOk := by unfold putPart; split <;> (try split) <;> rfl
@[simp] theorem putPart_selfTest (s : State) (o : Op) (j : Nat) (p : Part) : (putPart s o j p).selfTest = s.selfTest := by unfold putPart; split <;> (try split) <;> rfl
@[simp] theorem putPart_started (s : State) (o : Op) (j : Nat) (p : Part) : (putPart s o j p).started = s.started := by unfold putPart; split <;> (try split) <;> rfl
@[simp] theorem putPart_notices (s : State) (o : Op) (j : Nat) (p : Part) : (putPart s o j p).notices = s.notices := by unfold putPart; split <;> (try split) <;> rfl
@[simp] theorem putPart_net (s : State) (o : Op) (j : Nat) (p : Part) : (putPart s o j p).net = s.net := by unfold putPart; split <;> (try split) <;> rfl
@[simp] theorem putPart_svc (s : State) (o : Op) (j : Nat) (p : Part) : (putPart s o j p).svc = s.svc := by unfold putPart; split <;> (try split) <;> rfl

/-! ### `setLog` -/

@[simp] theorem setLog_g (s : State) (l : JobLog) : (setLog s l).g = s.g := rfl
@[simp] theorem setLog_slot (s : State) (l : JobLog) : (setLog s l).slot = s.slot := rfl
@[simp] theorem setLog_others (s : State) (l : JobLog) : (setLog s l).others = s.others := rfl
@[simp] theorem setLog_ops (s : State) (l : JobLog) : (setLog s l).ops = s.ops := rfl
@[simp] theorem setLog_clauses (s : State) (l : JobLog) : (setLog s l).clauses = s.clauses := rfl
@[simp] theorem setLog_nextId (s : State) (l : JobLog) : (setLog s l).nextId = s.nextId := rfl
@[simp] theorem setLog_free (s : State) (l : JobLog) : (setLog s l).free = s.free := rfl
@[simp] theorem setLog_turns (s : State) (l : JobLog) : (setLog s l).turns = s.turns := rfl
@[simp] theorem setLog_round (s : State) (l : JobLog) : (setLog s l).round = s.round := rfl
@[simp] theorem setLog_agenda (s : State) (l : JobLog) : (setLog s l).agenda = s.agenda := rfl
@[simp] theorem setLog_mem (s : State) (l : JobLog) : (setLog s l).mem = s.mem := rfl
@[simp] theorem setLog_poison (s : State) (l : JobLog) : (setLog s l).poison = s.poison := rfl
@[simp] theorem setLog_memPoison (s : State) (l : JobLog) : (setLog s l).memPoison = s.memPoison := rfl
@[simp] theorem setLog_unpub (s : State) (l : JobLog) : (setLog s l).unpub = s.unpub := rfl
@[simp] theorem setLog_narrow (s : State) (l : JobLog) : (setLog s l).narrow = s.narrow := rfl
@[simp] theorem setLog_spec (s : State) (l : JobLog) : (setLog s l).spec = s.spec := rfl
@[simp] theorem setLog_lines (s : State) (l : JobLog) : (setLog s l).lines = s.lines := rfl
@[simp] theorem setLog_away (s : State) (l : JobLog) : (setLog s l).away = s.away := rfl
@[simp] theorem setLog_replied (s : State) (l : JobLog) : (setLog s l).replied = s.replied := rfl
@[simp] theorem setLog_reclaimed (s : State) (l : JobLog) : (setLog s l).reclaimed = s.reclaimed := rfl
@[simp] theorem setLog_pOrder (s : State) (l : JobLog) : (setLog s l).pOrder = s.pOrder := rfl
@[simp] theorem setLog_retries (s : State) (l : JobLog) : (setLog s l).retries = s.retries := rfl
@[simp] theorem setLog_stash (s : State) (l : JobLog) : (setLog s l).stash = s.stash := rfl
@[simp] theorem setLog_emptyLines (s : State) (l : JobLog) : (setLog s l).emptyLines = s.emptyLines := rfl
@[simp] theorem setLog_hostOut (s : State) (l : JobLog) : (setLog s l).hostOut = s.hostOut := rfl
@[simp] theorem setLog_hostHeld (s : State) (l : JobLog) : (setLog s l).hostHeld = s.hostHeld := rfl
@[simp] theorem setLog_tlb1 (s : State) (l : JobLog) : (setLog s l).tlb1 = s.tlb1 := rfl
@[simp] theorem setLog_tlb2 (s : State) (l : JobLog) : (setLog s l).tlb2 = s.tlb2 := rfl
@[simp] theorem setLog_tickets (s : State) (l : JobLog) : (setLog s l).tickets = s.tickets := rfl
@[simp] theorem setLog_qctxs (s : State) (l : JobLog) : (setLog s l).qctxs = s.qctxs := rfl
@[simp] theorem setLog_msgs (s : State) (l : JobLog) : (setLog s l).msgs = s.msgs := rfl
@[simp] theorem setLog_margin (s : State) (l : JobLog) : (setLog s l).margin = s.margin := rfl
@[simp] theorem setLog_mbuf (s : State) (l : JobLog) : (setLog s l).mbuf = s.mbuf := rfl
@[simp] theorem setLog_anns (s : State) (l : JobLog) : (setLog s l).anns = s.anns := rfl
@[simp] theorem setLog_parcels (s : State) (l : JobLog) : (setLog s l).parcels = s.parcels := rfl
@[simp] theorem setLog_launches (s : State) (l : JobLog) : (setLog s l).launches = s.launches := rfl
@[simp] theorem setLog_recs (s : State) (l : JobLog) : (setLog s l).recs = s.recs := rfl
@[simp] theorem setLog_seqs (s : State) (l : JobLog) : (setLog s l).seqs = s.seqs := rfl
@[simp] theorem setLog_doors (s : State) (l : JobLog) : (setLog s l).doors = s.doors := rfl
@[simp] theorem setLog_orders (s : State) (l : JobLog) : (setLog s l).orders = s.orders := rfl
@[simp] theorem setLog_prts (s : State) (l : JobLog) : (setLog s l).prts = s.prts := rfl
@[simp] theorem setLog_cores (s : State) (l : JobLog) : (setLog s l).cores = s.cores := rfl
@[simp] theorem setLog_time (s : State) (l : JobLog) : (setLog s l).time = s.time := rfl
@[simp] theorem setLog_mhz (s : State) (l : JobLog) : (setLog s l).mhz = s.mhz := rfl
@[simp] theorem setLog_powered (s : State) (l : JobLog) : (setLog s l).powered = s.powered := rfl
@[simp] theorem setLog_strict (s : State) (l : JobLog) : (setLog s l).strict = s.strict := rfl
@[simp] theorem setLog_holdover (s : State) (l : JobLog) : (setLog s l).holdover = s.holdover := rfl
@[simp] theorem setLog_fwOk (s : State) (l : JobLog) : (setLog s l).fwOk = s.fwOk := rfl
@[simp] theorem setLog_selfTest (s : State) (l : JobLog) : (setLog s l).selfTest = s.selfTest := rfl
@[simp] theorem setLog_started (s : State) (l : JobLog) : (setLog s l).started = s.started := rfl
@[simp] theorem setLog_notices (s : State) (l : JobLog) : (setLog s l).notices = s.notices := rfl
@[simp] theorem setLog_net (s : State) (l : JobLog) : (setLog s l).net = s.net := rfl

/-! ### `setCtx` -/

@[simp] theorem setCtx_g (s : State) (q : QCtx) : (setCtx s q).g = s.g := rfl
@[simp] theorem setCtx_slot (s : State) (q : QCtx) : (setCtx s q).slot = s.slot := rfl
@[simp] theorem setCtx_others (s : State) (q : QCtx) : (setCtx s q).others = s.others := rfl
@[simp] theorem setCtx_ops (s : State) (q : QCtx) : (setCtx s q).ops = s.ops := rfl
@[simp] theorem setCtx_clauses (s : State) (q : QCtx) : (setCtx s q).clauses = s.clauses := rfl
@[simp] theorem setCtx_nextId (s : State) (q : QCtx) : (setCtx s q).nextId = s.nextId := rfl
@[simp] theorem setCtx_free (s : State) (q : QCtx) : (setCtx s q).free = s.free := rfl
@[simp] theorem setCtx_turns (s : State) (q : QCtx) : (setCtx s q).turns = s.turns := rfl
@[simp] theorem setCtx_round (s : State) (q : QCtx) : (setCtx s q).round = s.round := rfl
@[simp] theorem setCtx_agenda (s : State) (q : QCtx) : (setCtx s q).agenda = s.agenda := rfl
@[simp] theorem setCtx_mem (s : State) (q : QCtx) : (setCtx s q).mem = s.mem := rfl
@[simp] theorem setCtx_poison (s : State) (q : QCtx) : (setCtx s q).poison = s.poison := rfl
@[simp] theorem setCtx_memPoison (s : State) (q : QCtx) : (setCtx s q).memPoison = s.memPoison := rfl
@[simp] theorem setCtx_unpub (s : State) (q : QCtx) : (setCtx s q).unpub = s.unpub := rfl
@[simp] theorem setCtx_narrow (s : State) (q : QCtx) : (setCtx s q).narrow = s.narrow := rfl
@[simp] theorem setCtx_spec (s : State) (q : QCtx) : (setCtx s q).spec = s.spec := rfl
@[simp] theorem setCtx_lines (s : State) (q : QCtx) : (setCtx s q).lines = s.lines := rfl
@[simp] theorem setCtx_away (s : State) (q : QCtx) : (setCtx s q).away = s.away := rfl
@[simp] theorem setCtx_replied (s : State) (q : QCtx) : (setCtx s q).replied = s.replied := rfl
@[simp] theorem setCtx_reclaimed (s : State) (q : QCtx) : (setCtx s q).reclaimed = s.reclaimed := rfl
@[simp] theorem setCtx_pOrder (s : State) (q : QCtx) : (setCtx s q).pOrder = s.pOrder := rfl
@[simp] theorem setCtx_retries (s : State) (q : QCtx) : (setCtx s q).retries = s.retries := rfl
@[simp] theorem setCtx_stash (s : State) (q : QCtx) : (setCtx s q).stash = s.stash := rfl
@[simp] theorem setCtx_emptyLines (s : State) (q : QCtx) : (setCtx s q).emptyLines = s.emptyLines := rfl
@[simp] theorem setCtx_hostOut (s : State) (q : QCtx) : (setCtx s q).hostOut = s.hostOut := rfl
@[simp] theorem setCtx_hostHeld (s : State) (q : QCtx) : (setCtx s q).hostHeld = s.hostHeld := rfl
@[simp] theorem setCtx_tlb1 (s : State) (q : QCtx) : (setCtx s q).tlb1 = s.tlb1 := rfl
@[simp] theorem setCtx_tlb2 (s : State) (q : QCtx) : (setCtx s q).tlb2 = s.tlb2 := rfl
@[simp] theorem setCtx_tickets (s : State) (q : QCtx) : (setCtx s q).tickets = s.tickets := rfl
@[simp] theorem setCtx_msgs (s : State) (q : QCtx) : (setCtx s q).msgs = s.msgs := rfl
@[simp] theorem setCtx_margin (s : State) (q : QCtx) : (setCtx s q).margin = s.margin := rfl
@[simp] theorem setCtx_mbuf (s : State) (q : QCtx) : (setCtx s q).mbuf = s.mbuf := rfl
@[simp] theorem setCtx_anns (s : State) (q : QCtx) : (setCtx s q).anns = s.anns := rfl
@[simp] theorem setCtx_parcels (s : State) (q : QCtx) : (setCtx s q).parcels = s.parcels := rfl
@[simp] theorem setCtx_launches (s : State) (q : QCtx) : (setCtx s q).launches = s.launches := rfl
@[simp] theorem setCtx_recs (s : State) (q : QCtx) : (setCtx s q).recs = s.recs := rfl
@[simp] theorem setCtx_seqs (s : State) (q : QCtx) : (setCtx s q).seqs = s.seqs := rfl
@[simp] theorem setCtx_doors (s : State) (q : QCtx) : (setCtx s q).doors = s.doors := rfl
@[simp] theorem setCtx_orders (s : State) (q : QCtx) : (setCtx s q).orders = s.orders := rfl
@[simp] theorem setCtx_prts (s : State) (q : QCtx) : (setCtx s q).prts = s.prts := rfl
@[simp] theorem setCtx_cores (s : State) (q : QCtx) : (setCtx s q).cores = s.cores := rfl
@[simp] theorem setCtx_time (s : State) (q : QCtx) : (setCtx s q).time = s.time := rfl
@[simp] theorem setCtx_mhz (s : State) (q : QCtx) : (setCtx s q).mhz = s.mhz := rfl
@[simp] theorem setCtx_powered (s : State) (q : QCtx) : (setCtx s q).powered = s.powered := rfl
@[simp] theorem setCtx_strict (s : State) (q : QCtx) : (setCtx s q).strict = s.strict := rfl
@[simp] theorem setCtx_holdover (s : State) (q : QCtx) : (setCtx s q).holdover = s.holdover := rfl
@[simp] theorem setCtx_fwOk (s : State) (q : QCtx) : (setCtx s q).fwOk = s.fwOk := rfl
@[simp] theorem setCtx_selfTest (s : State) (q : QCtx) : (setCtx s q).selfTest = s.selfTest := rfl
@[simp] theorem setCtx_started (s : State) (q : QCtx) : (setCtx s q).started = s.started := rfl
@[simp] theorem setCtx_notices (s : State) (q : QCtx) : (setCtx s q).notices = s.notices := rfl
@[simp] theorem setCtx_net (s : State) (q : QCtx) : (setCtx s q).net = s.net := rfl
@[simp] theorem setCtx_svc (s : State) (q : QCtx) : (setCtx s q).svc = s.svc := rfl

/-! ### `setRec` -/

@[simp] theorem setRec_g (s : State) (r : CRec) : (setRec s r).g = s.g := by unfold setRec; split <;> rfl
@[simp] theorem setRec_slot (s : State) (r : CRec) : (setRec s r).slot = s.slot := by unfold setRec; split <;> rfl
@[simp] theorem setRec_others (s : State) (r : CRec) : (setRec s r).others = s.others := by unfold setRec; split <;> rfl
@[simp] theorem setRec_ops (s : State) (r : CRec) : (setRec s r).ops = s.ops := by unfold setRec; split <;> rfl
@[simp] theorem setRec_clauses (s : State) (r : CRec) : (setRec s r).clauses = s.clauses := by unfold setRec; split <;> rfl
@[simp] theorem setRec_nextId (s : State) (r : CRec) : (setRec s r).nextId = s.nextId := by unfold setRec; split <;> rfl
@[simp] theorem setRec_free (s : State) (r : CRec) : (setRec s r).free = s.free := by unfold setRec; split <;> rfl
@[simp] theorem setRec_turns (s : State) (r : CRec) : (setRec s r).turns = s.turns := by unfold setRec; split <;> rfl
@[simp] theorem setRec_round (s : State) (r : CRec) : (setRec s r).round = s.round := by unfold setRec; split <;> rfl
@[simp] theorem setRec_agenda (s : State) (r : CRec) : (setRec s r).agenda = s.agenda := by unfold setRec; split <;> rfl
@[simp] theorem setRec_mem (s : State) (r : CRec) : (setRec s r).mem = s.mem := by unfold setRec; split <;> rfl
@[simp] theorem setRec_poison (s : State) (r : CRec) : (setRec s r).poison = s.poison := by unfold setRec; split <;> rfl
@[simp] theorem setRec_memPoison (s : State) (r : CRec) : (setRec s r).memPoison = s.memPoison := by unfold setRec; split <;> rfl
@[simp] theorem setRec_unpub (s : State) (r : CRec) : (setRec s r).unpub = s.unpub := by unfold setRec; split <;> rfl
@[simp] theorem setRec_narrow (s : State) (r : CRec) : (setRec s r).narrow = s.narrow := by unfold setRec; split <;> rfl
@[simp] theorem setRec_spec (s : State) (r : CRec) : (setRec s r).spec = s.spec := by unfold setRec; split <;> rfl
@[simp] theorem setRec_lines (s : State) (r : CRec) : (setRec s r).lines = s.lines := by unfold setRec; split <;> rfl
@[simp] theorem setRec_away (s : State) (r : CRec) : (setRec s r).away = s.away := by unfold setRec; split <;> rfl
@[simp] theorem setRec_replied (s : State) (r : CRec) : (setRec s r).replied = s.replied := by unfold setRec; split <;> rfl
@[simp] theorem setRec_reclaimed (s : State) (r : CRec) : (setRec s r).reclaimed = s.reclaimed := by unfold setRec; split <;> rfl
@[simp] theorem setRec_pOrder (s : State) (r : CRec) : (setRec s r).pOrder = s.pOrder := by unfold setRec; split <;> rfl
@[simp] theorem setRec_retries (s : State) (r : CRec) : (setRec s r).retries = s.retries := by unfold setRec; split <;> rfl
@[simp] theorem setRec_stash (s : State) (r : CRec) : (setRec s r).stash = s.stash := by unfold setRec; split <;> rfl
@[simp] theorem setRec_emptyLines (s : State) (r : CRec) : (setRec s r).emptyLines = s.emptyLines := by unfold setRec; split <;> rfl
@[simp] theorem setRec_hostOut (s : State) (r : CRec) : (setRec s r).hostOut = s.hostOut := by unfold setRec; split <;> rfl
@[simp] theorem setRec_hostHeld (s : State) (r : CRec) : (setRec s r).hostHeld = s.hostHeld := by unfold setRec; split <;> rfl
@[simp] theorem setRec_tlb1 (s : State) (r : CRec) : (setRec s r).tlb1 = s.tlb1 := by unfold setRec; split <;> rfl
@[simp] theorem setRec_tlb2 (s : State) (r : CRec) : (setRec s r).tlb2 = s.tlb2 := by unfold setRec; split <;> rfl
@[simp] theorem setRec_tickets (s : State) (r : CRec) : (setRec s r).tickets = s.tickets := by unfold setRec; split <;> rfl
@[simp] theorem setRec_qctxs (s : State) (r : CRec) : (setRec s r).qctxs = s.qctxs := by unfold setRec; split <;> rfl
@[simp] theorem setRec_msgs (s : State) (r : CRec) : (setRec s r).msgs = s.msgs := by unfold setRec; split <;> rfl
@[simp] theorem setRec_margin (s : State) (r : CRec) : (setRec s r).margin = s.margin := by unfold setRec; split <;> rfl
@[simp] theorem setRec_mbuf (s : State) (r : CRec) : (setRec s r).mbuf = s.mbuf := by unfold setRec; split <;> rfl
@[simp] theorem setRec_anns (s : State) (r : CRec) : (setRec s r).anns = s.anns := by unfold setRec; split <;> rfl
@[simp] theorem setRec_parcels (s : State) (r : CRec) : (setRec s r).parcels = s.parcels := by unfold setRec; split <;> rfl
@[simp] theorem setRec_launches (s : State) (r : CRec) : (setRec s r).launches = s.launches := by unfold setRec; split <;> rfl
@[simp] theorem setRec_seqs (s : State) (r : CRec) : (setRec s r).seqs = s.seqs := by unfold setRec; split <;> rfl
@[simp] theorem setRec_doors (s : State) (r : CRec) : (setRec s r).doors = s.doors := by unfold setRec; split <;> rfl
@[simp] theorem setRec_orders (s : State) (r : CRec) : (setRec s r).orders = s.orders := by unfold setRec; split <;> rfl
@[simp] theorem setRec_prts (s : State) (r : CRec) : (setRec s r).prts = s.prts := by unfold setRec; split <;> rfl
@[simp] theorem setRec_cores (s : State) (r : CRec) : (setRec s r).cores = s.cores := by unfold setRec; split <;> rfl
@[simp] theorem setRec_time (s : State) (r : CRec) : (setRec s r).time = s.time := by unfold setRec; split <;> rfl
@[simp] theorem setRec_mhz (s : State) (r : CRec) : (setRec s r).mhz = s.mhz := by unfold setRec; split <;> rfl
@[simp] theorem setRec_powered (s : State) (r : CRec) : (setRec s r).powered = s.powered := by unfold setRec; split <;> rfl
@[simp] theorem setRec_strict (s : State) (r : CRec) : (setRec s r).strict = s.strict := by unfold setRec; split <;> rfl
@[simp] theorem setRec_holdover (s : State) (r : CRec) : (setRec s r).holdover = s.holdover := by unfold setRec; split <;> rfl
@[simp] theorem setRec_fwOk (s : State) (r : CRec) : (setRec s r).fwOk = s.fwOk := by unfold setRec; split <;> rfl
@[simp] theorem setRec_selfTest (s : State) (r : CRec) : (setRec s r).selfTest = s.selfTest := by unfold setRec; split <;> rfl
@[simp] theorem setRec_started (s : State) (r : CRec) : (setRec s r).started = s.started := by unfold setRec; split <;> rfl
@[simp] theorem setRec_notices (s : State) (r : CRec) : (setRec s r).notices = s.notices := by unfold setRec; split <;> rfl
@[simp] theorem setRec_net (s : State) (r : CRec) : (setRec s r).net = s.net := by unfold setRec; split <;> rfl
@[simp] theorem setRec_svc (s : State) (r : CRec) : (setRec s r).svc = s.svc := by unfold setRec; split <;> rfl

/-! ### `setTag` -/

@[simp] theorem setTag_g (s : State) (t : Tag) : (setTag s t).g = s.g := rfl
@[simp] theorem setTag_slot (s : State) (t : Tag) : (setTag s t).slot = s.slot := rfl
@[simp] theorem setTag_others (s : State) (t : Tag) : (setTag s t).others = s.others := rfl
@[simp] theorem setTag_ops (s : State) (t : Tag) : (setTag s t).ops = s.ops := rfl
@[simp] theorem setTag_clauses (s : State) (t : Tag) : (setTag s t).clauses = s.clauses := rfl
@[simp] theorem setTag_nextId (s : State) (t : Tag) : (setTag s t).nextId = s.nextId := rfl
@[simp] theorem setTag_free (s : State) (t : Tag) : (setTag s t).free = s.free := rfl
@[simp] theorem setTag_turns (s : State) (t : Tag) : (setTag s t).turns = s.turns := rfl
@[simp] theorem setTag_round (s : State) (t : Tag) : (setTag s t).round = s.round := rfl
@[simp] theorem setTag_agenda (s : State) (t : Tag) : (setTag s t).agenda = s.agenda := rfl
@[simp] theorem setTag_mem (s : State) (t : Tag) : (setTag s t).mem = s.mem := rfl
@[simp] theorem setTag_poison (s : State) (t : Tag) : (setTag s t).poison = s.poison := rfl
@[simp] theorem setTag_memPoison (s : State) (t : Tag) : (setTag s t).memPoison = s.memPoison := rfl
@[simp] theorem setTag_unpub (s : State) (t : Tag) : (setTag s t).unpub = s.unpub := rfl
@[simp] theorem setTag_narrow (s : State) (t : Tag) : (setTag s t).narrow = s.narrow := rfl
@[simp] theorem setTag_spec (s : State) (t : Tag) : (setTag s t).spec = s.spec := rfl
@[simp] theorem setTag_lines (s : State) (t : Tag) : (setTag s t).lines = s.lines := rfl
@[simp] theorem setTag_away (s : State) (t : Tag) : (setTag s t).away = s.away := rfl
@[simp] theorem setTag_replied (s : State) (t : Tag) : (setTag s t).replied = s.replied := rfl
@[simp] theorem setTag_reclaimed (s : State) (t : Tag) : (setTag s t).reclaimed = s.reclaimed := rfl
@[simp] theorem setTag_pOrder (s : State) (t : Tag) : (setTag s t).pOrder = s.pOrder := rfl
@[simp] theorem setTag_retries (s : State) (t : Tag) : (setTag s t).retries = s.retries := rfl
@[simp] theorem setTag_stash (s : State) (t : Tag) : (setTag s t).stash = s.stash := rfl
@[simp] theorem setTag_emptyLines (s : State) (t : Tag) : (setTag s t).emptyLines = s.emptyLines := rfl
@[simp] theorem setTag_hostOut (s : State) (t : Tag) : (setTag s t).hostOut = s.hostOut := rfl
@[simp] theorem setTag_hostHeld (s : State) (t : Tag) : (setTag s t).hostHeld = s.hostHeld := rfl
@[simp] theorem setTag_tlb1 (s : State) (t : Tag) : (setTag s t).tlb1 = s.tlb1 := rfl
@[simp] theorem setTag_tlb2 (s : State) (t : Tag) : (setTag s t).tlb2 = s.tlb2 := rfl
@[simp] theorem setTag_tickets (s : State) (t : Tag) : (setTag s t).tickets = s.tickets := rfl
@[simp] theorem setTag_qctxs (s : State) (t : Tag) : (setTag s t).qctxs = s.qctxs := rfl
@[simp] theorem setTag_msgs (s : State) (t : Tag) : (setTag s t).msgs = s.msgs := rfl
@[simp] theorem setTag_margin (s : State) (t : Tag) : (setTag s t).margin = s.margin := rfl
@[simp] theorem setTag_mbuf (s : State) (t : Tag) : (setTag s t).mbuf = s.mbuf := rfl
@[simp] theorem setTag_anns (s : State) (t : Tag) : (setTag s t).anns = s.anns := rfl
@[simp] theorem setTag_parcels (s : State) (t : Tag) : (setTag s t).parcels = s.parcels := rfl
@[simp] theorem setTag_launches (s : State) (t : Tag) : (setTag s t).launches = s.launches := rfl
@[simp] theorem setTag_recs (s : State) (t : Tag) : (setTag s t).recs = s.recs := rfl
@[simp] theorem setTag_seqs (s : State) (t : Tag) : (setTag s t).seqs = s.seqs := rfl
@[simp] theorem setTag_doors (s : State) (t : Tag) : (setTag s t).doors = s.doors := rfl
@[simp] theorem setTag_orders (s : State) (t : Tag) : (setTag s t).orders = s.orders := rfl
@[simp] theorem setTag_prts (s : State) (t : Tag) : (setTag s t).prts = s.prts := rfl
@[simp] theorem setTag_cores (s : State) (t : Tag) : (setTag s t).cores = s.cores := rfl
@[simp] theorem setTag_time (s : State) (t : Tag) : (setTag s t).time = s.time := rfl
@[simp] theorem setTag_mhz (s : State) (t : Tag) : (setTag s t).mhz = s.mhz := rfl
@[simp] theorem setTag_powered (s : State) (t : Tag) : (setTag s t).powered = s.powered := rfl
@[simp] theorem setTag_strict (s : State) (t : Tag) : (setTag s t).strict = s.strict := rfl
@[simp] theorem setTag_holdover (s : State) (t : Tag) : (setTag s t).holdover = s.holdover := rfl
@[simp] theorem setTag_fwOk (s : State) (t : Tag) : (setTag s t).fwOk = s.fwOk := rfl
@[simp] theorem setTag_selfTest (s : State) (t : Tag) : (setTag s t).selfTest = s.selfTest := rfl
@[simp] theorem setTag_started (s : State) (t : Tag) : (setTag s t).started = s.started := rfl
@[simp] theorem setTag_notices (s : State) (t : Tag) : (setTag s t).notices = s.notices := rfl
@[simp] theorem setTag_svc (s : State) (t : Tag) : (setTag s t).svc = s.svc := rfl

/-! ### `setSlot` -/

@[simp] theorem setSlot_g (s : State) (i : Nat) (r : RSlot) : (setSlot s i r).g = s.g := rfl
@[simp] theorem setSlot_slot (s : State) (i : Nat) (r : RSlot) : (setSlot s i r).slot = s.slot := rfl
@[simp] theorem setSlot_others (s : State) (i : Nat) (r : RSlot) : (setSlot s i r).others = s.others := rfl
@[simp] theorem setSlot_ops (s : State) (i : Nat) (r : RSlot) : (setSlot s i r).ops = s.ops := rfl
@[simp] theorem setSlot_clauses (s : State) (i : Nat) (r : RSlot) : (setSlot s i r).clauses = s.clauses := rfl
@[simp] theorem setSlot_nextId (s : State) (i : Nat) (r : RSlot) : (setSlot s i r).nextId = s.nextId := rfl
@[simp] theorem setSlot_free (s : State) (i : Nat) (r : RSlot) : (setSlot s i r).free = s.free := rfl
@[simp] theorem setSlot_turns (s : State) (i : Nat) (r : RSlot) : (setSlot s i r).turns = s.turns := rfl
@[simp] theorem setSlot_round (s : State) (i : Nat) (r : RSlot) : (setSlot s i r).round = s.round := rfl
@[simp] theorem setSlot_agenda (s : State) (i : Nat) (r : RSlot) : (setSlot s i r).agenda = s.agenda := rfl
@[simp] theorem setSlot_mem (s : State) (i : Nat) (r : RSlot) : (setSlot s i r).mem = s.mem := rfl
@[simp] theorem setSlot_poison (s : State) (i : Nat) (r : RSlot) : (setSlot s i r).poison = s.poison := rfl
@[simp] theorem setSlot_memPoison (s : State) (i : Nat) (r : RSlot) : (setSlot s i r).memPoison = s.memPoison := rfl
@[simp] theorem setSlot_unpub (s : State) (i : Nat) (r : RSlot) : (setSlot s i r).unpub = s.unpub := rfl
@[simp] theorem setSlot_narrow (s : State) (i : Nat) (r : RSlot) : (setSlot s i r).narrow = s.narrow := rfl
@[simp] theorem setSlot_spec (s : State) (i : Nat) (r : RSlot) : (setSlot s i r).spec = s.spec := rfl
@[simp] theorem setSlot_lines (s : State) (i : Nat) (r : RSlot) : (setSlot s i r).lines = s.lines := rfl
@[simp] theorem setSlot_away (s : State) (i : Nat) (r : RSlot) : (setSlot s i r).away = s.away := rfl
@[simp] theorem setSlot_replied (s : State) (i : Nat) (r : RSlot) : (setSlot s i r).replied = s.replied := rfl
@[simp] theorem setSlot_reclaimed (s : State) (i : Nat) (r : RSlot) : (setSlot s i r).reclaimed = s.reclaimed := rfl
@[simp] theorem setSlot_pOrder (s : State) (i : Nat) (r : RSlot) : (setSlot s i r).pOrder = s.pOrder := rfl
@[simp] theorem setSlot_retries (s : State) (i : Nat) (r : RSlot) : (setSlot s i r).retries = s.retries := rfl
@[simp] theorem setSlot_stash (s : State) (i : Nat) (r : RSlot) : (setSlot s i r).stash = s.stash := rfl
@[simp] theorem setSlot_emptyLines (s : State) (i : Nat) (r : RSlot) : (setSlot s i r).emptyLines = s.emptyLines := rfl
@[simp] theorem setSlot_hostOut (s : State) (i : Nat) (r : RSlot) : (setSlot s i r).hostOut = s.hostOut := rfl
@[simp] theorem setSlot_hostHeld (s : State) (i : Nat) (r : RSlot) : (setSlot s i r).hostHeld = s.hostHeld := rfl
@[simp] theorem setSlot_tlb1 (s : State) (i : Nat) (r : RSlot) : (setSlot s i r).tlb1 = s.tlb1 := rfl
@[simp] theorem setSlot_tlb2 (s : State) (i : Nat) (r : RSlot) : (setSlot s i r).tlb2 = s.tlb2 := rfl
@[simp] theorem setSlot_tickets (s : State) (i : Nat) (r : RSlot) : (setSlot s i r).tickets = s.tickets := rfl
@[simp] theorem setSlot_qctxs (s : State) (i : Nat) (r : RSlot) : (setSlot s i r).qctxs = s.qctxs := rfl
@[simp] theorem setSlot_msgs (s : State) (i : Nat) (r : RSlot) : (setSlot s i r).msgs = s.msgs := rfl
@[simp] theorem setSlot_margin (s : State) (i : Nat) (r : RSlot) : (setSlot s i r).margin = s.margin := rfl
@[simp] theorem setSlot_mbuf (s : State) (i : Nat) (r : RSlot) : (setSlot s i r).mbuf = s.mbuf := rfl
@[simp] theorem setSlot_anns (s : State) (i : Nat) (r : RSlot) : (setSlot s i r).anns = s.anns := rfl
@[simp] theorem setSlot_parcels (s : State) (i : Nat) (r : RSlot) : (setSlot s i r).parcels = s.parcels := rfl
@[simp] theorem setSlot_launches (s : State) (i : Nat) (r : RSlot) : (setSlot s i r).launches = s.launches := rfl
@[simp] theorem setSlot_recs (s : State) (i : Nat) (r : RSlot) : (setSlot s i r).recs = s.recs := rfl
@[simp] theorem setSlot_seqs (s : State) (i : Nat) (r : RSlot) : (setSlot s i r).seqs = s.seqs := rfl
@[simp] theorem setSlot_doors (s : State) (i : Nat) (r : RSlot) : (setSlot s i r).doors = s.doors := rfl
@[simp] theorem setSlot_orders (s : State) (i : Nat) (r : RSlot) : (setSlot s i r).orders = s.orders := rfl
@[simp] theorem setSlot_prts (s : State) (i : Nat) (r : RSlot) : (setSlot s i r).prts = s.prts := rfl
@[simp] theorem setSlot_cores (s : State) (i : Nat) (r : RSlot) : (setSlot s i r).cores = s.cores := rfl
@[simp] theorem setSlot_time (s : State) (i : Nat) (r : RSlot) : (setSlot s i r).time = s.time := rfl
@[simp] theorem setSlot_mhz (s : State) (i : Nat) (r : RSlot) : (setSlot s i r).mhz = s.mhz := rfl
@[simp] theorem setSlot_powered (s : State) (i : Nat) (r : RSlot) : (setSlot s i r).powered = s.powered := rfl
@[simp] theorem setSlot_strict (s : State) (i : Nat) (r : RSlot) : (setSlot s i r).strict = s.strict := rfl
@[simp] theorem setSlot_holdover (s : State) (i : Nat) (r : RSlot) : (setSlot s i r).holdover = s.holdover := rfl
@[simp] theorem setSlot_fwOk (s : State) (i : Nat) (r : RSlot) : (setSlot s i r).fwOk = s.fwOk := rfl
@[simp] theorem setSlot_selfTest (s : State) (i : Nat) (r : RSlot) : (setSlot s i r).selfTest = s.selfTest := rfl
@[simp] theorem setSlot_started (s : State) (i : Nat) (r : RSlot) : (setSlot s i r).started = s.started := rfl
@[simp] theorem setSlot_notices (s : State) (i : Nat) (r : RSlot) : (setSlot s i r).notices = s.notices := rfl
@[simp] theorem setSlot_svc (s : State) (i : Nat) (r : RSlot) : (setSlot s i r).svc = s.svc := rfl

/-! ### `setPeer` -/

@[simp] theorem setPeer_g (s : State) (n pinc st : Nat) : (setPeer s n pinc st).g = s.g := rfl
@[simp] theorem setPeer_slot (s : State) (n pinc st : Nat) : (setPeer s n pinc st).slot = s.slot := rfl
@[simp] theorem setPeer_others (s : State) (n pinc st : Nat) : (setPeer s n pinc st).others = s.others := rfl
@[simp] theorem setPeer_ops (s : State) (n pinc st : Nat) : (setPeer s n pinc st).ops = s.ops := rfl
@[simp] theorem setPeer_clauses (s : State) (n pinc st : Nat) : (setPeer s n pinc st).clauses = s.clauses := rfl
@[simp] theorem setPeer_nextId (s : State) (n pinc st : Nat) : (setPeer s n pinc st).nextId = s.nextId := rfl
@[simp] theorem setPeer_free (s : State) (n pinc st : Nat) : (setPeer s n pinc st).free = s.free := rfl
@[simp] theorem setPeer_turns (s : State) (n pinc st : Nat) : (setPeer s n pinc st).turns = s.turns := rfl
@[simp] theorem setPeer_round (s : State) (n pinc st : Nat) : (setPeer s n pinc st).round = s.round := rfl
@[simp] theorem setPeer_agenda (s : State) (n pinc st : Nat) : (setPeer s n pinc st).agenda = s.agenda := rfl
@[simp] theorem setPeer_mem (s : State) (n pinc st : Nat) : (setPeer s n pinc st).mem = s.mem := rfl
@[simp] theorem setPeer_poison (s : State) (n pinc st : Nat) : (setPeer s n pinc st).poison = s.poison := rfl
@[simp] theorem setPeer_memPoison (s : State) (n pinc st : Nat) : (setPeer s n pinc st).memPoison = s.memPoison := rfl
@[simp] theorem setPeer_unpub (s : State) (n pinc st : Nat) : (setPeer s n pinc st).unpub = s.unpub := rfl
@[simp] theorem setPeer_narrow (s : State) (n pinc st : Nat) : (setPeer s n pinc st).narrow = s.narrow := rfl
@[simp] theorem setPeer_spec (s : State) (n pinc st : Nat) : (setPeer s n pinc st).spec = s.spec := rfl
@[simp] theorem setPeer_lines (s : State) (n pinc st : Nat) : (setPeer s n pinc st).lines = s.lines := rfl
@[simp] theorem setPeer_away (s : State) (n pinc st : Nat) : (setPeer s n pinc st).away = s.away := rfl
@[simp] theorem setPeer_replied (s : State) (n pinc st : Nat) : (setPeer s n pinc st).replied = s.replied := rfl
@[simp] theorem setPeer_reclaimed (s : State) (n pinc st : Nat) : (setPeer s n pinc st).reclaimed = s.reclaimed := rfl
@[simp] theorem setPeer_pOrder (s : State) (n pinc st : Nat) : (setPeer s n pinc st).pOrder = s.pOrder := rfl
@[simp] theorem setPeer_retries (s : State) (n pinc st : Nat) : (setPeer s n pinc st).retries = s.retries := rfl
@[simp] theorem setPeer_stash (s : State) (n pinc st : Nat) : (setPeer s n pinc st).stash = s.stash := rfl
@[simp] theorem setPeer_emptyLines (s : State) (n pinc st : Nat) : (setPeer s n pinc st).emptyLines = s.emptyLines := rfl
@[simp] theorem setPeer_hostOut (s : State) (n pinc st : Nat) : (setPeer s n pinc st).hostOut = s.hostOut := rfl
@[simp] theorem setPeer_hostHeld (s : State) (n pinc st : Nat) : (setPeer s n pinc st).hostHeld = s.hostHeld := rfl
@[simp] theorem setPeer_tlb1 (s : State) (n pinc st : Nat) : (setPeer s n pinc st).tlb1 = s.tlb1 := rfl
@[simp] theorem setPeer_tlb2 (s : State) (n pinc st : Nat) : (setPeer s n pinc st).tlb2 = s.tlb2 := rfl
@[simp] theorem setPeer_tickets (s : State) (n pinc st : Nat) : (setPeer s n pinc st).tickets = s.tickets := rfl
@[simp] theorem setPeer_qctxs (s : State) (n pinc st : Nat) : (setPeer s n pinc st).qctxs = s.qctxs := rfl
@[simp] theorem setPeer_msgs (s : State) (n pinc st : Nat) : (setPeer s n pinc st).msgs = s.msgs := rfl
@[simp] theorem setPeer_margin (s : State) (n pinc st : Nat) : (setPeer s n pinc st).margin = s.margin := rfl
@[simp] theorem setPeer_mbuf (s : State) (n pinc st : Nat) : (setPeer s n pinc st).mbuf = s.mbuf := rfl
@[simp] theorem setPeer_anns (s : State) (n pinc st : Nat) : (setPeer s n pinc st).anns = s.anns := rfl
@[simp] theorem setPeer_parcels (s : State) (n pinc st : Nat) : (setPeer s n pinc st).parcels = s.parcels := rfl
@[simp] theorem setPeer_launches (s : State) (n pinc st : Nat) : (setPeer s n pinc st).launches = s.launches := rfl
@[simp] theorem setPeer_recs (s : State) (n pinc st : Nat) : (setPeer s n pinc st).recs = s.recs := rfl
@[simp] theorem setPeer_seqs (s : State) (n pinc st : Nat) : (setPeer s n pinc st).seqs = s.seqs := rfl
@[simp] theorem setPeer_doors (s : State) (n pinc st : Nat) : (setPeer s n pinc st).doors = s.doors := rfl
@[simp] theorem setPeer_orders (s : State) (n pinc st : Nat) : (setPeer s n pinc st).orders = s.orders := rfl
@[simp] theorem setPeer_prts (s : State) (n pinc st : Nat) : (setPeer s n pinc st).prts = s.prts := rfl
@[simp] theorem setPeer_cores (s : State) (n pinc st : Nat) : (setPeer s n pinc st).cores = s.cores := rfl
@[simp] theorem setPeer_time (s : State) (n pinc st : Nat) : (setPeer s n pinc st).time = s.time := rfl
@[simp] theorem setPeer_mhz (s : State) (n pinc st : Nat) : (setPeer s n pinc st).mhz = s.mhz := rfl
@[simp] theorem setPeer_powered (s : State) (n pinc st : Nat) : (setPeer s n pinc st).powered = s.powered := rfl
@[simp] theorem setPeer_strict (s : State) (n pinc st : Nat) : (setPeer s n pinc st).strict = s.strict := rfl
@[simp] theorem setPeer_holdover (s : State) (n pinc st : Nat) : (setPeer s n pinc st).holdover = s.holdover := rfl
@[simp] theorem setPeer_fwOk (s : State) (n pinc st : Nat) : (setPeer s n pinc st).fwOk = s.fwOk := rfl
@[simp] theorem setPeer_selfTest (s : State) (n pinc st : Nat) : (setPeer s n pinc st).selfTest = s.selfTest := rfl
@[simp] theorem setPeer_started (s : State) (n pinc st : Nat) : (setPeer s n pinc st).started = s.started := rfl
@[simp] theorem setPeer_notices (s : State) (n pinc st : Nat) : (setPeer s n pinc st).notices = s.notices := rfl
@[simp] theorem setPeer_svc (s : State) (n pinc st : Nat) : (setPeer s n pinc st).svc = s.svc := rfl

/-! ### `countNet` -/

@[simp] theorem countNet_g (s : State) (i n : Nat) : (countNet s i n).g = s.g := rfl
@[simp] theorem countNet_slot (s : State) (i n : Nat) : (countNet s i n).slot = s.slot := rfl
@[simp] theorem countNet_others (s : State) (i n : Nat) : (countNet s i n).others = s.others := rfl
@[simp] theorem countNet_ops (s : State) (i n : Nat) : (countNet s i n).ops = s.ops := rfl
@[simp] theorem countNet_clauses (s : State) (i n : Nat) : (countNet s i n).clauses = s.clauses := rfl
@[simp] theorem countNet_nextId (s : State) (i n : Nat) : (countNet s i n).nextId = s.nextId := rfl
@[simp] theorem countNet_free (s : State) (i n : Nat) : (countNet s i n).free = s.free := rfl
@[simp] theorem countNet_turns (s : State) (i n : Nat) : (countNet s i n).turns = s.turns := rfl
@[simp] theorem countNet_round (s : State) (i n : Nat) : (countNet s i n).round = s.round := rfl
@[simp] theorem countNet_agenda (s : State) (i n : Nat) : (countNet s i n).agenda = s.agenda := rfl
@[simp] theorem countNet_mem (s : State) (i n : Nat) : (countNet s i n).mem = s.mem := rfl
@[simp] theorem countNet_poison (s : State) (i n : Nat) : (countNet s i n).poison = s.poison := rfl
@[simp] theorem countNet_memPoison (s : State) (i n : Nat) : (countNet s i n).memPoison = s.memPoison := rfl
@[simp] theorem countNet_unpub (s : State) (i n : Nat) : (countNet s i n).unpub = s.unpub := rfl
@[simp] theorem countNet_narrow (s : State) (i n : Nat) : (countNet s i n).narrow = s.narrow := rfl
@[simp] theorem countNet_spec (s : State) (i n : Nat) : (countNet s i n).spec = s.spec := rfl
@[simp] theorem countNet_lines (s : State) (i n : Nat) : (countNet s i n).lines = s.lines := rfl
@[simp] theorem countNet_away (s : State) (i n : Nat) : (countNet s i n).away = s.away := rfl
@[simp] theorem countNet_replied (s : State) (i n : Nat) : (countNet s i n).replied = s.replied := rfl
@[simp] theorem countNet_reclaimed (s : State) (i n : Nat) : (countNet s i n).reclaimed = s.reclaimed := rfl
@[simp] theorem countNet_pOrder (s : State) (i n : Nat) : (countNet s i n).pOrder = s.pOrder := rfl
@[simp] theorem countNet_retries (s : State) (i n : Nat) : (countNet s i n).retries = s.retries := rfl
@[simp] theorem countNet_stash (s : State) (i n : Nat) : (countNet s i n).stash = s.stash := rfl
@[simp] theorem countNet_emptyLines (s : State) (i n : Nat) : (countNet s i n).emptyLines = s.emptyLines := rfl
@[simp] theorem countNet_hostOut (s : State) (i n : Nat) : (countNet s i n).hostOut = s.hostOut := rfl
@[simp] theorem countNet_hostHeld (s : State) (i n : Nat) : (countNet s i n).hostHeld = s.hostHeld := rfl
@[simp] theorem countNet_tlb1 (s : State) (i n : Nat) : (countNet s i n).tlb1 = s.tlb1 := rfl
@[simp] theorem countNet_tlb2 (s : State) (i n : Nat) : (countNet s i n).tlb2 = s.tlb2 := rfl
@[simp] theorem countNet_tickets (s : State) (i n : Nat) : (countNet s i n).tickets = s.tickets := rfl
@[simp] theorem countNet_qctxs (s : State) (i n : Nat) : (countNet s i n).qctxs = s.qctxs := rfl
@[simp] theorem countNet_msgs (s : State) (i n : Nat) : (countNet s i n).msgs = s.msgs := rfl
@[simp] theorem countNet_margin (s : State) (i n : Nat) : (countNet s i n).margin = s.margin := rfl
@[simp] theorem countNet_mbuf (s : State) (i n : Nat) : (countNet s i n).mbuf = s.mbuf := rfl
@[simp] theorem countNet_anns (s : State) (i n : Nat) : (countNet s i n).anns = s.anns := rfl
@[simp] theorem countNet_parcels (s : State) (i n : Nat) : (countNet s i n).parcels = s.parcels := rfl
@[simp] theorem countNet_launches (s : State) (i n : Nat) : (countNet s i n).launches = s.launches := rfl
@[simp] theorem countNet_recs (s : State) (i n : Nat) : (countNet s i n).recs = s.recs := rfl
@[simp] theorem countNet_seqs (s : State) (i n : Nat) : (countNet s i n).seqs = s.seqs := rfl
@[simp] theorem countNet_doors (s : State) (i n : Nat) : (countNet s i n).doors = s.doors := rfl
@[simp] theorem countNet_orders (s : State) (i n : Nat) : (countNet s i n).orders = s.orders := rfl
@[simp] theorem countNet_prts (s : State) (i n : Nat) : (countNet s i n).prts = s.prts := rfl
@[simp] theorem countNet_cores (s : State) (i n : Nat) : (countNet s i n).cores = s.cores := rfl
@[simp] theorem countNet_time (s : State) (i n : Nat) : (countNet s i n).time = s.time := rfl
@[simp] theorem countNet_mhz (s : State) (i n : Nat) : (countNet s i n).mhz = s.mhz := rfl
@[simp] theorem countNet_powered (s : State) (i n : Nat) : (countNet s i n).powered = s.powered := rfl
@[simp] theorem countNet_strict (s : State) (i n : Nat) : (countNet s i n).strict = s.strict := rfl
@[simp] theorem countNet_holdover (s : State) (i n : Nat) : (countNet s i n).holdover = s.holdover := rfl
@[simp] theorem countNet_fwOk (s : State) (i n : Nat) : (countNet s i n).fwOk = s.fwOk := rfl
@[simp] theorem countNet_selfTest (s : State) (i n : Nat) : (countNet s i n).selfTest = s.selfTest := rfl
@[simp] theorem countNet_started (s : State) (i n : Nat) : (countNet s i n).started = s.started := rfl
@[simp] theorem countNet_notices (s : State) (i n : Nat) : (countNet s i n).notices = s.notices := rfl
@[simp] theorem countNet_svc (s : State) (i n : Nat) : (countNet s i n).svc = s.svc := rfl

/-! ### `setBox` -/

@[simp] theorem setBox_g (s : State) (snd : Sender) (f : Mbox → Mbox) : (setBox s snd f).g = s.g := by unfold setBox; split <;> simp
@[simp] theorem setBox_slot (s : State) (snd : Sender) (f : Mbox → Mbox) : (setBox s snd f).slot = s.slot := by unfold setBox; split <;> simp
@[simp] theorem setBox_others (s : State) (snd : Sender) (f : Mbox → Mbox) : (setBox s snd f).others = s.others := by unfold setBox; split <;> simp
@[simp] theorem setBox_ops (s : State) (snd : Sender) (f : Mbox → Mbox) : (setBox s snd f).ops = s.ops := by unfold setBox; split <;> simp
@[simp] theorem setBox_clauses (s : State) (snd : Sender) (f : Mbox → Mbox) : (setBox s snd f).clauses = s.clauses := by unfold setBox; split <;> simp
@[simp] theorem setBox_nextId (s : State) (snd : Sender) (f : Mbox → Mbox) : (setBox s snd f).nextId = s.nextId := by unfold setBox; split <;> simp
@[simp] theorem setBox_free (s : State) (snd : Sender) (f : Mbox → Mbox) : (setBox s snd f).free = s.free := by unfold setBox; split <;> simp
@[simp] theorem setBox_turns (s : State) (snd : Sender) (f : Mbox → Mbox) : (setBox s snd f).turns = s.turns := by unfold setBox; split <;> simp
@[simp] theorem setBox_round (s : State) (snd : Sender) (f : Mbox → Mbox) : (setBox s snd f).round = s.round := by unfold setBox; split <;> simp
@[simp] theorem setBox_agenda (s : State) (snd : Sender) (f : Mbox → Mbox) : (setBox s snd f).agenda = s.agenda := by unfold setBox; split <;> simp
@[simp] theorem setBox_mem (s : State) (snd : Sender) (f : Mbox → Mbox) : (setBox s snd f).mem = s.mem := by unfold setBox; split <;> simp
@[simp] theorem setBox_poison (s : State) (snd : Sender) (f : Mbox → Mbox) : (setBox s snd f).poison = s.poison := by unfold setBox; split <;> simp
@[simp] theorem setBox_memPoison (s : State) (snd : Sender) (f : Mbox → Mbox) : (setBox s snd f).memPoison = s.memPoison := by unfold setBox; split <;> simp
@[simp] theorem setBox_unpub (s : State) (snd : Sender) (f : Mbox → Mbox) : (setBox s snd f).unpub = s.unpub := by unfold setBox; split <;> simp
@[simp] theorem setBox_narrow (s : State) (snd : Sender) (f : Mbox → Mbox) : (setBox s snd f).narrow = s.narrow := by unfold setBox; split <;> simp
@[simp] theorem setBox_spec (s : State) (snd : Sender) (f : Mbox → Mbox) : (setBox s snd f).spec = s.spec := by unfold setBox; split <;> simp
@[simp] theorem setBox_lines (s : State) (snd : Sender) (f : Mbox → Mbox) : (setBox s snd f).lines = s.lines := by unfold setBox; split <;> simp
@[simp] theorem setBox_away (s : State) (snd : Sender) (f : Mbox → Mbox) : (setBox s snd f).away = s.away := by unfold setBox; split <;> simp
@[simp] theorem setBox_replied (s : State) (snd : Sender) (f : Mbox → Mbox) : (setBox s snd f).replied = s.replied := by unfold setBox; split <;> simp
@[simp] theorem setBox_reclaimed (s : State) (snd : Sender) (f : Mbox → Mbox) : (setBox s snd f).reclaimed = s.reclaimed := by unfold setBox; split <;> simp
@[simp] theorem setBox_pOrder (s : State) (snd : Sender) (f : Mbox → Mbox) : (setBox s snd f).pOrder = s.pOrder := by unfold setBox; split <;> simp
@[simp] theorem setBox_retries (s : State) (snd : Sender) (f : Mbox → Mbox) : (setBox s snd f).retries = s.retries := by unfold setBox; split <;> simp
@[simp] theorem setBox_stash (s : State) (snd : Sender) (f : Mbox → Mbox) : (setBox s snd f).stash = s.stash := by unfold setBox; split <;> simp
@[simp] theorem setBox_emptyLines (s : State) (snd : Sender) (f : Mbox → Mbox) : (setBox s snd f).emptyLines = s.emptyLines := by unfold setBox; split <;> simp
@[simp] theorem setBox_hostOut (s : State) (snd : Sender) (f : Mbox → Mbox) : (setBox s snd f).hostOut = s.hostOut := by unfold setBox; split <;> simp
@[simp] theorem setBox_hostHeld (s : State) (snd : Sender) (f : Mbox → Mbox) : (setBox s snd f).hostHeld = s.hostHeld := by unfold setBox; split <;> simp
@[simp] theorem setBox_tlb1 (s : State) (snd : Sender) (f : Mbox → Mbox) : (setBox s snd f).tlb1 = s.tlb1 := by unfold setBox; split <;> simp
@[simp] theorem setBox_tlb2 (s : State) (snd : Sender) (f : Mbox → Mbox) : (setBox s snd f).tlb2 = s.tlb2 := by unfold setBox; split <;> simp
@[simp] theorem setBox_tickets (s : State) (snd : Sender) (f : Mbox → Mbox) : (setBox s snd f).tickets = s.tickets := by unfold setBox; split <;> simp
@[simp] theorem setBox_qctxs (s : State) (snd : Sender) (f : Mbox → Mbox) : (setBox s snd f).qctxs = s.qctxs := by unfold setBox; split <;> simp
@[simp] theorem setBox_msgs (s : State) (snd : Sender) (f : Mbox → Mbox) : (setBox s snd f).msgs = s.msgs := by unfold setBox; split <;> simp
@[simp] theorem setBox_margin (s : State) (snd : Sender) (f : Mbox → Mbox) : (setBox s snd f).margin = s.margin := by unfold setBox; split <;> simp
@[simp] theorem setBox_mbuf (s : State) (snd : Sender) (f : Mbox → Mbox) : (setBox s snd f).mbuf = s.mbuf := by unfold setBox; split <;> simp
@[simp] theorem setBox_anns (s : State) (snd : Sender) (f : Mbox → Mbox) : (setBox s snd f).anns = s.anns := by unfold setBox; split <;> simp
@[simp] theorem setBox_parcels (s : State) (snd : Sender) (f : Mbox → Mbox) : (setBox s snd f).parcels = s.parcels := by unfold setBox; split <;> simp
@[simp] theorem setBox_launches (s : State) (snd : Sender) (f : Mbox → Mbox) : (setBox s snd f).launches = s.launches := by unfold setBox; split <;> simp
@[simp] theorem setBox_recs (s : State) (snd : Sender) (f : Mbox → Mbox) : (setBox s snd f).recs = s.recs := by unfold setBox; split <;> simp
@[simp] theorem setBox_seqs (s : State) (snd : Sender) (f : Mbox → Mbox) : (setBox s snd f).seqs = s.seqs := by unfold setBox; split <;> simp
@[simp] theorem setBox_doors (s : State) (snd : Sender) (f : Mbox → Mbox) : (setBox s snd f).doors = s.doors := by unfold setBox; split <;> simp
@[simp] theorem setBox_orders (s : State) (snd : Sender) (f : Mbox → Mbox) : (setBox s snd f).orders = s.orders := by unfold setBox; split <;> simp
@[simp] theorem setBox_cores (s : State) (snd : Sender) (f : Mbox → Mbox) : (setBox s snd f).cores = s.cores := by unfold setBox; split <;> simp
@[simp] theorem setBox_time (s : State) (snd : Sender) (f : Mbox → Mbox) : (setBox s snd f).time = s.time := by unfold setBox; split <;> simp
@[simp] theorem setBox_mhz (s : State) (snd : Sender) (f : Mbox → Mbox) : (setBox s snd f).mhz = s.mhz := by unfold setBox; split <;> simp
@[simp] theorem setBox_powered (s : State) (snd : Sender) (f : Mbox → Mbox) : (setBox s snd f).powered = s.powered := by unfold setBox; split <;> simp
@[simp] theorem setBox_strict (s : State) (snd : Sender) (f : Mbox → Mbox) : (setBox s snd f).strict = s.strict := by unfold setBox; split <;> simp
@[simp] theorem setBox_holdover (s : State) (snd : Sender) (f : Mbox → Mbox) : (setBox s snd f).holdover = s.holdover := by unfold setBox; split <;> simp
@[simp] theorem setBox_fwOk (s : State) (snd : Sender) (f : Mbox → Mbox) : (setBox s snd f).fwOk = s.fwOk := by unfold setBox; split <;> simp
@[simp] theorem setBox_selfTest (s : State) (snd : Sender) (f : Mbox → Mbox) : (setBox s snd f).selfTest = s.selfTest := by unfold setBox; split <;> simp
@[simp] theorem setBox_started (s : State) (snd : Sender) (f : Mbox → Mbox) : (setBox s snd f).started = s.started := by unfold setBox; split <;> simp
@[simp] theorem setBox_notices (s : State) (snd : Sender) (f : Mbox → Mbox) : (setBox s snd f).notices = s.notices := by unfold setBox; split <;> simp
@[simp] theorem setBox_net (s : State) (snd : Sender) (f : Mbox → Mbox) : (setBox s snd f).net = s.net := by unfold setBox; split <;> simp

/-! ### `setCtr` -/

@[simp] theorem setCtr_g (s : State) (c : JobCtr) : (setCtr s c).g = s.g := rfl
@[simp] theorem setCtr_slot (s : State) (c : JobCtr) : (setCtr s c).slot = s.slot := rfl
@[simp] theorem setCtr_others (s : State) (c : JobCtr) : (setCtr s c).others = s.others := rfl
@[simp] theorem setCtr_ops (s : State) (c : JobCtr) : (setCtr s c).ops = s.ops := rfl
@[simp] theorem setCtr_clauses (s : State) (c : JobCtr) : (setCtr s c).clauses = s.clauses := rfl
@[simp] theorem setCtr_nextId (s : State) (c : JobCtr) : (setCtr s c).nextId = s.nextId := rfl
@[simp] theorem setCtr_free (s : State) (c : JobCtr) : (setCtr s c).free = s.free := rfl
@[simp] theorem setCtr_turns (s : State) (c : JobCtr) : (setCtr s c).turns = s.turns := rfl
@[simp] theorem setCtr_round (s : State) (c : JobCtr) : (setCtr s c).round = s.round := rfl
@[simp] theorem setCtr_agenda (s : State) (c : JobCtr) : (setCtr s c).agenda = s.agenda := rfl
@[simp] theorem setCtr_mem (s : State) (c : JobCtr) : (setCtr s c).mem = s.mem := rfl
@[simp] theorem setCtr_poison (s : State) (c : JobCtr) : (setCtr s c).poison = s.poison := rfl
@[simp] theorem setCtr_memPoison (s : State) (c : JobCtr) : (setCtr s c).memPoison = s.memPoison := rfl
@[simp] theorem setCtr_unpub (s : State) (c : JobCtr) : (setCtr s c).unpub = s.unpub := rfl
@[simp] theorem setCtr_narrow (s : State) (c : JobCtr) : (setCtr s c).narrow = s.narrow := rfl
@[simp] theorem setCtr_spec (s : State) (c : JobCtr) : (setCtr s c).spec = s.spec := rfl
@[simp] theorem setCtr_lines (s : State) (c : JobCtr) : (setCtr s c).lines = s.lines := rfl
@[simp] theorem setCtr_away (s : State) (c : JobCtr) : (setCtr s c).away = s.away := rfl
@[simp] theorem setCtr_replied (s : State) (c : JobCtr) : (setCtr s c).replied = s.replied := rfl
@[simp] theorem setCtr_reclaimed (s : State) (c : JobCtr) : (setCtr s c).reclaimed = s.reclaimed := rfl
@[simp] theorem setCtr_pOrder (s : State) (c : JobCtr) : (setCtr s c).pOrder = s.pOrder := rfl
@[simp] theorem setCtr_retries (s : State) (c : JobCtr) : (setCtr s c).retries = s.retries := rfl
@[simp] theorem setCtr_stash (s : State) (c : JobCtr) : (setCtr s c).stash = s.stash := rfl
@[simp] theorem setCtr_emptyLines (s : State) (c : JobCtr) : (setCtr s c).emptyLines = s.emptyLines := rfl
@[simp] theorem setCtr_hostOut (s : State) (c : JobCtr) : (setCtr s c).hostOut = s.hostOut := rfl
@[simp] theorem setCtr_hostHeld (s : State) (c : JobCtr) : (setCtr s c).hostHeld = s.hostHeld := rfl
@[simp] theorem setCtr_tlb1 (s : State) (c : JobCtr) : (setCtr s c).tlb1 = s.tlb1 := rfl
@[simp] theorem setCtr_tlb2 (s : State) (c : JobCtr) : (setCtr s c).tlb2 = s.tlb2 := rfl
@[simp] theorem setCtr_tickets (s : State) (c : JobCtr) : (setCtr s c).tickets = s.tickets := rfl
@[simp] theorem setCtr_qctxs (s : State) (c : JobCtr) : (setCtr s c).qctxs = s.qctxs := rfl
@[simp] theorem setCtr_msgs (s : State) (c : JobCtr) : (setCtr s c).msgs = s.msgs := rfl
@[simp] theorem setCtr_margin (s : State) (c : JobCtr) : (setCtr s c).margin = s.margin := rfl
@[simp] theorem setCtr_mbuf (s : State) (c : JobCtr) : (setCtr s c).mbuf = s.mbuf := rfl
@[simp] theorem setCtr_anns (s : State) (c : JobCtr) : (setCtr s c).anns = s.anns := rfl
@[simp] theorem setCtr_parcels (s : State) (c : JobCtr) : (setCtr s c).parcels = s.parcels := rfl
@[simp] theorem setCtr_launches (s : State) (c : JobCtr) : (setCtr s c).launches = s.launches := rfl
@[simp] theorem setCtr_recs (s : State) (c : JobCtr) : (setCtr s c).recs = s.recs := rfl
@[simp] theorem setCtr_seqs (s : State) (c : JobCtr) : (setCtr s c).seqs = s.seqs := rfl
@[simp] theorem setCtr_doors (s : State) (c : JobCtr) : (setCtr s c).doors = s.doors := rfl
@[simp] theorem setCtr_orders (s : State) (c : JobCtr) : (setCtr s c).orders = s.orders := rfl
@[simp] theorem setCtr_prts (s : State) (c : JobCtr) : (setCtr s c).prts = s.prts := rfl
@[simp] theorem setCtr_cores (s : State) (c : JobCtr) : (setCtr s c).cores = s.cores := rfl
@[simp] theorem setCtr_time (s : State) (c : JobCtr) : (setCtr s c).time = s.time := rfl
@[simp] theorem setCtr_mhz (s : State) (c : JobCtr) : (setCtr s c).mhz = s.mhz := rfl
@[simp] theorem setCtr_powered (s : State) (c : JobCtr) : (setCtr s c).powered = s.powered := rfl
@[simp] theorem setCtr_strict (s : State) (c : JobCtr) : (setCtr s c).strict = s.strict := rfl
@[simp] theorem setCtr_holdover (s : State) (c : JobCtr) : (setCtr s c).holdover = s.holdover := rfl
@[simp] theorem setCtr_fwOk (s : State) (c : JobCtr) : (setCtr s c).fwOk = s.fwOk := rfl
@[simp] theorem setCtr_selfTest (s : State) (c : JobCtr) : (setCtr s c).selfTest = s.selfTest := rfl
@[simp] theorem setCtr_started (s : State) (c : JobCtr) : (setCtr s c).started = s.started := rfl
@[simp] theorem setCtr_notices (s : State) (c : JobCtr) : (setCtr s c).notices = s.notices := rfl
@[simp] theorem setCtr_net (s : State) (c : JobCtr) : (setCtr s c).net = s.net := rfl

/-! ### `setCkpt` -/

@[simp] theorem setCkpt_g (s : State) (c : Ckpt) : (setCkpt s c).g = s.g := rfl
@[simp] theorem setCkpt_slot (s : State) (c : Ckpt) : (setCkpt s c).slot = s.slot := rfl
@[simp] theorem setCkpt_others (s : State) (c : Ckpt) : (setCkpt s c).others = s.others := rfl
@[simp] theorem setCkpt_ops (s : State) (c : Ckpt) : (setCkpt s c).ops = s.ops := rfl
@[simp] theorem setCkpt_clauses (s : State) (c : Ckpt) : (setCkpt s c).clauses = s.clauses := rfl
@[simp] theorem setCkpt_nextId (s : State) (c : Ckpt) : (setCkpt s c).nextId = s.nextId := rfl
@[simp] theorem setCkpt_free (s : State) (c : Ckpt) : (setCkpt s c).free = s.free := rfl
@[simp] theorem setCkpt_turns (s : State) (c : Ckpt) : (setCkpt s c).turns = s.turns := rfl
@[simp] theorem setCkpt_round (s : State) (c : Ckpt) : (setCkpt s c).round = s.round := rfl
@[simp] theorem setCkpt_agenda (s : State) (c : Ckpt) : (setCkpt s c).agenda = s.agenda := rfl
@[simp] theorem setCkpt_mem (s : State) (c : Ckpt) : (setCkpt s c).mem = s.mem := rfl
@[simp] theorem setCkpt_poison (s : State) (c : Ckpt) : (setCkpt s c).poison = s.poison := rfl
@[simp] theorem setCkpt_memPoison (s : State) (c : Ckpt) : (setCkpt s c).memPoison = s.memPoison := rfl
@[simp] theorem setCkpt_unpub (s : State) (c : Ckpt) : (setCkpt s c).unpub = s.unpub := rfl
@[simp] theorem setCkpt_narrow (s : State) (c : Ckpt) : (setCkpt s c).narrow = s.narrow := rfl
@[simp] theorem setCkpt_spec (s : State) (c : Ckpt) : (setCkpt s c).spec = s.spec := rfl
@[simp] theorem setCkpt_lines (s : State) (c : Ckpt) : (setCkpt s c).lines = s.lines := rfl
@[simp] theorem setCkpt_away (s : State) (c : Ckpt) : (setCkpt s c).away = s.away := rfl
@[simp] theorem setCkpt_replied (s : State) (c : Ckpt) : (setCkpt s c).replied = s.replied := rfl
@[simp] theorem setCkpt_reclaimed (s : State) (c : Ckpt) : (setCkpt s c).reclaimed = s.reclaimed := rfl
@[simp] theorem setCkpt_pOrder (s : State) (c : Ckpt) : (setCkpt s c).pOrder = s.pOrder := rfl
@[simp] theorem setCkpt_retries (s : State) (c : Ckpt) : (setCkpt s c).retries = s.retries := rfl
@[simp] theorem setCkpt_stash (s : State) (c : Ckpt) : (setCkpt s c).stash = s.stash := rfl
@[simp] theorem setCkpt_emptyLines (s : State) (c : Ckpt) : (setCkpt s c).emptyLines = s.emptyLines := rfl
@[simp] theorem setCkpt_hostOut (s : State) (c : Ckpt) : (setCkpt s c).hostOut = s.hostOut := rfl
@[simp] theorem setCkpt_hostHeld (s : State) (c : Ckpt) : (setCkpt s c).hostHeld = s.hostHeld := rfl
@[simp] theorem setCkpt_tlb1 (s : State) (c : Ckpt) : (setCkpt s c).tlb1 = s.tlb1 := rfl
@[simp] theorem setCkpt_tlb2 (s : State) (c : Ckpt) : (setCkpt s c).tlb2 = s.tlb2 := rfl
@[simp] theorem setCkpt_tickets (s : State) (c : Ckpt) : (setCkpt s c).tickets = s.tickets := rfl
@[simp] theorem setCkpt_qctxs (s : State) (c : Ckpt) : (setCkpt s c).qctxs = s.qctxs := rfl
@[simp] theorem setCkpt_msgs (s : State) (c : Ckpt) : (setCkpt s c).msgs = s.msgs := rfl
@[simp] theorem setCkpt_margin (s : State) (c : Ckpt) : (setCkpt s c).margin = s.margin := rfl
@[simp] theorem setCkpt_mbuf (s : State) (c : Ckpt) : (setCkpt s c).mbuf = s.mbuf := rfl
@[simp] theorem setCkpt_anns (s : State) (c : Ckpt) : (setCkpt s c).anns = s.anns := rfl
@[simp] theorem setCkpt_parcels (s : State) (c : Ckpt) : (setCkpt s c).parcels = s.parcels := rfl
@[simp] theorem setCkpt_launches (s : State) (c : Ckpt) : (setCkpt s c).launches = s.launches := rfl
@[simp] theorem setCkpt_recs (s : State) (c : Ckpt) : (setCkpt s c).recs = s.recs := rfl
@[simp] theorem setCkpt_seqs (s : State) (c : Ckpt) : (setCkpt s c).seqs = s.seqs := rfl
@[simp] theorem setCkpt_doors (s : State) (c : Ckpt) : (setCkpt s c).doors = s.doors := rfl
@[simp] theorem setCkpt_orders (s : State) (c : Ckpt) : (setCkpt s c).orders = s.orders := rfl
@[simp] theorem setCkpt_prts (s : State) (c : Ckpt) : (setCkpt s c).prts = s.prts := rfl
@[simp] theorem setCkpt_cores (s : State) (c : Ckpt) : (setCkpt s c).cores = s.cores := rfl
@[simp] theorem setCkpt_time (s : State) (c : Ckpt) : (setCkpt s c).time = s.time := rfl
@[simp] theorem setCkpt_mhz (s : State) (c : Ckpt) : (setCkpt s c).mhz = s.mhz := rfl
@[simp] theorem setCkpt_powered (s : State) (c : Ckpt) : (setCkpt s c).powered = s.powered := rfl
@[simp] theorem setCkpt_strict (s : State) (c : Ckpt) : (setCkpt s c).strict = s.strict := rfl
@[simp] theorem setCkpt_holdover (s : State) (c : Ckpt) : (setCkpt s c).holdover = s.holdover := rfl
@[simp] theorem setCkpt_fwOk (s : State) (c : Ckpt) : (setCkpt s c).fwOk = s.fwOk := rfl
@[simp] theorem setCkpt_selfTest (s : State) (c : Ckpt) : (setCkpt s c).selfTest = s.selfTest := rfl
@[simp] theorem setCkpt_started (s : State) (c : Ckpt) : (setCkpt s c).started = s.started := rfl
@[simp] theorem setCkpt_notices (s : State) (c : Ckpt) : (setCkpt s c).notices = s.notices := rfl
@[simp] theorem setCkpt_net (s : State) (c : Ckpt) : (setCkpt s c).net = s.net := rfl

/-! ### `setLine` -/

@[simp] theorem setLine_g (s : State) (l : Line) : (setLine s l).g = s.g := by unfold setLine; split <;> rfl
@[simp] theorem setLine_slot (s : State) (l : Line) : (setLine s l).slot = s.slot := by unfold setLine; split <;> rfl
@[simp] theorem setLine_others (s : State) (l : Line) : (setLine s l).others = s.others := by unfold setLine; split <;> rfl
@[simp] theorem setLine_ops (s : State) (l : Line) : (setLine s l).ops = s.ops := by unfold setLine; split <;> rfl
@[simp] theorem setLine_clauses (s : State) (l : Line) : (setLine s l).clauses = s.clauses := by unfold setLine; split <;> rfl
@[simp] theorem setLine_nextId (s : State) (l : Line) : (setLine s l).nextId = s.nextId := by unfold setLine; split <;> rfl
@[simp] theorem setLine_free (s : State) (l : Line) : (setLine s l).free = s.free := by unfold setLine; split <;> rfl
@[simp] theorem setLine_turns (s : State) (l : Line) : (setLine s l).turns = s.turns := by unfold setLine; split <;> rfl
@[simp] theorem setLine_round (s : State) (l : Line) : (setLine s l).round = s.round := by unfold setLine; split <;> rfl
@[simp] theorem setLine_agenda (s : State) (l : Line) : (setLine s l).agenda = s.agenda := by unfold setLine; split <;> rfl
@[simp] theorem setLine_mem (s : State) (l : Line) : (setLine s l).mem = s.mem := by unfold setLine; split <;> rfl
@[simp] theorem setLine_poison (s : State) (l : Line) : (setLine s l).poison = s.poison := by unfold setLine; split <;> rfl
@[simp] theorem setLine_memPoison (s : State) (l : Line) : (setLine s l).memPoison = s.memPoison := by unfold setLine; split <;> rfl
@[simp] theorem setLine_unpub (s : State) (l : Line) : (setLine s l).unpub = s.unpub := by unfold setLine; split <;> rfl
@[simp] theorem setLine_narrow (s : State) (l : Line) : (setLine s l).narrow = s.narrow := by unfold setLine; split <;> rfl
@[simp] theorem setLine_spec (s : State) (l : Line) : (setLine s l).spec = s.spec := by unfold setLine; split <;> rfl
@[simp] theorem setLine_away (s : State) (l : Line) : (setLine s l).away = s.away := by unfold setLine; split <;> rfl
@[simp] theorem setLine_replied (s : State) (l : Line) : (setLine s l).replied = s.replied := by unfold setLine; split <;> rfl
@[simp] theorem setLine_reclaimed (s : State) (l : Line) : (setLine s l).reclaimed = s.reclaimed := by unfold setLine; split <;> rfl
@[simp] theorem setLine_pOrder (s : State) (l : Line) : (setLine s l).pOrder = s.pOrder := by unfold setLine; split <;> rfl
@[simp] theorem setLine_retries (s : State) (l : Line) : (setLine s l).retries = s.retries := by unfold setLine; split <;> rfl
@[simp] theorem setLine_stash (s : State) (l : Line) : (setLine s l).stash = s.stash := by unfold setLine; split <;> rfl
@[simp] theorem setLine_emptyLines (s : State) (l : Line) : (setLine s l).emptyLines = s.emptyLines := by unfold setLine; split <;> rfl
@[simp] theorem setLine_hostOut (s : State) (l : Line) : (setLine s l).hostOut = s.hostOut := by unfold setLine; split <;> rfl
@[simp] theorem setLine_hostHeld (s : State) (l : Line) : (setLine s l).hostHeld = s.hostHeld := by unfold setLine; split <;> rfl
@[simp] theorem setLine_tlb1 (s : State) (l : Line) : (setLine s l).tlb1 = s.tlb1 := by unfold setLine; split <;> rfl
@[simp] theorem setLine_tlb2 (s : State) (l : Line) : (setLine s l).tlb2 = s.tlb2 := by unfold setLine; split <;> rfl
@[simp] theorem setLine_tickets (s : State) (l : Line) : (setLine s l).tickets = s.tickets := by unfold setLine; split <;> rfl
@[simp] theorem setLine_qctxs (s : State) (l : Line) : (setLine s l).qctxs = s.qctxs := by unfold setLine; split <;> rfl
@[simp] theorem setLine_msgs (s : State) (l : Line) : (setLine s l).msgs = s.msgs := by unfold setLine; split <;> rfl
@[simp] theorem setLine_margin (s : State) (l : Line) : (setLine s l).margin = s.margin := by unfold setLine; split <;> rfl
@[simp] theorem setLine_mbuf (s : State) (l : Line) : (setLine s l).mbuf = s.mbuf := by unfold setLine; split <;> rfl
@[simp] theorem setLine_anns (s : State) (l : Line) : (setLine s l).anns = s.anns := by unfold setLine; split <;> rfl
@[simp] theorem setLine_parcels (s : State) (l : Line) : (setLine s l).parcels = s.parcels := by unfold setLine; split <;> rfl
@[simp] theorem setLine_launches (s : State) (l : Line) : (setLine s l).launches = s.launches := by unfold setLine; split <;> rfl
@[simp] theorem setLine_recs (s : State) (l : Line) : (setLine s l).recs = s.recs := by unfold setLine; split <;> rfl
@[simp] theorem setLine_seqs (s : State) (l : Line) : (setLine s l).seqs = s.seqs := by unfold setLine; split <;> rfl
@[simp] theorem setLine_doors (s : State) (l : Line) : (setLine s l).doors = s.doors := by unfold setLine; split <;> rfl
@[simp] theorem setLine_orders (s : State) (l : Line) : (setLine s l).orders = s.orders := by unfold setLine; split <;> rfl
@[simp] theorem setLine_prts (s : State) (l : Line) : (setLine s l).prts = s.prts := by unfold setLine; split <;> rfl
@[simp] theorem setLine_cores (s : State) (l : Line) : (setLine s l).cores = s.cores := by unfold setLine; split <;> rfl
@[simp] theorem setLine_time (s : State) (l : Line) : (setLine s l).time = s.time := by unfold setLine; split <;> rfl
@[simp] theorem setLine_mhz (s : State) (l : Line) : (setLine s l).mhz = s.mhz := by unfold setLine; split <;> rfl
@[simp] theorem setLine_powered (s : State) (l : Line) : (setLine s l).powered = s.powered := by unfold setLine; split <;> rfl
@[simp] theorem setLine_strict (s : State) (l : Line) : (setLine s l).strict = s.strict := by unfold setLine; split <;> rfl
@[simp] theorem setLine_holdover (s : State) (l : Line) : (setLine s l).holdover = s.holdover := by unfold setLine; split <;> rfl
@[simp] theorem setLine_fwOk (s : State) (l : Line) : (setLine s l).fwOk = s.fwOk := by unfold setLine; split <;> rfl
@[simp] theorem setLine_selfTest (s : State) (l : Line) : (setLine s l).selfTest = s.selfTest := by unfold setLine; split <;> rfl
@[simp] theorem setLine_started (s : State) (l : Line) : (setLine s l).started = s.started := by unfold setLine; split <;> rfl
@[simp] theorem setLine_notices (s : State) (l : Line) : (setLine s l).notices = s.notices := by unfold setLine; split <;> rfl
@[simp] theorem setLine_net (s : State) (l : Line) : (setLine s l).net = s.net := by unfold setLine; split <;> rfl
@[simp] theorem setLine_svc (s : State) (l : Line) : (setLine s l).svc = s.svc := by unfold setLine; split <;> rfl

end Sys2Proof.Machine
end

