-- ==== Sys2Proof/Laws/Ops.lean ====
section
/-!
SUPPORT. What each shared operation can do, said once: waits, gates, the checks before an access, register writes, records set and
read back, requests of the mailbox, lane results, traps.
-/

namespace Sys2Proof.Machine

open Sys2Proof

/-! ## Waits and gates -/

/-- A wait is a next state in which only the focused path's wait has changed. -/
theorem waitFor_next (s : State) (w : Wait) : ∃ t, waitFor s w = .next t ∧ (cur t).wait = some w ∧ (cur t).pc = (cur s).pc ∧
    t.g.s = s.g.s ∧ t.g.v = s.g.v ∧ t.mem = s.mem ∧ t.stash = s.stash ∧ t.ops = s.ops ∧ t.others = s.others := by
  refine ⟨_, rfl, ?_⟩
  cases hs : s.slot <;> simp [setCur, setPath, cur, pathOf, hs]

theorem needS_ready {s : State} {l : List SReg} {k : Res} (h : Safety.settled s l) : needS s l k = k := by
  unfold needS
  have : l.find? (fun r => (pendingS s r).isSome) = none := by
    simp only [Safety.settled, List.all_eq_true] at h
    simp only [List.find?_eq_none]
    intro r hr
    have := h r hr
    cases hp : pendingS s r <;> simp_all
  have hp : l.find? (peerPending s) = none := by
    rw [List.find?_eq_none] at this ⊢
    intro r hr hq
    have := this r hr
    cases hs : pendingS s r <;> simp_all [peerPending]
  rw [this, hp]

/-- An instruction that names a register awaiting a load waits, whatever it is. -/
theorem needS_pending {s : State} {l : List SReg} {k : Res} (h : ¬Safety.settled s l) : ∃ w, needS s l k = waitFor s w := by
  unfold needS
  split
  · exact ⟨_, rfl⟩
  · exact ⟨_, rfl⟩
  · rename_i _ hn
    refine absurd ?_ h
    simp only [Safety.settled, List.all_eq_true]
    intro r hr
    have := List.find?_eq_none.mp hn r hr
    cases hp : pendingS s r <;> simp_all

theorem settled_sub {s : State} {l l' : List SReg} (h : Safety.settled s l) (hs : ∀ x ∈ l', x ∈ l) : Safety.settled s l' := by
  simp only [Safety.settled, List.all_eq_true] at *
  intro r hr
  exact h r (hs r hr)

theorem gated_on {s : State} {bit : Nat} {k : Res} (h : featOn s s.g.pid bit = true) : gated s bit k = k := by simp [gated, h]

theorem gated_off {s : State} {bit : Nat} {k : Res} (h : featOn s s.g.pid bit = false) : gated s bit k = trapS s .illEnc := by
  simp [gated, h]

/-! ## The checks before an access -/

theorem watched_unwatched {s : State} {l : List (Nat × Acc × Nat × Nat)} {lane : Bool} {k : Res} (h : Safety.unwatched s l) :
    watched s l lane k = k := by
  unfold watched
  rcases h with h | h
  · simp [h]
  · simp only [h]
    split <;> rfl

theorem roomToIssue_room {s : State} {cls : OpCls} {paths : BitVec 4} {k : Res} (h : Safety.room s cls paths) :
    roomToIssue s cls paths k = k := by
  unfold roomToIssue
  obtain ⟨h0, h1, h2⟩ := h
  cases hc : capturable cls
  · simp [h0, h1]
  · simp [h0, h1, h2 hc]

theorem stashReady_full {s : State} {off n : Nat} {wr : Bool} {lane : Option Nat} {k : Res} (h : Safety.stashFull s off n wr) :
    stashReady s off n wr lane k = k := by
  obtain ⟨h1, h2, h3⟩ := h
  simp [stashReady, h1, h2, h3]

/-! ## Registers and the PC -/

/-- What an instruction that writes one register and goes on leaves. -/
theorem wrote_ws (s : State) (d : SReg) (v : W64) : Safety.wrote s (advance (ws s d v)) d v := by
  unfold Safety.wrote Safety.movedTo Safety.written advance ws
  by_cases h : d = 0#6 <;> cases hs : s.slot <;> simp [h, setCur, setPath, cur, pathOf, hs]

theorem sets_of {s : State} {i : Instr} {d : SReg} {v w : W64} (h : exec i s = .next (advance (ws s d w))) (e : w = v) :
    Safety.setsTo i s d v :=
  ⟨_, h, e ▸ wrote_ws _ _ _⟩

theorem moved_goTo (s : State) (t : W64) : Safety.movedTo s (goTo s t) t s.g.s := by
  unfold Safety.movedTo goTo
  cases hs : s.slot <;> simp [setCur, setPath, cur, pathOf, hs]

theorem moved_advance (s : State) : Safety.movedTo s (advance s) ((cur s).pc + 4#64) s.g.s := by
  unfold Safety.movedTo advance
  cases hs : s.slot <;> simp [setCur, setPath, cur, pathOf, hs]

theorem moved_goTo_ws (s : State) (t : W64) (d : SReg) (v : W64) :
    Safety.movedTo s (goTo (ws s d v) t) t (Safety.written s.g.s d v) := by
  unfold Safety.movedTo goTo ws Safety.written
  by_cases h : d = 0#6 <;> cases hs : s.slot <;> simp [setCur, setPath, cur, pathOf, hs, h]

theorem passed_advance (s : State) : Safety.passed s (advance s) := moved_advance s

theorem ws_len (s : State) (d : SReg) (v : W64) : (ws s d v).g.s.length = s.g.s.length := by
  unfold ws
  split <;> simp

theorem ws_only (s : State) (d : SReg) (v : W64) : ws s d v = { s with g := { s.g with s := (ws s d v).g.s } } := by
  unfold ws
  split <;> rfl

/-! ## Records set and read back -/

theorem find_map_eq {α : Type} (l : List α) (k : α → Nat) (x : α) (n : Nat) (h : k x = n) (he : ∃ y ∈ l, k y = n) :
    (l.map (fun q => if k q = n then x else q)).find? (fun q => k q = n) = some x := by
  induction l with
  | nil => simp at he
  | cons a l ih =>
    by_cases ha : k a = n
    · simp [ha, h]
    · simp only [List.map_cons, ha, if_false, List.find?_cons, decide_false]
      exact ih (by
        obtain ⟨y, hy, hk⟩ := he
        rcases List.mem_cons.mp hy with rfl | hy
        · exact absurd hk ha
        · exact ⟨y, hy, hk⟩)

theorem find_map_ne {α : Type} (l : List α) (k : α → Nat) (x : α) (n m : Nat) (h : k x = n) (hm : m ≠ n) :
    (l.map (fun q => if k q = n then x else q)).find? (fun q => k q = m) = l.find? (fun q => k q = m) := by
  induction l with
  | nil => rfl
  | cons a l ih =>
    by_cases ha : k a = n
    · have : ¬k a = m := fun e => hm (e ▸ ha)
      have hx : ¬k x = m := fun e => hm (e ▸ h)
      simp only [List.map_cons, ha, if_true, List.find?_cons, hx, decide_false]
      have h2 : ¬n = m := fun e => hm e.symm
      simp only [h2, decide_false]
      exact ih
    · simp only [List.map_cons, ha, if_false, List.find?_cons]
      split
      · rfl
      · exact ih

theorem prtOf_setPrt (s : State) (p : Prt) : prtOf (setPrt s p) p.pid = p := by
  by_cases h : s.prts.any (fun q => q.pid = p.pid) = true
  · have he : ∃ y ∈ s.prts, y.pid = p.pid := by simpa using h
    simp only [prtOf, setPrt, h, if_true, find_map_eq s.prts Prt.pid p p.pid rfl he]
  · have hn : s.prts.find? (fun q => q.pid = p.pid) = none := by
      simp only [List.find?_eq_none, decide_eq_true_eq]
      simpa using h
    simp [prtOf, setPrt, h, List.find?_append, hn]

/-- The same at the name the record keeps. -/
theorem prtOf_setPrt_at {s : State} {p : Prt} {pid : Nat} (h : p.pid = pid) : prtOf (setPrt s p) pid = p := h ▸ prtOf_setPrt s p

theorem prtOf_setPrt_ne (s : State) (p : Prt) (q : Nat) (h : q ≠ p.pid) : prtOf (setPrt s p) q = prtOf s q := by
  have hk : ¬p.pid = q := fun e => h e.symm
  by_cases ha : s.prts.any (fun q => q.pid = p.pid) = true
  · simp only [prtOf, setPrt, ha, if_true, find_map_ne s.prts Prt.pid p p.pid q rfl h]
  · simp [prtOf, setPrt, ha, List.find?_append, hk]

theorem coreOf_setCore (s : State) (p : CoreRec) : coreOf (setCore s p) p.core = p := by
  by_cases h : s.cores.any (fun q => q.core = p.core) = true
  · have he : ∃ y ∈ s.cores, y.core = p.core := by simpa using h
    simp only [coreOf, setCore, h, if_true, find_map_eq s.cores CoreRec.core p p.core rfl he]
  · have hn : s.cores.find? (fun q => q.core = p.core) = none := by
      simp only [List.find?_eq_none, decide_eq_true_eq]
      simpa using h
    simp [coreOf, setCore, h, List.find?_append, hn]

theorem coreOf_setCore_ne (s : State) (p : CoreRec) (q : Nat) (h : q ≠ p.core) : coreOf (setCore s p) q = coreOf s q := by
  have hk : ¬p.core = q := fun e => h e.symm
  by_cases ha : s.cores.any (fun q => q.core = p.core) = true
  · simp only [coreOf, setCore, ha, if_true, find_map_ne s.cores CoreRec.core p p.core q rfl h]
  · simp [coreOf, setCore, ha, List.find?_append, hk]

theorem prtOf_pid (s : State) (pid : Nat) : (prtOf s pid).pid = pid := by
  unfold prtOf
  split
  · rename_i h
    simpa using List.find?_some h
  · rfl

theorem coreOf_core (s : State) (c : Nat) : (coreOf s c).core = c := by
  unfold coreOf
  split
  · rename_i h
    simpa using List.find?_some h
  · rfl

/-- Setting a partition's record changes that list alone. -/
theorem setPrt_only (s : State) (p : Prt) : setPrt s p = { s with prts := (setPrt s p).prts } := by
  unfold setPrt
  split <;> rfl

theorem setCore_only (s : State) (r : CoreRec) : setCore s r = { s with cores := (setCore s r).cores } := by
  unfold setCore
  split <;> rfl

/-! ## Issuing -/

theorem numberParts_same (p : Prt) (miss : Part → Bool) (n : Nat) (l : List Part) :
    (numberParts p miss n l).map (fun q => { q with sampled := false, walked := false }) = l.map (fun q => { q with sampled := false, walked := false }) := by
  induction l generalizing n with
  | nil => rfl
  | cons q qs ih =>
    unfold numberParts
    split <;> simp [ih]

/-- The record of an issued operation, but for its number and which of its requests carry a timing header. -/
def issuedOp (s : State) (o : Op) : Op :=
  { o with g := s.g.key, slot := s.slot, tag := (cur s).tag, core := s.g.core, pid := s.g.pid, gmode := (cur s).gmode, gfmt := (cur s).gfmt
           pc := if o.clause = 0 then (cur s).pc.toNat else o.pc, cmask := if o.clause = 0 then (cur s).mask else o.cmask
           paths := o.parts.foldl (fun m p => m ||| pathOfKind p.kind) o.paths }

/-- Counting requests changes nothing of a core's record but the count. -/
theorem coreOf_counted (s : State) (r : CoreRec) (h : { r with request := 0 } = { coreOf s r.core with request := 0 }) (c : Nat) :
    { coreOf (setCore s r) c with request := 0 } = { coreOf s c with request := 0 } := by
  by_cases hc : c = r.core
  · rw [hc, coreOf_setCore]
    exact h
  · rw [coreOf_setCore_ne s r c hc]

theorem issued_issue (s : State) (o : Op) : Safety.issued s (advance (issue s o)) (issuedOp s o) := by
  unfold issue
  generalize hn : (o.parts.filter leavesCore).length = n
  by_cases h0 : n = 0
  · subst h0
    refine ⟨s.cores, numberParts (prtOf s s.g.pid) (tlbMiss s o.cls) (coreOf s s.g.core).request o.parts, fun c => rfl, numberParts_same .., ?_⟩
    cases hs : s.slot <;> simp [addOp, advance, issuedOp, setCur, setPath, cur, pathOf, hs]
  · refine ⟨(setCore s { coreOf s s.g.core with request := (coreOf s s.g.core).request + n }).cores,
      numberParts (prtOf s s.g.pid) (tlbMiss s o.cls) (coreOf s s.g.core).request o.parts, fun c => ?_, numberParts_same .., ?_⟩
    · rw [← setCore_only]
      exact coreOf_counted s _ (by simp only [coreOf_core]) c
    · simp only [h0, if_false]
      rw [setCore_only]
      cases hs : s.slot <;> simp [addOp, advance, issuedOp, setCur, setPath, cur, pathOf, hs]

/-! ## Requests of the mailbox -/

theorem asked_of_request {i : Instr} {s t : State} {snd : Sender} {cmd : Nat} {ok : Bool} (h : exec i s = request_ s snd cmd ok t) :
    Safety.asked i s snd cmd ok t := by
  refine ⟨fun e => ?_, fun e f g => ⟨_, ?_, rfl⟩, fun r e f g => ?_, fun e f => ?_⟩ <;> simp [request_, *]

/-- What goes into a request block goes to the host only. -/
theorem fillBlock_only (s : State) (snd : Sender) (res ret : Nat) (b : List Byte) :
    fillBlock s snd res ret b = { s with hostOut := (fillBlock s snd res ret b).hostOut } := by
  unfold fillBlock hostWrite
  split
  · split <;> rfl
  · rfl

/-- An answer changes nothing but the mailboxes, those in the partitions' records among them, and what goes to the host. -/
theorem answer_only (s : State) (snd : Sender) (cmd res ret : Nat) (b : List Byte) :
    answer s snd cmd res ret b = { s with prts := (answer s snd cmd res ret b).prts, svc := (answer s snd cmd res ret b).svc
                                          hostOut := (answer s snd cmd res ret b).hostOut } := by
  unfold answer
  rw [fillBlock_only]
  unfold setBox
  split
  · rfl
  · simp only [setPrt]
    split <;> rfl
  · rfl

/-! ## Lane results -/

theorem gives_of_alu {s : State} {i : Instr} {f : LaneF} {wide : Bool} {md : RMode} {nd : Nat}
    {h : LaneIn → Nat → (Nat → Nat) → Nat × FFlags} (e : exec i s = laneAlu s i f none wide md nd h) : Safety.gives s i f wide md nd h := by
  intro s1 x hr
  refine ⟨_, ?_, rfl⟩
  rw [e]
  unfold laneAlu
  rw [hr]
  rfl

/-! ## Traps -/

/-- A trap of a running group: the stop is asked for and lands if nothing has to be waited for. -/
theorem takeTrap_running {s : State} {f : Frame} (h : s.g.stop = .running) :
    takeTrap s f = tryLand { s with g := { s.g with stop := .stopping f, why := .trap } } := by
  simp [takeTrap, h]

/-- A second trap before the first has landed is deferred, the first deferred cause kept. -/
theorem takeTrap_stopping {s : State} {f f0 : Frame} (h : s.g.stop = .stopping f0) :
    takeTrap s f = { s with g := { s.g with stop := .stopping { f0 with dfr := some (f0.dfr.getD f.cause) } } } := by
  simp [takeTrap, h]

/-- A group that has stopped takes no trap. -/
theorem takeTrap_stopped {s : State} {f : Frame} (h1 : s.g.stop ≠ .running) (h2 : ∀ f0, s.g.stop ≠ .stopping f0) : takeTrap s f = s := by
  unfold takeTrap
  split
  · contradiction
  · rename_i f0 h
    exact absurd h (h2 f0)
  · rfl

/-! ## Focus -/

theorem focusOn_self {s : State} {slot : Bool} (h : s.g.live = true) : focusOn s s.g.key slot = { s with slot := slot } := by
  simp [focusOn, h]

theorem getG_self {s : State} (h : s.g.live = true) : getG s s.g.key = some s.g := by simp [getG, h]

/-! ## Segments of an rsta (14, R308) -/

/-- Where every segment has its place, no page of the destination faults. -/
theorem segXlate_of_segParts {s : State} {g : Group} {soff ga : Nat} {l : List (Nat × Nat)} {ps : List Part}
    (h : segParts s g soff ga l = .ok ps) : segXlate s g ga l = none := by
  induction l generalizing ps with
  | nil => rfl
  | cons x r ih =>
    obtain ⟨o, k⟩ := x
    simp only [segParts, segKind] at h
    simp only [segXlate]
    cases ha : addrFault (ga + o) with
    | some c => simp [ha] at h
    | none =>
      cases hx : xlate s g.core g.pid (ga + o) .write with
      | error e => simp [ha, hx] at h
      | ok fa =>
        cases hr : segParts s g soff ga r with
        | ok qs => exact ih hr
        | error e =>
          simp only [ha, hx, hr] at h
          split at h <;> simp_all

end Sys2Proof.Machine
end

