-- ==== Sys2Proof/Laws/PerInstr.lean ====
section
/-!
SUPPORT. The round trip, instruction by instruction: a scalar instruction's word decodes to it, and so does a lane instruction's.
-/

namespace Sys2Proof.Laws

theorem append_nat {n m : Nat} (x : BitVec n) (y : BitVec m) : (x ++ y).toNat = x.toNat * 2 ^ m + y.toNat := by
  rw [BitVec.toNat_append, ← Nat.shiftLeft_add_eq_or_of_lt y.isLt, Nat.shiftLeft_eq]

/-! ## The fields of a scalar word -/

theorem cat_nat (op d a b : BitVec 6) (f : BitVec 8) :
    (catWord op d a b f).toNat = op.toNat * 2 ^ 26 + d.toNat * 2 ^ 20 + a.toNat * 2 ^ 14 + b.toNat * 2 ^ 8 + f.toNat := by
  have h : (catWord op d a b f).toNat = (op ++ d ++ a ++ b ++ f).toNat := rfl
  rw [h]
  simp only [append_nat]
  omega

theorem cat_op (op d a b : BitVec 6) (f : BitVec 8) : (catWord op d a b f).extractLsb' 26 6 = op := by
  apply BitVec.eq_of_toNat_eq
  simp only [BitVec.extractLsb'_toNat, cat_nat, Nat.shiftRight_eq_div_pow]
  omega

theorem cat_d (op d a b : BitVec 6) (f : BitVec 8) : (catWord op d a b f).extractLsb' 20 6 = d := by
  apply BitVec.eq_of_toNat_eq
  simp only [BitVec.extractLsb'_toNat, cat_nat, Nat.shiftRight_eq_div_pow]
  omega

theorem cat_a (op d a b : BitVec 6) (f : BitVec 8) : (catWord op d a b f).extractLsb' 14 6 = a := by
  apply BitVec.eq_of_toNat_eq
  simp only [BitVec.extractLsb'_toNat, cat_nat, Nat.shiftRight_eq_div_pow]
  omega

theorem cat_b (op d a b : BitVec 6) (f : BitVec 8) : (catWord op d a b f).extractLsb' 8 6 = b := by
  apply BitVec.eq_of_toNat_eq
  simp only [BitVec.extractLsb'_toNat, cat_nat, Nat.shiftRight_eq_div_pow]
  omega

theorem cat_f (op d a b : BitVec 6) (f : BitVec 8) : (catWord op d a b f).extractLsb' 0 8 = f := by
  apply BitVec.eq_of_toNat_eq
  simp only [BitVec.extractLsb'_toNat, cat_nat, Nat.shiftRight_eq_div_pow]
  omega

/-- A scalar word is taken apart by opcode. -/
theorem decode_cat (op d a b : BitVec 6) (f : BitVec 8) (g : W32 → BitVec 6 → BitVec 6 → BitVec 6 → BitVec 8 → Instr)
    (h : ∀ w : W32, w.extractLsb' 26 6 = op → decodeScalar w =
      g w (w.extractLsb' 20 6) (w.extractLsb' 14 6) (w.extractLsb' 8 6) (w.extractLsb' 0 8)) :
    decodeScalar (catWord op d a b f) = g (catWord op d a b f) d a b f := by
  rw [h _ (cat_op op d a b f), cat_d, cat_a, cat_b, cat_f]

/-! ## Immediates put together again -/

theorem join14 (i : BitVec 14) : (i.extractLsb' 8 6 ++ i.extractLsb' 0 8 : BitVec (6 + 8)) = i := by
  apply BitVec.eq_of_toNat_eq
  simp only [append_nat, BitVec.extractLsb'_toNat, Nat.shiftRight_eq_div_pow]
  omega

theorem join20 (i : BitVec 20) : (i.extractLsb' 14 6 ++ i.extractLsb' 8 6 ++ i.extractLsb' 0 8 : BitVec (6 + 6 + 8)) = i := by
  apply BitVec.eq_of_toNat_eq
  simp only [append_nat, BitVec.extractLsb'_toNat, Nat.shiftRight_eq_div_pow]
  omega

theorem join26 (i : BitVec 26) :
    (i.extractLsb' 20 6 ++ i.extractLsb' 14 6 ++ i.extractLsb' 8 6 ++ i.extractLsb' 0 8 : BitVec (6 + 6 + 6 + 8)) = i := by
  apply BitVec.eq_of_toNat_eq
  simp only [append_nat, BitVec.extractLsb'_toNat, Nat.shiftRight_eq_div_pow]
  omega

/-! ## Fields with zeros above them -/

theorem zero6 (i : BitVec 6) : (0#2 ++ i : BitVec (2 + 6)) &&& 192#8 = 0#8 ∧ (0#2 ++ i : BitVec (2 + 6)).extractLsb' 0 6 = i := by
  revert i
  decide

theorem zero4 (i : BitVec 4) : (0#4 ++ i : BitVec (4 + 4)) &&& 240#8 = 0#8 ∧ (0#4 ++ i : BitVec (4 + 4)).extractLsb' 0 4 = i := by
  revert i
  decide

theorem zero3 (i : BitVec 3) : (0#5 ++ i : BitVec (5 + 3)) &&& 248#8 = 0#8 ∧ (0#5 ++ i : BitVec (5 + 3)).extractLsb' 0 3 = i := by
  revert i
  decide

theorem zero2 (i : BitVec 2) : (0#6 ++ i : BitVec (6 + 2)) &&& 252#8 = 0#8 ∧ (0#6 ++ i : BitVec (6 + 2)).extractLsb' 0 2 = i := by
  revert i
  decide

theorem zeroIK (i : BitVec 1) (k : BitVec 3) : (0#4 ++ i ++ k : BitVec (4 + 1 + 3)) &&& 240#8 = 0#8 ∧
    (0#4 ++ i ++ k : BitVec (4 + 1 + 3)).extractLsb' 0 3 = k ∧ (0#4 ++ i ++ k : BitVec (4 + 1 + 3)).extractLsb' 3 1 = i := by
  revert i k
  decide

theorem zeroKI (i : BitVec 1) (k : BitVec 3) : (k ++ i ++ 0#2 : BitVec (3 + 1 + 2)) &&& 3#6 = 0#6 ∧
    (k ++ i ++ 0#2 : BitVec (3 + 1 + 2)).extractLsb' 3 3 = k ∧ (k ++ i ++ 0#2 : BitVec (3 + 1 + 2)).extractLsb' 2 1 = i := by
  revert i k
  decide

theorem zero24 (n : BitVec 4) : (0#2 ++ n : BitVec (2 + 4)) &&& 48#6 = 0#6 ∧ (0#2 ++ n : BitVec (2 + 4)).extractLsb' 0 4 = n := by
  revert n
  decide

theorem one53 (n : BitVec 3) : (1#5 ++ n : BitVec (5 + 3)) &&& 248#8 = 8#8 ∧ (1#5 ++ n : BitVec (5 + 3)).extractLsb' 0 3 = n := by
  revert n
  decide

theorem two26 (n : BitVec 6) : (2#2 ++ n : BitVec (2 + 6)) &&& 192#8 = 128#8 ∧ (2#2 ++ n : BitVec (2 + 6)).extractLsb' 0 6 = n := by
  revert n
  decide

theorem one26 (n : BitVec 6) : (1#2 ++ n : BitVec (2 + 6)) &&& 192#8 = 64#8 ∧ (1#2 ++ n : BitVec (2 + 6)) ≠ 0#8 ∧
    (1#2 ++ n : BitVec (2 + 6)).extractLsb' 0 6 = n := by
  revert n
  decide

theorem zero22 (q x : BitVec 2) : (0#2 ++ q ++ x : BitVec (2 + 2 + 2)) &&& 48#6 = 0#6 ∧
    (0#2 ++ q ++ x : BitVec (2 + 2 + 2)).extractLsb' 2 2 = q ∧ (0#2 ++ q ++ x : BitVec (2 + 2 + 2)).extractLsb' 0 2 = x := by
  revert q x
  decide

theorem join16 (v : BitVec 16) : (v.extractLsb' 14 2 ++ v.extractLsb' 8 6 ++ v.extractLsb' 0 8 : BitVec (2 + 6 + 8)) = v := by
  apply BitVec.eq_of_toNat_eq
  simp only [append_nat, BitVec.extractLsb'_toNat, Nat.shiftRight_eq_div_pow]
  omega

theorem join12 (v : BitVec 12) : (v.extractLsb' 8 4 ++ v.extractLsb' 0 8 : BitVec (4 + 8)) = v := by
  apply BitVec.eq_of_toNat_eq
  simp only [append_nat, BitVec.extractLsb'_toNat, Nat.shiftRight_eq_div_pow]
  omega

/-! ## The lane word -/

theorem bool_nat (b : Bool) : (BitVec.ofBool b).toNat = b.toNat := by cases b <;> rfl

theorem lane_nat (op : BitVec 10) (f : LaneF) : (laneWord op f).toNat = op.toNat * 2 ^ 86 + f.e.toNat * 2 ^ 85 + f.rnd.toNat * 2 ^ 82
    + f.sat.toNat * 2 ^ 81 + f.pinv.toNat * 2 ^ 80 + f.pk.toNat * 2 ^ 77 + f.dest.toNat * 2 ^ 69 + f.srcA.toNat * 2 ^ 55
    + f.srcB.toNat * 2 ^ 41 + f.srcC.toNat * 2 ^ 27 + f.ty.toNat * 2 ^ 22 + f.mod.toNat * 2 ^ 16 + f.imm.toNat := by
  have h : (laneWord op f).toNat = (op ++ BitVec.ofBool f.e ++ f.rnd ++ BitVec.ofBool f.sat ++ BitVec.ofBool f.pinv ++ f.pk ++ f.dest
    ++ f.srcA ++ f.srcB ++ f.srcC ++ f.ty ++ f.mod ++ f.imm).toNat := rfl
  rw [h]
  simp only [append_nat, bool_nat]
  omega

theorem lane_op (op : BitVec 10) (f : LaneF) : laneOp (laneWord op f) = op := by
  apply BitVec.eq_of_toNat_eq
  have := Bool.toNat_lt f.e
  have := Bool.toNat_lt f.sat
  have := Bool.toNat_lt f.pinv
  simp only [laneOp, BitVec.extractLsb'_toNat, lane_nat, Nat.shiftRight_eq_div_pow]
  omega

/-- A bit of a lane word. -/
theorem lane_bit (w : W96) (n : Nat) (b : Bool) (h : w.toNat / 2 ^ n % 2 = b.toNat) : w.getLsbD n = b := by
  rw [← BitVec.testBit_toNat, Nat.testBit_eq_decide_div_mod_eq, h]
  cases b <;> rfl

theorem lane_fields (op : BitVec 10) (f : LaneF) : laneFields (laneWord op f) = f := by
  have h1 := Bool.toNat_lt f.e
  have h2 := Bool.toNat_lt f.sat
  have h3 := Bool.toNat_lt f.pinv
  have e : ∀ (lo n : Nat) (x : BitVec n), (laneWord op f).toNat / 2 ^ lo % 2 ^ n = x.toNat → (laneWord op f).extractLsb' lo n = x := by
    intro lo n x h
    apply BitVec.eq_of_toNat_eq
    simp only [BitVec.extractLsb'_toNat, Nat.shiftRight_eq_div_pow, h]
  have := lane_nat op f
  unfold laneFields
  rw [lane_bit _ 85 f.e (by omega), e 82 3 f.rnd (by omega), lane_bit _ 81 f.sat (by omega), lane_bit _ 80 f.pinv (by omega),
    e 77 3 f.pk (by omega), e 69 8 f.dest (by omega), e 55 14 f.srcA (by omega), e 41 14 f.srcB (by omega), e 27 14 f.srcC (by omega),
    e 22 5 f.ty (by omega), e 16 6 f.mod (by omega), e 0 16 f.imm (by omega)]

/-! ## The family -/

/-- A well-formed scalar instruction's word decodes to it, and a lane instruction's. -/
def RoundTrip.Statement (i : Instr) : Prop :=
  (wfScalar i = true → (encodeScalar i).map decodeScalar = some i) ∧
  (∀ op f, laneParts i = some (op, f) → decodeLane (laneWord op f) = .ok i)

theorem scalar_trip {i : Instr} {w : W32} (h : encodeScalar i = some w) (e : wfScalar i = true → decodeScalar w = i) (n : laneParts i = none) :
    RoundTrip.Statement i := by
  refine ⟨fun hw => ?_, fun op f hf => ?_⟩
  · rw [h]
    simp [e hw]
  · rw [n] at hf
    exact absurd hf (by simp)

theorem lane_trip {i : Instr} {op : BitVec 10} {f : LaneF} (s : wfScalar i = false) (h : laneParts i = some (op, f)) (n : op ≠ hdrOp)
    (e : laneOfOp op f = some i) : RoundTrip.Statement i := by
  refine ⟨fun hw => absurd hw (by simp [s]), fun op' f' hf => ?_⟩
  rw [h] at hf
  obtain ⟨rfl, rfl⟩ : op = op' ∧ f = f' := by simpa using hf
  simp [decodeLane, lane_op, lane_fields, n, e]

/-- An event has no word. -/
theorem event_trip {i : Instr} (s : wfScalar i = false) (h : laneParts i = none) : RoundTrip.Statement i :=
  ⟨fun hw => absurd hw (by simp [s]), fun op f hf => absurd hf (by simp [h])⟩

namespace RoundTrip

theorem add (d : BitVec 6) (a : BitVec 6) (b : BitVec 6) : Statement (.add d a b) :=
  scalar_trip rfl (fun h => by
    rw [decode_cat _ _ _ _ _ decOp00 (fun w h => by simp [decodeScalar, h])]
    simp_all [decOp00, wfScalar]) rfl
theorem sub (d : BitVec 6) (a : BitVec 6) (b : BitVec 6) : Statement (.sub d a b) :=
  scalar_trip rfl (fun h => by
    rw [decode_cat _ _ _ _ _ decOp00 (fun w h => by simp [decodeScalar, h])]
    simp_all [decOp00, wfScalar]) rfl
theorem and (d : BitVec 6) (a : BitVec 6) (b : BitVec 6) : Statement (.and d a b) :=
  scalar_trip rfl (fun h => by
    rw [decode_cat _ _ _ _ _ decOp00 (fun w h => by simp [decodeScalar, h])]
    simp_all [decOp00, wfScalar]) rfl
theorem or (d : BitVec 6) (a : BitVec 6) (b : BitVec 6) : Statement (.or d a b) :=
  scalar_trip rfl (fun h => by
    rw [decode_cat _ _ _ _ _ decOp00 (fun w h => by simp [decodeScalar, h])]
    simp_all [decOp00, wfScalar]) rfl
theorem xor (d : BitVec 6) (a : BitVec 6) (b : BitVec 6) : Statement (.xor d a b) :=
  scalar_trip rfl (fun h => by
    rw [decode_cat _ _ _ _ _ decOp00 (fun w h => by simp [decodeScalar, h])]
    simp_all [decOp00, wfScalar]) rfl
theorem shl (d : BitVec 6) (a : BitVec 6) (b : BitVec 6) : Statement (.shl d a b) :=
  scalar_trip rfl (fun h => by
    rw [decode_cat _ _ _ _ _ decOp00 (fun w h => by simp [decodeScalar, h])]
    simp_all [decOp00, wfScalar]) rfl
theorem shr (d : BitVec 6) (a : BitVec 6) (b : BitVec 6) : Statement (.shr d a b) :=
  scalar_trip rfl (fun h => by
    rw [decode_cat _ _ _ _ _ decOp00 (fun w h => by simp [decodeScalar, h])]
    simp_all [decOp00, wfScalar]) rfl
theorem sar (d : BitVec 6) (a : BitVec 6) (b : BitVec 6) : Statement (.sar d a b) :=
  scalar_trip rfl (fun h => by
    rw [decode_cat _ _ _ _ _ decOp00 (fun w h => by simp [decodeScalar, h])]
    simp_all [decOp00, wfScalar]) rfl
theorem mul (d : BitVec 6) (a : BitVec 6) (b : BitVec 6) : Statement (.mul d a b) :=
  scalar_trip rfl (fun h => by
    rw [decode_cat _ _ _ _ _ decOp00 (fun w h => by simp [decodeScalar, h])]
    simp_all [decOp00, wfScalar]) rfl
theorem mulh (d : BitVec 6) (a : BitVec 6) (b : BitVec 6) : Statement (.mulh d a b) :=
  scalar_trip rfl (fun h => by
    rw [decode_cat _ _ _ _ _ decOp00 (fun w h => by simp [decodeScalar, h])]
    simp_all [decOp00, wfScalar]) rfl
theorem mulhu (d : BitVec 6) (a : BitVec 6) (b : BitVec 6) : Statement (.mulhu d a b) :=
  scalar_trip rfl (fun h => by
    rw [decode_cat _ _ _ _ _ decOp00 (fun w h => by simp [decodeScalar, h])]
    simp_all [decOp00, wfScalar]) rfl
theorem div (d : BitVec 6) (a : BitVec 6) (b : BitVec 6) : Statement (.div d a b) :=
  scalar_trip rfl (fun h => by
    rw [decode_cat _ _ _ _ _ decOp00 (fun w h => by simp [decodeScalar, h])]
    simp_all [decOp00, wfScalar]) rfl
theorem divu (d : BitVec 6) (a : BitVec 6) (b : BitVec 6) : Statement (.divu d a b) :=
  scalar_trip rfl (fun h => by
    rw [decode_cat _ _ _ _ _ decOp00 (fun w h => by simp [decodeScalar, h])]
    simp_all [decOp00, wfScalar]) rfl
theorem rem (d : BitVec 6) (a : BitVec 6) (b : BitVec 6) : Statement (.rem d a b) :=
  scalar_trip rfl (fun h => by
    rw [decode_cat _ _ _ _ _ decOp00 (fun w h => by simp [decodeScalar, h])]
    simp_all [decOp00, wfScalar]) rfl
theorem remu (d : BitVec 6) (a : BitVec 6) (b : BitVec 6) : Statement (.remu d a b) :=
  scalar_trip rfl (fun h => by
    rw [decode_cat _ _ _ _ _ decOp00 (fun w h => by simp [decodeScalar, h])]
    simp_all [decOp00, wfScalar]) rfl
theorem min (d : BitVec 6) (a : BitVec 6) (b : BitVec 6) : Statement (.min d a b) :=
  scalar_trip rfl (fun h => by
    rw [decode_cat _ _ _ _ _ decOp00 (fun w h => by simp [decodeScalar, h])]
    simp_all [decOp00, wfScalar]) rfl
theorem max (d : BitVec 6) (a : BitVec 6) (b : BitVec 6) : Statement (.max d a b) :=
  scalar_trip rfl (fun h => by
    rw [decode_cat _ _ _ _ _ decOp00 (fun w h => by simp [decodeScalar, h])]
    simp_all [decOp00, wfScalar]) rfl
theorem minu (d : BitVec 6) (a : BitVec 6) (b : BitVec 6) : Statement (.minu d a b) :=
  scalar_trip rfl (fun h => by
    rw [decode_cat _ _ _ _ _ decOp00 (fun w h => by simp [decodeScalar, h])]
    simp_all [decOp00, wfScalar]) rfl
theorem maxu (d : BitVec 6) (a : BitVec 6) (b : BitVec 6) : Statement (.maxu d a b) :=
  scalar_trip rfl (fun h => by
    rw [decode_cat _ _ _ _ _ decOp00 (fun w h => by simp [decodeScalar, h])]
    simp_all [decOp00, wfScalar]) rfl
theorem slt (d : BitVec 6) (a : BitVec 6) (b : BitVec 6) : Statement (.slt d a b) :=
  scalar_trip rfl (fun h => by
    rw [decode_cat _ _ _ _ _ decOp00 (fun w h => by simp [decodeScalar, h])]
    simp_all [decOp00, wfScalar]) rfl
theorem sltu (d : BitVec 6) (a : BitVec 6) (b : BitVec 6) : Statement (.sltu d a b) :=
  scalar_trip rfl (fun h => by
    rw [decode_cat _ _ _ _ _ decOp00 (fun w h => by simp [decodeScalar, h])]
    simp_all [decOp00, wfScalar]) rfl
theorem seq (d : BitVec 6) (a : BitVec 6) (b : BitVec 6) : Statement (.seq d a b) :=
  scalar_trip rfl (fun h => by
    rw [decode_cat _ _ _ _ _ decOp00 (fun w h => by simp [decodeScalar, h])]
    simp_all [decOp00, wfScalar]) rfl
theorem clz (d : BitVec 6) (a : BitVec 6) : Statement (.clz d a) :=
  scalar_trip rfl (fun h => by
    rw [decode_cat _ _ _ _ _ decOp00 (fun w h => by simp [decodeScalar, h])]
    simp_all [decOp00, wfScalar]) rfl
theorem popc (d : BitVec 6) (a : BitVec 6) : Statement (.popc d a) :=
  scalar_trip rfl (fun h => by
    rw [decode_cat _ _ _ _ _ decOp00 (fun w h => by simp [decodeScalar, h])]
    simp_all [decOp00, wfScalar]) rfl
theorem andn (d : BitVec 6) (a : BitVec 6) (b : BitVec 6) : Statement (.andn d a b) :=
  scalar_trip rfl (fun h => by
    rw [decode_cat _ _ _ _ _ decOp00 (fun w h => by simp [decodeScalar, h])]
    simp_all [decOp00, wfScalar]) rfl
theorem addi (d : BitVec 6) (a : BitVec 6) (i : BitVec 14) : Statement (.addi d a i) :=
  scalar_trip rfl (fun h => by
    rw [decode_cat _ _ _ _ _ decOp01 (fun w h => by simp [decodeScalar, h])]
    exact congrArg (Instr.addi d a) (join14 i)) rfl
theorem andi (d : BitVec 6) (a : BitVec 6) (i : BitVec 14) : Statement (.andi d a i) :=
  scalar_trip rfl (fun h => by
    rw [decode_cat _ _ _ _ _ decOp02 (fun w h => by simp [decodeScalar, h])]
    exact congrArg (Instr.andi d a) (join14 i)) rfl
theorem ori (d : BitVec 6) (a : BitVec 6) (i : BitVec 14) : Statement (.ori d a i) :=
  scalar_trip rfl (fun h => by
    rw [decode_cat _ _ _ _ _ decOp03 (fun w h => by simp [decodeScalar, h])]
    exact congrArg (Instr.ori d a) (join14 i)) rfl
theorem xori (d : BitVec 6) (a : BitVec 6) (i : BitVec 14) : Statement (.xori d a i) :=
  scalar_trip rfl (fun h => by
    rw [decode_cat _ _ _ _ _ decOp04 (fun w h => by simp [decodeScalar, h])]
    exact congrArg (Instr.xori d a) (join14 i)) rfl
theorem shli (d : BitVec 6) (a : BitVec 6) (i : BitVec 6) : Statement (.shli d a i) :=
  scalar_trip rfl (fun h => by
    rw [decode_cat _ _ _ _ _ decOp05 (fun w h => by simp [decodeScalar, h])]
    simp_all [decOp05, wfScalar, zero6]) rfl
theorem shri (d : BitVec 6) (a : BitVec 6) (i : BitVec 6) : Statement (.shri d a i) :=
  scalar_trip rfl (fun h => by
    rw [decode_cat _ _ _ _ _ decOp06 (fun w h => by simp [decodeScalar, h])]
    simp_all [decOp06, wfScalar, zero6]) rfl
theorem sari (d : BitVec 6) (a : BitVec 6) (i : BitVec 6) : Statement (.sari d a i) :=
  scalar_trip rfl (fun h => by
    rw [decode_cat _ _ _ _ _ decOp07 (fun w h => by simp [decodeScalar, h])]
    simp_all [decOp07, wfScalar, zero6]) rfl
theorem slti (d : BitVec 6) (a : BitVec 6) (i : BitVec 14) : Statement (.slti d a i) :=
  scalar_trip rfl (fun h => by
    rw [decode_cat _ _ _ _ _ decOp08 (fun w h => by simp [decodeScalar, h])]
    exact congrArg (Instr.slti d a) (join14 i)) rfl
theorem sltiu (d : BitVec 6) (a : BitVec 6) (i : BitVec 14) : Statement (.sltiu d a i) :=
  scalar_trip rfl (fun h => by
    rw [decode_cat _ _ _ _ _ decOp09 (fun w h => by simp [decodeScalar, h])]
    exact congrArg (Instr.sltiu d a) (join14 i)) rfl
theorem lui (d : BitVec 6) (i : BitVec 20) : Statement (.lui d i) :=
  scalar_trip rfl (fun h => by
    rw [decode_cat _ _ _ _ _ decOp0A (fun w h => by simp [decodeScalar, h])]
    exact congrArg (Instr.lui d) (join20 i)) rfl
theorem addpc (d : BitVec 6) (i : BitVec 20) : Statement (.addpc d i) :=
  scalar_trip rfl (fun h => by
    rw [decode_cat _ _ _ _ _ decOp0B (fun w h => by simp [decodeScalar, h])]
    exact congrArg (Instr.addpc d) (join20 i)) rfl
theorem movk (d : BitVec 6) (q : BitVec 2) (v : BitVec 16) : Statement (.movk d q v) :=
  scalar_trip rfl (fun h => by
    rw [decode_cat _ _ _ _ _ decOp0C (fun w h => by simp [decodeScalar, h])]
    obtain ⟨x, y, z⟩ := zero22 q (v.extractLsb' 14 2)
    simp_all [decOp0C, join16]) rfl
theorem beq (c : BitVec 6) (a : BitVec 6) (o : BitVec 14) : Statement (.beq c a o) :=
  scalar_trip rfl (fun h => by
    rw [decode_cat _ _ _ _ _ decOp10 (fun w h => by simp [decodeScalar, h])]
    exact congrArg (Instr.beq c a) (join14 o)) rfl
theorem bne (c : BitVec 6) (a : BitVec 6) (o : BitVec 14) : Statement (.bne c a o) :=
  scalar_trip rfl (fun h => by
    rw [decode_cat _ _ _ _ _ decOp11 (fun w h => by simp [decodeScalar, h])]
    exact congrArg (Instr.bne c a) (join14 o)) rfl
theorem blt (c : BitVec 6) (a : BitVec 6) (o : BitVec 14) : Statement (.blt c a o) :=
  scalar_trip rfl (fun h => by
    rw [decode_cat _ _ _ _ _ decOp12 (fun w h => by simp [decodeScalar, h])]
    exact congrArg (Instr.blt c a) (join14 o)) rfl
theorem bge (c : BitVec 6) (a : BitVec 6) (o : BitVec 14) : Statement (.bge c a o) :=
  scalar_trip rfl (fun h => by
    rw [decode_cat _ _ _ _ _ decOp13 (fun w h => by simp [decodeScalar, h])]
    exact congrArg (Instr.bge c a) (join14 o)) rfl
theorem bltu (c : BitVec 6) (a : BitVec 6) (o : BitVec 14) : Statement (.bltu c a o) :=
  scalar_trip rfl (fun h => by
    rw [decode_cat _ _ _ _ _ decOp14 (fun w h => by simp [decodeScalar, h])]
    exact congrArg (Instr.bltu c a) (join14 o)) rfl
theorem bgeu (c : BitVec 6) (a : BitVec 6) (o : BitVec 14) : Statement (.bgeu c a o) :=
  scalar_trip rfl (fun h => by
    rw [decode_cat _ _ _ _ _ decOp15 (fun w h => by simp [decodeScalar, h])]
    exact congrArg (Instr.bgeu c a) (join14 o)) rfl
theorem jmp (o : BitVec 26) : Statement (.jmp o) :=
  scalar_trip rfl (fun h => by
    rw [decode_cat _ _ _ _ _ decOp16 (fun w h => by simp [decodeScalar, h])]
    exact congrArg Instr.jmp (join26 o)) rfl
theorem call (o : BitVec 26) : Statement (.call o) :=
  scalar_trip rfl (fun h => by
    rw [decode_cat _ _ _ _ _ decOp17 (fun w h => by simp [decodeScalar, h])]
    exact congrArg Instr.call (join26 o)) rfl
theorem jmpr (d : BitVec 6) (a : BitVec 6) : Statement (.jmpr d a) :=
  scalar_trip rfl (fun h => by
    rw [decode_cat _ _ _ _ _ decOp18 (fun w h => by simp [decodeScalar, h])]
    simp_all [decOp18, wfScalar]) rfl
theorem split (k : BitVec 3) (i : BitVec 1) (o : BitVec 14) : Statement (.split k i o) :=
  scalar_trip rfl (fun h => by
    rw [decode_cat _ _ _ _ _ decOp19 (fun w h => by simp [decodeScalar, h])]
    obtain ⟨x, y, z⟩ := zeroKI i k
    simp_all [decOp19, wfScalar, join14]) rfl
theorem join : Statement .join :=
  scalar_trip rfl (fun h => by
    rw [decode_cat _ _ _ _ _ decOp1A (fun w h => by simp [decodeScalar, h])]
    simp_all [decOp1A, wfScalar]) rfl
theorem pany (d : BitVec 6) (i : BitVec 1) (k : BitVec 3) : Statement (.pany d i k) :=
  scalar_trip rfl (fun h => by
    rw [decode_cat _ _ _ _ _ decOp1B (fun w h => by simp [decodeScalar, h])]
    obtain ⟨x, y, z⟩ := zeroIK i k
    simp_all [decOp1B, wfScalar]) rfl
theorem pall (d : BitVec 6) (i : BitVec 1) (k : BitVec 3) : Statement (.pall d i k) :=
  scalar_trip rfl (fun h => by
    rw [decode_cat _ _ _ _ _ decOp1B (fun w h => by simp [decodeScalar, h])]
    obtain ⟨x, y, z⟩ := zeroIK i k
    simp_all [decOp1B, wfScalar]) rfl
theorem pcnt (d : BitVec 6) (i : BitVec 1) (k : BitVec 3) : Statement (.pcnt d i k) :=
  scalar_trip rfl (fun h => by
    rw [decode_cat _ _ _ _ _ decOp1B (fun w h => by simp [decodeScalar, h])]
    obtain ⟨x, y, z⟩ := zeroIK i k
    simp_all [decOp1B, wfScalar]) rfl
theorem pmask (d : BitVec 6) (i : BitVec 1) (k : BitVec 3) : Statement (.pmask d i k) :=
  scalar_trip rfl (fun h => by
    rw [decode_cat _ _ _ _ _ decOp1B (fun w h => by simp [decodeScalar, h])]
    obtain ⟨x, y, z⟩ := zeroIK i k
    simp_all [decOp1B, wfScalar]) rfl
theorem cls (o : BitVec 26) : Statement (.cls o) :=
  scalar_trip rfl (fun h => by
    rw [decode_cat _ _ _ _ _ decOp1C (fun w h => by simp [decodeScalar, h])]
    exact congrArg Instr.cls (join26 o)) rfl
theorem clsr (a : BitVec 6) : Statement (.clsr a) :=
  scalar_trip rfl (fun h => by
    rw [decode_cat _ _ _ _ _ decOp1D (fun w h => by simp [decodeScalar, h])]
    simp_all [decOp1D, wfScalar]) rfl
theorem spopen (a : BitVec 6) (w : BitVec 4) : Statement (.spopen a w) :=
  scalar_trip rfl (fun h => by
    rw [decode_cat _ _ _ _ _ decOp1E (fun w h => by simp [decodeScalar, h])]
    simp_all [decOp1E, wfScalar, zero4]) rfl
theorem spslot (a : BitVec 6) (w : BitVec 4) : Statement (.spslot a w) :=
  scalar_trip rfl (fun h => by
    rw [decode_cat _ _ _ _ _ decOp1E (fun w h => by simp [decodeScalar, h])]
    simp_all [decOp1E, wfScalar, zero4]) rfl
theorem spcommit (a : BitVec 6) (w : BitVec 4) : Statement (.spcommit a w) :=
  scalar_trip rfl (fun h => by
    rw [decode_cat _ _ _ _ _ decOp1E (fun w h => by simp [decodeScalar, h])]
    simp_all [decOp1E, wfScalar, zero4]) rfl
theorem ldb (d : BitVec 6) (a : BitVec 6) (i : BitVec 14) : Statement (.ldb d a i) :=
  scalar_trip rfl (fun h => by
    rw [decode_cat _ _ _ _ _ decOp20 (fun w h => by simp [decodeScalar, h])]
    exact congrArg (Instr.ldb d a) (join14 i)) rfl
theorem ldh (d : BitVec 6) (a : BitVec 6) (i : BitVec 14) : Statement (.ldh d a i) :=
  scalar_trip rfl (fun h => by
    rw [decode_cat _ _ _ _ _ decOp21 (fun w h => by simp [decodeScalar, h])]
    exact congrArg (Instr.ldh d a) (join14 i)) rfl
theorem ldw (d : BitVec 6) (a : BitVec 6) (i : BitVec 14) : Statement (.ldw d a i) :=
  scalar_trip rfl (fun h => by
    rw [decode_cat _ _ _ _ _ decOp22 (fun w h => by simp [decodeScalar, h])]
    exact congrArg (Instr.ldw d a) (join14 i)) rfl
theorem ldd (d : BitVec 6) (a : BitVec 6) (i : BitVec 14) : Statement (.ldd d a i) :=
  scalar_trip rfl (fun h => by
    rw [decode_cat _ _ _ _ _ decOp23 (fun w h => by simp [decodeScalar, h])]
    exact congrArg (Instr.ldd d a) (join14 i)) rfl
theorem ldbu (d : BitVec 6) (a : BitVec 6) (i : BitVec 14) : Statement (.ldbu d a i) :=
  scalar_trip rfl (fun h => by
    rw [decode_cat _ _ _ _ _ decOp24 (fun w h => by simp [decodeScalar, h])]
    exact congrArg (Instr.ldbu d a) (join14 i)) rfl
theorem ldhu (d : BitVec 6) (a : BitVec 6) (i : BitVec 14) : Statement (.ldhu d a i) :=
  scalar_trip rfl (fun h => by
    rw [decode_cat _ _ _ _ _ decOp25 (fun w h => by simp [decodeScalar, h])]
    exact congrArg (Instr.ldhu d a) (join14 i)) rfl
theorem ldwu (d : BitVec 6) (a : BitVec 6) (i : BitVec 14) : Statement (.ldwu d a i) :=
  scalar_trip rfl (fun h => by
    rw [decode_cat _ _ _ _ _ decOp26 (fun w h => by simp [decodeScalar, h])]
    exact congrArg (Instr.ldwu d a) (join14 i)) rfl
theorem stb (d : BitVec 6) (a : BitVec 6) (i : BitVec 14) : Statement (.stb d a i) :=
  scalar_trip rfl (fun h => by
    rw [decode_cat _ _ _ _ _ decOp27 (fun w h => by simp [decodeScalar, h])]
    exact congrArg (Instr.stb d a) (join14 i)) rfl
theorem sth (d : BitVec 6) (a : BitVec 6) (i : BitVec 14) : Statement (.sth d a i) :=
  scalar_trip rfl (fun h => by
    rw [decode_cat _ _ _ _ _ decOp28 (fun w h => by simp [decodeScalar, h])]
    exact congrArg (Instr.sth d a) (join14 i)) rfl
theorem stw (d : BitVec 6) (a : BitVec 6) (i : BitVec 14) : Statement (.stw d a i) :=
  scalar_trip rfl (fun h => by
    rw [decode_cat _ _ _ _ _ decOp29 (fun w h => by simp [decodeScalar, h])]
    exact congrArg (Instr.stw d a) (join14 i)) rfl
theorem std (d : BitVec 6) (a : BitVec 6) (i : BitVec 14) : Statement (.std d a i) :=
  scalar_trip rfl (fun h => by
    rw [decode_cat _ _ _ _ _ decOp2A (fun w h => by simp [decodeScalar, h])]
    exact congrArg (Instr.std d a) (join14 i)) rfl
theorem gets (d : BitVec 6) (i : BitVec 6) : Statement (.gets d i) :=
  scalar_trip rfl (fun h => by
    rw [decode_cat _ _ _ _ _ decOp2B (fun w h => by simp [decodeScalar, h])]
    simp_all [decOp2B, wfScalar]) rfl
theorem sets (a : BitVec 6) (i : BitVec 6) : Statement (.sets a i) :=
  scalar_trip rfl (fun h => by
    rw [decode_cat _ _ _ _ _ decOp2C (fun w h => by simp [decodeScalar, h])]
    simp_all [decOp2C, wfScalar]) rfl
theorem tkld (d : BitVec 6) (a : BitVec 6) (l : BitVec 6) (c : BitVec 2) : Statement (.tkld d a l c) :=
  scalar_trip rfl (fun h => by
    rw [decode_cat _ _ _ _ _ decOp2D (fun w h => by simp [decodeScalar, h])]
    simp_all [decOp2D, wfScalar, zero2]) rfl
theorem tkred (a : BitVec 6) (x : BitVec 6) : Statement (.tkred a x) :=
  scalar_trip rfl (fun h => by
    rw [decode_cat _ _ _ _ _ decOp2E (fun w h => by simp [decodeScalar, h])]
    simp_all [decOp2E, wfScalar, zero6]) rfl
theorem tkredQ (d : BitVec 6) (a : BitVec 6) (x : BitVec 6) : Statement (.tkredQ d a x) :=
  scalar_trip rfl (fun h => by
    rw [decode_cat _ _ _ _ _ decOp2E (fun w h => by simp [decodeScalar, h])]
    simp_all [decOp2E, wfScalar, zero6]) rfl
theorem tkdrop (a : BitVec 6) : Statement (.tkdrop a) :=
  scalar_trip rfl (fun h => by
    rw [decode_cat _ _ _ _ _ decOp2F (fun w h => by simp [decodeScalar, h])]
    simp_all [decOp2F, wfScalar]) rfl
theorem waitp (a : BitVec 6) (p : BitVec 6) : Statement (.waitp a p) :=
  scalar_trip rfl (fun h => by
    rw [decode_cat _ _ _ _ _ decOp30 (fun w h => by simp [decodeScalar, h])]
    simp_all [decOp30, wfScalar]) rfl
theorem waitf (m : BitVec 12) : Statement (.waitf m) :=
  scalar_trip rfl (fun h => by
    rw [decode_cat _ _ _ _ _ decOp31 (fun w h => by simp [decodeScalar, h])]
    obtain ⟨x, y⟩ := zero24 (m.extractLsb' 8 4)
    simp_all [decOp31, join12]) rfl
theorem fence (s : BitVec 3) : Statement (.fence s) :=
  scalar_trip rfl (fun h => by
    rw [decode_cat _ _ _ _ _ decOp32 (fun w h => by simp [decodeScalar, h])]
    simp_all [decOp32, wfScalar, zero3]) rfl
theorem pub (s : BitVec 3) : Statement (.pub s) :=
  scalar_trip rfl (fun h => by
    rw [decode_cat _ _ _ _ _ decOp33 (fun w h => by simp [decodeScalar, h])]
    simp_all [decOp33, wfScalar, zero3]) rfl
theorem acq (s : BitVec 3) : Statement (.acq s) :=
  scalar_trip rfl (fun h => by
    rw [decode_cat _ _ _ _ _ decOp33 (fun w h => by simp [decodeScalar, h])]
    simp_all [decOp33, wfScalar, zero3]) rfl
theorem step : Statement .step :=
  scalar_trip rfl (fun h => by
    rw [decode_cat _ _ _ _ _ decOp34 (fun w h => by simp [decodeScalar, h])]
    simp_all [decOp34, wfScalar]) rfl
theorem stepq (d : BitVec 6) : Statement (.stepq d) :=
  scalar_trip rfl (fun h => by
    rw [decode_cat _ _ _ _ _ decOp34 (fun w h => by simp [decodeScalar, h])]
    simp_all [decOp34, wfScalar]) rfl
theorem qbind (a : BitVec 6) (n : BitVec 3) : Statement (.qbind a n) :=
  scalar_trip rfl (fun h => by
    rw [decode_cat _ _ _ _ _ decOp35 (fun w h => by simp [decodeScalar, h])]
    simp_all [decOp35, wfScalar, zero3]) rfl
theorem qunbind (d : BitVec 6) (n : BitVec 3) : Statement (.qunbind d n) :=
  scalar_trip rfl (fun h => by
    rw [decode_cat _ _ _ _ _ decOp35 (fun w h => by simp [decodeScalar, h])]
    simp_all [decOp35, wfScalar, zero3]) rfl
theorem qpush (a : BitVec 6) (n : BitVec 3) : Statement (.qpush a n) :=
  scalar_trip rfl (fun h => by
    rw [decode_cat _ _ _ _ _ decOp35 (fun w h => by simp [decodeScalar, h])]
    simp_all [decOp35, wfScalar, zero3]) rfl
theorem qpushT (d : BitVec 6) (a : BitVec 6) (n : BitVec 3) : Statement (.qpushT d a n) :=
  scalar_trip rfl (fun h => by
    rw [decode_cat _ _ _ _ _ decOp35 (fun w h => by simp [decodeScalar, h])]
    obtain ⟨x, y⟩ := one53 n
    simp_all [decOp35, wfScalar]) rfl
theorem qpop (d : BitVec 6) (n : BitVec 3) : Statement (.qpop d n) :=
  scalar_trip rfl (fun h => by
    rw [decode_cat _ _ _ _ _ decOp35 (fun w h => by simp [decodeScalar, h])]
    simp_all [decOp35, wfScalar, zero3]) rfl
theorem qtry (d : BitVec 6) (a : BitVec 6) (n : BitVec 3) : Statement (.qtry d a n) :=
  scalar_trip rfl (fun h => by
    rw [decode_cat _ _ _ _ _ decOp35 (fun w h => by simp [decodeScalar, h])]
    simp_all [decOp35, wfScalar, zero3]) rfl
theorem qlen (d : BitVec 6) (n : BitVec 3) : Statement (.qlen d n) :=
  scalar_trip rfl (fun h => by
    rw [decode_cat _ _ _ _ _ decOp35 (fun w h => by simp [decodeScalar, h])]
    simp_all [decOp35, wfScalar, zero3]) rfl
theorem amsg (d : BitVec 6) (a : BitVec 6) (h : BitVec 6) (l : BitVec 6) : Statement (.amsg d a h l) :=
  scalar_trip rfl (fun h => by
    rw [decode_cat _ _ _ _ _ decOp36 (fun w h => by simp [decodeScalar, h])]
    simp_all [decOp36, wfScalar, zero6]) rfl
theorem amsgReply (a : BitVec 6) (l : BitVec 6) : Statement (.amsgReply a l) :=
  scalar_trip rfl (fun h => by
    rw [decode_cat _ _ _ _ _ decOp36 (fun w h => by simp [decodeScalar, h])]
    obtain ⟨x, y⟩ := two26 l
    simp_all [decOp36]) rfl
theorem launch (d : BitVec 6) (a : BitVec 6) : Statement (.launch d a) :=
  scalar_trip rfl (fun h => by
    rw [decode_cat _ _ _ _ _ decOp37 (fun w h => by simp [decodeScalar, h])]
    simp_all [decOp37, wfScalar]) rfl
theorem waitw (d : BitVec 6) (a : BitVec 6) (v : BitVec 2) : Statement (.waitw d a v) :=
  scalar_trip rfl (fun h => by
    rw [decode_cat _ _ _ _ _ decOp37 (fun w h => by simp [decodeScalar, h])]
    simp_all [decOp37, wfScalar, zero2]) rfl
theorem cancel (a : BitVec 6) (v : BitVec 2) : Statement (.cancel a v) :=
  scalar_trip rfl (fun h => by
    rw [decode_cat _ _ _ _ _ decOp37 (fun w h => by simp [decodeScalar, h])]
    simp_all [decOp37, wfScalar, zero2]) rfl
theorem wcount (d : BitVec 6) (a : BitVec 6) (v : BitVec 2) : Statement (.wcount d a v) :=
  scalar_trip rfl (fun h => by
    rw [decode_cat _ _ _ _ _ decOp37 (fun w h => by simp [decodeScalar, h])]
    simp_all [decOp37, wfScalar, zero2]) rfl
theorem trap (n : BitVec 6) : Statement (.trap n) :=
  scalar_trip rfl (fun h => by
    rw [decode_cat _ _ _ _ _ decOp38 (fun w h => by simp [decodeScalar, h])]
    simp_all [decOp38, wfScalar, zero6]) rfl
theorem brkpt (k : BitVec 8) : Statement (.brkpt k) :=
  scalar_trip rfl (fun h => by
    rw [decode_cat _ _ _ _ _ decOp38 (fun w h => by simp [decodeScalar, h])]
    simp_all [decOp38, wfScalar]) rfl
theorem yield : Statement .yield :=
  scalar_trip rfl (fun h => by
    rw [decode_cat _ _ _ _ _ decOp38 (fun w h => by simp [decodeScalar, h])]
    simp_all [decOp38, wfScalar]) rfl
theorem contset (a : BitVec 6) : Statement (.contset a) :=
  scalar_trip rfl (fun h => by
    rw [decode_cat _ _ _ _ _ decOp38 (fun w h => by simp [decodeScalar, h])]
    simp_all [decOp38, wfScalar]) rfl
theorem contret : Statement .contret :=
  scalar_trip rfl (fun h => by
    rw [decode_cat _ _ _ _ _ decOp38 (fun w h => by simp [decodeScalar, h])]
    simp_all [decOp38, wfScalar]) rfl
theorem nop : Statement .nop :=
  scalar_trip rfl (fun h => by
    rw [decode_cat _ _ _ _ _ decOp38 (fun w h => by simp [decodeScalar, h])]
    simp_all [decOp38, wfScalar]) rfl
theorem rett : Statement .rett :=
  scalar_trip rfl (fun h => by
    rw [decode_cat _ _ _ _ _ decOp39 (fun w h => by simp [decodeScalar, h])]
    simp_all [decOp39, wfScalar]) rfl
theorem binit (d : BitVec 6) (a : BitVec 6) : Statement (.binit d a) :=
  scalar_trip rfl (fun h => by
    rw [decode_cat _ _ _ _ _ decOp3A (fun w h => by simp [decodeScalar, h])]
    simp_all [decOp3A, wfScalar]) rfl
theorem bexpect (d : BitVec 6) (a : BitVec 6) : Statement (.bexpect d a) :=
  scalar_trip rfl (fun h => by
    rw [decode_cat _ _ _ _ _ decOp3A (fun w h => by simp [decodeScalar, h])]
    simp_all [decOp3A, wfScalar]) rfl
theorem barrive (a : BitVec 6) : Statement (.barrive a) :=
  scalar_trip rfl (fun h => by
    rw [decode_cat _ _ _ _ _ decOp3A (fun w h => by simp [decodeScalar, h])]
    simp_all [decOp3A, wfScalar]) rfl
theorem bwait (d : BitVec 6) (a : BitVec 6) : Statement (.bwait d a) :=
  scalar_trip rfl (fun h => by
    rw [decode_cat _ _ _ _ _ decOp3A (fun w h => by simp [decodeScalar, h])]
    simp_all [decOp3A, wfScalar]) rfl
theorem btest (d : BitVec 6) (a : BitVec 6) : Statement (.btest d a) :=
  scalar_trip rfl (fun h => by
    rw [decode_cat _ _ _ _ _ decOp3A (fun w h => by simp [decodeScalar, h])]
    simp_all [decOp3A, wfScalar]) rfl
theorem mfree (i : BitVec 4) : Statement (.mfree i) :=
  scalar_trip rfl (fun h => by
    rw [decode_cat _ _ _ _ _ decOp3A (fun w h => by simp [decodeScalar, h])]
    simp_all [decOp3A, wfScalar, zero4]) rfl
theorem satomAdd (d : BitVec 6) (a : BitVec 6) (b : BitVec 6) : Statement (.satomAdd d a b) :=
  scalar_trip rfl (fun h => by
    rw [decode_cat _ _ _ _ _ decOp3B (fun w h => by simp [decodeScalar, h])]
    simp_all [decOp3B, wfScalar]) rfl
theorem satomSwap (d : BitVec 6) (a : BitVec 6) (b : BitVec 6) : Statement (.satomSwap d a b) :=
  scalar_trip rfl (fun h => by
    rw [decode_cat _ _ _ _ _ decOp3B (fun w h => by simp [decodeScalar, h])]
    simp_all [decOp3B, wfScalar]) rfl
theorem satomCas (d : BitVec 6) (a : BitVec 6) (b : BitVec 6) : Statement (.satomCas d a b) :=
  scalar_trip rfl (fun h => by
    rw [decode_cat _ _ _ _ _ decOp3B (fun w h => by simp [decodeScalar, h])]
    simp_all [decOp3B, wfScalar]) rfl
theorem satomMin (d : BitVec 6) (a : BitVec 6) (b : BitVec 6) : Statement (.satomMin d a b) :=
  scalar_trip rfl (fun h => by
    rw [decode_cat _ _ _ _ _ decOp3B (fun w h => by simp [decodeScalar, h])]
    simp_all [decOp3B, wfScalar]) rfl
theorem satomMax (d : BitVec 6) (a : BitVec 6) (b : BitVec 6) : Statement (.satomMax d a b) :=
  scalar_trip rfl (fun h => by
    rw [decode_cat _ _ _ _ _ decOp3B (fun w h => by simp [decodeScalar, h])]
    simp_all [decOp3B, wfScalar]) rfl
theorem satomMinu (d : BitVec 6) (a : BitVec 6) (b : BitVec 6) : Statement (.satomMinu d a b) :=
  scalar_trip rfl (fun h => by
    rw [decode_cat _ _ _ _ _ decOp3B (fun w h => by simp [decodeScalar, h])]
    simp_all [decOp3B, wfScalar]) rfl
theorem satomMaxu (d : BitVec 6) (a : BitVec 6) (b : BitVec 6) : Statement (.satomMaxu d a b) :=
  scalar_trip rfl (fun h => by
    rw [decode_cat _ _ _ _ _ decOp3B (fun w h => by simp [decodeScalar, h])]
    simp_all [decOp3B, wfScalar]) rfl
theorem satomAnd (d : BitVec 6) (a : BitVec 6) (b : BitVec 6) : Statement (.satomAnd d a b) :=
  scalar_trip rfl (fun h => by
    rw [decode_cat _ _ _ _ _ decOp3B (fun w h => by simp [decodeScalar, h])]
    simp_all [decOp3B, wfScalar]) rfl
theorem satomOr (d : BitVec 6) (a : BitVec 6) (b : BitVec 6) : Statement (.satomOr d a b) :=
  scalar_trip rfl (fun h => by
    rw [decode_cat _ _ _ _ _ decOp3B (fun w h => by simp [decodeScalar, h])]
    simp_all [decOp3B, wfScalar]) rfl
theorem satomXor (d : BitVec 6) (a : BitVec 6) (b : BitVec 6) : Statement (.satomXor d a b) :=
  scalar_trip rfl (fun h => by
    rw [decode_cat _ _ _ _ _ decOp3B (fun w h => by simp [decodeScalar, h])]
    simp_all [decOp3B, wfScalar]) rfl
theorem setmode (a : BitVec 6) : Statement (.setmode a) :=
  scalar_trip rfl (fun h => by
    rw [decode_cat _ _ _ _ _ decOp3C (fun w h => by simp [decodeScalar, h])]
    simp_all [decOp3C, wfScalar]) rfl
theorem getmode (d : BitVec 6) : Statement (.getmode d) :=
  scalar_trip rfl (fun h => by
    rw [decode_cat _ _ _ _ _ decOp3C (fun w h => by simp [decodeScalar, h])]
    simp_all [decOp3C, wfScalar]) rfl
theorem setfmt (a : BitVec 6) : Statement (.setfmt a) :=
  scalar_trip rfl (fun h => by
    rw [decode_cat _ _ _ _ _ decOp3C (fun w h => by simp [decodeScalar, h])]
    simp_all [decOp3C, wfScalar]) rfl
theorem getfmt (d : BitVec 6) : Statement (.getfmt d) :=
  scalar_trip rfl (fun h => by
    rw [decode_cat _ _ _ _ _ decOp3C (fun w h => by simp [decodeScalar, h])]
    simp_all [decOp3C, wfScalar]) rfl
theorem rsta (d : BitVec 6) (a : BitVec 6) (l : BitVec 8) : Statement (.rsta d a l) :=
  scalar_trip rfl (fun h => by
    rw [decode_cat _ _ _ _ _ decOp3D (fun w h => by simp [decodeScalar, h])]
    simp_all [decOp3D, wfScalar]) rfl
theorem fralloc (d : BitVec 6) (a : BitVec 6) : Statement (.fralloc d a) :=
  scalar_trip rfl (fun h => by
    rw [decode_cat _ _ _ _ _ decOp3D (fun w h => by simp [decodeScalar, h])]
    simp_all [decOp3D, wfScalar]) rfl
theorem frcontrib (d : BitVec 6) (a : BitVec 6) : Statement (.frcontrib d a) :=
  scalar_trip rfl (fun h => by
    rw [decode_cat _ _ _ _ _ decOp3D (fun w h => by simp [decodeScalar, h])]
    simp_all [decOp3D, wfScalar]) rfl
theorem frcontribQ (d : BitVec 6) (a : BitVec 6) (t : BitVec 6) : Statement (.frcontribQ d a t) :=
  scalar_trip rfl (fun h => by
    rw [decode_cat _ _ _ _ _ decOp3D (fun w h => by simp [decodeScalar, h])]
    obtain ⟨x, y, z⟩ := one26 t
    simp_all [decOp3D]) rfl
theorem frwait (d : BitVec 6) (a : BitVec 6) (t : BitVec 6) : Statement (.frwait d a t) :=
  scalar_trip rfl (fun h => by
    rw [decode_cat _ _ _ _ _ decOp3D (fun w h => by simp [decodeScalar, h])]
    simp_all [decOp3D, wfScalar, zero6]) rfl
theorem tcfg (a : BitVec 6) (n : BitVec 4) : Statement (.tcfg a n) :=
  scalar_trip rfl (fun h => by
    rw [decode_cat _ _ _ _ _ decOp3E (fun w h => by simp [decodeScalar, h])]
    obtain ⟨x, y⟩ := zero24 n
    simp_all [decOp3E]) rfl
theorem tcfgR (d : BitVec 6) (n : BitVec 4) : Statement (.tcfgR d n) :=
  scalar_trip rfl (fun h => by
    rw [decode_cat _ _ _ _ _ decOp3E (fun w h => by simp [decodeScalar, h])]
    obtain ⟨x, y⟩ := zero24 n
    simp_all [decOp3E]) rfl
theorem iadd (f : LaneF) : Statement (.iadd f) := lane_trip rfl rfl (by decide) rfl
theorem isub (f : LaneF) : Statement (.isub f) := lane_trip rfl rfl (by decide) rfl
theorem imul (f : LaneF) : Statement (.imul f) := lane_trip rfl rfl (by decide) rfl
theorem imulh (f : LaneF) : Statement (.imulh f) := lane_trip rfl rfl (by decide) rfl
theorem imulhu (f : LaneF) : Statement (.imulhu f) := lane_trip rfl rfl (by decide) rfl
theorem imad (f : LaneF) : Statement (.imad f) := lane_trip rfl rfl (by decide) rfl
theorem imin (f : LaneF) : Statement (.imin f) := lane_trip rfl rfl (by decide) rfl
theorem imax (f : LaneF) : Statement (.imax f) := lane_trip rfl rfl (by decide) rfl
theorem iminu (f : LaneF) : Statement (.iminu f) := lane_trip rfl rfl (by decide) rfl
theorem imaxu (f : LaneF) : Statement (.imaxu f) := lane_trip rfl rfl (by decide) rfl
theorem iabs (f : LaneF) : Statement (.iabs f) := lane_trip rfl rfl (by decide) rfl
theorem iand (f : LaneF) : Statement (.iand f) := lane_trip rfl rfl (by decide) rfl
theorem ior (f : LaneF) : Statement (.ior f) := lane_trip rfl rfl (by decide) rfl
theorem ixor (f : LaneF) : Statement (.ixor f) := lane_trip rfl rfl (by decide) rfl
theorem iandn (f : LaneF) : Statement (.iandn f) := lane_trip rfl rfl (by decide) rfl
theorem ishl (f : LaneF) : Statement (.ishl f) := lane_trip rfl rfl (by decide) rfl
theorem ishr (f : LaneF) : Statement (.ishr f) := lane_trip rfl rfl (by decide) rfl
theorem isar (f : LaneF) : Statement (.isar f) := lane_trip rfl rfl (by decide) rfl
theorem ipopc (f : LaneF) : Statement (.ipopc f) := lane_trip rfl rfl (by decide) rfl
theorem iclz (f : LaneF) : Statement (.iclz f) := lane_trip rfl rfl (by decide) rfl
theorem ibfe (f : LaneF) : Statement (.ibfe f) := lane_trip rfl rfl (by decide) rfl
theorem ibfi (f : LaneF) : Statement (.ibfi f) := lane_trip rfl rfl (by decide) rfl
theorem icmp (f : LaneF) : Statement (.icmp f) := lane_trip rfl rfl (by decide) rfl
theorem isel (f : LaneF) : Statement (.isel f) := lane_trip rfl rfl (by decide) rfl
theorem imov (f : LaneF) : Statement (.imov f) := lane_trip rfl rfl (by decide) rfl
theorem iadd64 (f : LaneF) : Statement (.iadd64 f) := lane_trip rfl rfl (by decide) rfl
theorem imad64 (f : LaneF) : Statement (.imad64 f) := lane_trip rfl rfl (by decide) rfl
theorem fadd (f : LaneF) : Statement (.fadd f) := lane_trip rfl rfl (by decide) rfl
theorem fsub (f : LaneF) : Statement (.fsub f) := lane_trip rfl rfl (by decide) rfl
theorem fmul (f : LaneF) : Statement (.fmul f) := lane_trip rfl rfl (by decide) rfl
theorem ffma (f : LaneF) : Statement (.ffma f) := lane_trip rfl rfl (by decide) rfl
theorem fmin (f : LaneF) : Statement (.fmin f) := lane_trip rfl rfl (by decide) rfl
theorem fmax (f : LaneF) : Statement (.fmax f) := lane_trip rfl rfl (by decide) rfl
theorem fminnan (f : LaneF) : Statement (.fminnan f) := lane_trip rfl rfl (by decide) rfl
theorem fmaxnan (f : LaneF) : Statement (.fmaxnan f) := lane_trip rfl rfl (by decide) rfl
theorem fcmp (f : LaneF) : Statement (.fcmp f) := lane_trip rfl rfl (by decide) rfl
theorem fclass (f : LaneF) : Statement (.fclass f) := lane_trip rfl rfl (by decide) rfl
theorem frnd (f : LaneF) : Statement (.frnd f) := lane_trip rfl rfl (by decide) rfl
theorem fscale (f : LaneF) : Statement (.fscale f) := lane_trip rfl rfl (by decide) rfl
theorem fdot2 (f : LaneF) : Statement (.fdot2 f) := lane_trip rfl rfl (by decide) rfl
theorem fdot4 (f : LaneF) : Statement (.fdot4 f) := lane_trip rfl rfl (by decide) rfl
theorem cvtif (f : LaneF) : Statement (.cvtif f) := lane_trip rfl rfl (by decide) rfl
theorem cvtfi (f : LaneF) : Statement (.cvtfi f) := lane_trip rfl rfl (by decide) rfl
theorem cvtff (f : LaneF) : Statement (.cvtff f) := lane_trip rfl rfl (by decide) rfl
theorem cvtn (f : LaneF) : Statement (.cvtn f) := lane_trip rfl rfl (by decide) rfl
theorem cvtw (f : LaneF) : Statement (.cvtw f) := lane_trip rfl rfl (by decide) rfl
theorem qscale (f : LaneF) : Statement (.qscale f) := lane_trip rfl rfl (by decide) rfl
theorem pack (f : LaneF) : Statement (.pack f) := lane_trip rfl rfl (by decide) rfl
theorem unpack (f : LaneF) : Statement (.unpack f) := lane_trip rfl rfl (by decide) rfl
theorem rcpa (f : LaneF) : Statement (.rcpa f) := lane_trip rfl rfl (by decide) rfl
theorem rsqrta (f : LaneF) : Statement (.rsqrta f) := lane_trip rfl rfl (by decide) rfl
theorem exp2a (f : LaneF) : Statement (.exp2a f) := lane_trip rfl rfl (by decide) rfl
theorem log2a (f : LaneF) : Statement (.log2a f) := lane_trip rfl rfl (by decide) rfl
theorem sinpa (f : LaneF) : Statement (.sinpa f) := lane_trip rfl rfl (by decide) rfl
theorem cospa (f : LaneF) : Statement (.cospa f) := lane_trip rfl rfl (by decide) rfl
theorem tanha (f : LaneF) : Statement (.tanha f) := lane_trip rfl rfl (by decide) rfl
theorem sqrt (f : LaneF) : Statement (.sqrt f) := lane_trip rfl rfl (by decide) rfl
theorem fdiv (f : LaneF) : Statement (.fdiv f) := lane_trip rfl rfl (by decide) rfl
theorem lld (f : LaneF) : Statement (.lld f) := lane_trip rfl rfl (by decide) rfl
theorem lst (f : LaneF) : Statement (.lst f) := lane_trip rfl rfl (by decide) rfl
theorem latom (f : LaneF) : Statement (.latom f) := lane_trip rfl rfl (by decide) rfl
theorem ltkld (f : LaneF) : Statement (.ltkld f) := lane_trip rfl rfl (by decide) rfl
theorem ltkred (f : LaneF) : Statement (.ltkred f) := lane_trip rfl rfl (by decide) rfl
theorem lpref (f : LaneF) : Statement (.lpref f) := lane_trip rfl rfl (by decide) rfl
theorem tld (f : LaneF) : Statement (.tld f) := lane_trip rfl rfl (by decide) rfl
theorem tst (f : LaneF) : Statement (.tst f) := lane_trip rfl rfl (by decide) rfl
theorem tzero (f : LaneF) : Statement (.tzero f) := lane_trip rfl rfl (by decide) rfl
theorem tmovi (f : LaneF) : Statement (.tmovi f) := lane_trip rfl rfl (by decide) rfl
theorem tmovo (f : LaneF) : Statement (.tmovo f) := lane_trip rfl rfl (by decide) rfl
theorem tsum (f : LaneF) : Statement (.tsum f) := lane_trip rfl rfl (by decide) rfl
theorem mma (f : LaneF) : Statement (.mma f) := lane_trip rfl rfl (by decide) rfl
theorem mdist (f : LaneF) : Statement (.mdist f) := lane_trip rfl rfl (by decide) rfl
theorem ald (f : LaneF) : Statement (.ald f) := lane_trip rfl rfl (by decide) rfl
theorem adrain (f : LaneF) : Statement (.adrain f) := lane_trip rfl rfl (by decide) rfl
theorem aclr (f : LaneF) : Statement (.aclr f) := lane_trip rfl rfl (by decide) rfl
theorem mtopk (f : LaneF) : Statement (.mtopk f) := lane_trip rfl rfl (by decide) rfl
theorem xpub (f : LaneF) : Statement (.xpub f) := lane_trip rfl rfl (by decide) rfl
theorem nbvalid (f : LaneF) : Statement (.nbvalid f) := lane_trip rfl rfl (by decide) rfl
theorem rng (f : LaneF) : Statement (.rng f) := lane_trip rfl rfl (by decide) rfl
theorem rseed (f : LaneF) : Statement (.rseed f) := lane_trip rfl rfl (by decide) rfl
theorem sample (f : LaneF) : Statement (.sample f) := lane_trip rfl rfl (by decide) rfl
theorem kop (f : LaneF) : Statement (.kop f) := lane_trip rfl rfl (by decide) rfl
theorem shfl (f : LaneF) : Statement (.shfl f) := lane_trip rfl rfl (by decide) rfl
theorem lbcast (f : LaneF) : Statement (.lbcast f) := lane_trip rfl rfl (by decide) rfl
theorem gred (f : LaneF) : Statement (.gred f) := lane_trip rfl rfl (by decide) rfl
theorem gscan (f : LaneF) : Statement (.gscan f) := lane_trip rfl rfl (by decide) rfl
theorem illegalEncoding (w : W32) : Statement (.illegalEncoding w) :=
  scalar_trip rfl (fun h => by simpa [wfScalar] using h) rfl
theorem stepClose (g : GKey) : Statement (.stepClose g) := event_trip rfl rfl
theorem stepEntry (g : GKey) : Statement (.stepEntry g) := event_trip rfl rfl
theorem clauseDecode (g : GKey) (slot : Bool) : Statement (.clauseDecode g slot) := event_trip rfl rfl
theorem clauseIssue (g : GKey) (slot : Bool) (pipe : Nat) : Statement (.clauseIssue g slot pipe) := event_trip rfl rfl
theorem longLatencyComplete (op : Nat) : Statement (.longLatencyComplete op) := event_trip rfl rfl
theorem accessReturn (op : Nat) : Statement (.accessReturn op) := event_trip rfl rfl
theorem sliceAccess (op part : Nat) : Statement (.sliceAccess op part) := event_trip rfl rfl
theorem mergingFillLands (slice line : Nat) : Statement (.mergingFillLands slice line) := event_trip rfl rfl
theorem hostWindowPass (load : Option (Nat × Nat)) (ok : Bool) (data : Nat) : Statement (.hostWindowPass load ok data) := event_trip rfl rfl
theorem lreq (pid : Nat) (v : W64) : Statement (.lreq pid v) := event_trip rfl rfl
theorem evrespResume (pid : Nat) (seq : W32) : Statement (.evrespResume pid seq) := event_trip rfl rfl
theorem evrespFail (pid : Nat) (seq : W32) : Statement (.evrespFail pid seq) := event_trip rfl rfl
theorem evrespCancel (pid : Nat) (seq : W32) : Statement (.evrespCancel pid seq) := event_trip rfl rfl
theorem partWrite (snd : Sender) (pid : Nat) (blk : BitVec 1024) : Statement (.partWrite snd pid blk) := event_trip rfl rfl
theorem coreOwnWrite (snd : Sender) (core : Nat) (v : BitVec 128) : Statement (.coreOwnWrite snd core v) := event_trip rfl rfl
theorem rootsWrite (snd : Sender) (pid : Nat) (s1 s2 : W64) : Statement (.rootsWrite snd pid s1 s2) := event_trip rfl rfl
theorem tlbi (snd : Sender) (pid : Nat) (blk : BitVec 256) : Statement (.tlbi snd pid blk) := event_trip rfl rfl
theorem featAccept (sheet : Nat) (v : BitVec 256) : Statement (.featAccept sheet v) := event_trip rfl rfl
theorem registerWrite (snd : Sender) (r : PReg) (v : W64) : Statement (.registerWrite snd r v) := event_trip rfl rfl
theorem sheetBind (sheet base size : Nat) : Statement (.sheetBind sheet base size) := event_trip rfl rfl
theorem hostMemAccess (sheet addr n : Nat) (data : Option (List Byte)) : Statement (.hostMemAccess sheet addr n data) := event_trip rfl rfl
theorem packetHop (src : HopSrc) (dst : HopDst) : Statement (.packetHop src dst) := event_trip rfl rfl
theorem replyArrival (pkt : Packet) : Statement (.replyArrival pkt) := event_trip rfl rfl
theorem powerOn : Statement .powerOn := event_trip rfl rfl
theorem thermalShutdown : Statement .thermalShutdown := event_trip rfl rfl
theorem firmwareVerify (ok : Bool) (measurement : BitVec 512) : Statement (.firmwareVerify ok measurement) := event_trip rfl rfl
theorem startupComplete : Statement .startupComplete := event_trip rfl rfl
theorem tamlyIdWrite (v : W32) : Statement (.tamlyIdWrite v) := event_trip rfl rfl
theorem slotRefill (g : GKey) : Statement (.slotRefill g) := event_trip rfl rfl
theorem pathRotation (g : GKey) (slot : Bool) : Statement (.pathRotation g slot) := event_trip rfl rfl
theorem forcedPublication (core : Nat) (words : List Nat) : Statement (.forcedPublication core words) := event_trip rfl rfl
theorem scopeRetry (op part : Nat) : Statement (.scopeRetry op part) := event_trip rfl rfl
theorem marginValueArrival (slice n : Nat) : Statement (.marginValueArrival slice n) := event_trip rfl rfl
theorem closeAnnouncement (n : Nat) : Statement (.closeAnnouncement n) := event_trip rfl rfl
theorem ticketFetchLands (slice entry : Nat) : Statement (.ticketFetchLands slice entry) := event_trip rfl rfl
theorem ticketLeaseExpiry (slice entry : Nat) : Statement (.ticketLeaseExpiry slice entry) := event_trip rfl rfl
theorem queueElementAccess (desc : Nat) : Statement (.queueElementAccess desc) := event_trip rfl rfl
theorem popBufferFill (g : GKey) (n : Nat) : Statement (.popBufferFill g n) := event_trip rfl rfl
theorem pushBufferDrain (g : GKey) (n : Nat) : Statement (.pushBufferDrain g n) := event_trip rfl rfl
theorem handlerSpawn (p : PKey) : Statement (.handlerSpawn p) := event_trip rfl rfl
theorem amsgEnqueue (n : Nat) : Statement (.amsgEnqueue n) := event_trip rfl rfl
theorem groupEnd (g : GKey) (slot : Bool) : Statement (.groupEnd g slot) := event_trip rfl rfl
theorem eviction (p : PKey) : Statement (.eviction p) := event_trip rfl rfl
theorem entrantAdmission (p : PKey) : Statement (.entrantAdmission p) := event_trip rfl rfl
theorem streamerCommandStart (p : PKey) : Statement (.streamerCommandStart p) := event_trip rfl rfl
theorem sectorLands (p : PKey) (cmd sector : Nat) : Statement (.sectorLands p cmd sector) := event_trip rfl rfl
theorem streamerFault (p : PKey) (cmd sector : Nat) (c : Cause) : Statement (.streamerFault p cmd sector c) := event_trip rfl rfl
theorem mapOperation (p : PKey) : Statement (.mapOperation p) := event_trip rfl rfl
theorem mcastStart (p : PKey) : Statement (.mcastStart p) := event_trip rfl rfl
theorem mappedFillLands (p : PKey) (line : Nat) : Statement (.mappedFillLands p line) := event_trip rfl rfl
theorem flitRetry (port : Nat) : Statement (.flitRetry port) := event_trip rfl rfl
theorem laneRetire (port : Nat) : Statement (.laneRetire port) := event_trip rfl rfl
theorem suspectTimeout (n : Nat) : Statement (.suspectTimeout n) := event_trip rfl rfl
theorem compassTokenArrival (token : Token) : Statement (.compassTokenArrival token) := event_trip rfl rfl
theorem tokenReissue : Statement .tokenReissue := event_trip rfl rfl
theorem sequencedApply (spkg slice : Nat) : Statement (.sequencedApply spkg slice) := event_trip rfl rfl
theorem packageReset : Statement .packageReset := event_trip rfl rfl
theorem resetNotice (spkg sinc : Nat) : Statement (.resetNotice spkg sinc) := event_trip rfl rfl
theorem requestTimeout (die tag : Nat) : Statement (.requestTimeout die tag) := event_trip rfl rfl
theorem tagQuarantineEnd (die tag : Nat) : Statement (.tagQuarantineEnd die tag) := event_trip rfl rfl
theorem rstaSegment (op part : Nat) : Statement (.rstaSegment op part) := event_trip rfl rfl
theorem rstaAck (op part : Nat) : Statement (.rstaAck op part) := event_trip rfl rfl
theorem doorSegment (op part : Nat) : Statement (.doorSegment op part) := event_trip rfl rfl
theorem reductionRequest (n : Nat) : Statement (.reductionRequest n) := event_trip rfl rfl
theorem reductionTimer (slot : Nat) : Statement (.reductionTimer slot) := event_trip rfl rfl
theorem launchRelease (h : Nat) : Statement (.launchRelease h) := event_trip rfl rfl
theorem launchPlacement (h : Nat) : Statement (.launchPlacement h) := event_trip rfl rfl
theorem launchEnd (h : Nat) : Statement (.launchEnd h) := event_trip rfl rfl
theorem recordDrop (sheet lvl h : Nat) : Statement (.recordDrop sheet lvl h) := event_trip rfl rfl
theorem sliceStart (core : Nat) : Statement (.sliceStart core) := event_trip rfl rfl
theorem sliceEnd (core : Nat) : Statement (.sliceEnd core) := event_trip rfl rfl
theorem saveTimeout (core : Nat) : Statement (.saveTimeout core) := event_trip rfl rfl
theorem pageWalk (core pid va : Nat) (acc : Acc) : Statement (.pageWalk core pid va acc) := event_trip rfl rfl
theorem preciseStop (g : GKey) : Statement (.preciseStop g) := event_trip rfl rfl
theorem lateFaultArrival (op part : Nat) (c : Cause) : Statement (.lateFaultArrival op part c) := event_trip rfl rfl
theorem eventRecordWrite (pid : Nat) : Statement (.eventRecordWrite pid) := event_trip rfl rfl
theorem ckpt (snd : Sender) (blk : BitVec 512) : Statement (.ckpt snd blk) := event_trip rfl rfl
theorem migrate (snd : Sender) (blk : BitVec 512) : Statement (.migrate snd blk) := event_trip rfl rfl
theorem cutTaken (job : Nat) : Statement (.cutTaken job) := event_trip rfl rfl
theorem cutTimeout (job : Nat) : Statement (.cutTimeout job) := event_trip rfl rfl
theorem blockCopy (job : Nat) : Statement (.blockCopy job) := event_trip rfl rfl
theorem checkpointCommit (job : Nat) (a : CtrAct) : Statement (.checkpointCommit job a) := event_trip rfl rfl
theorem restore (snd : Sender) (blk : BitVec 512) (sigOk peersOk : Bool) (seen : Opening) :
    Statement (.restore snd blk sigOk peersOk seen) := event_trip rfl rfl
theorem replayHorizon (job : Nat) : Statement (.replayHorizon job) := event_trip rfl rfl
theorem partRead (snd : Sender) (pid : Nat) : Statement (.partRead snd pid) := event_trip rfl rfl
theorem coreOwnRead (snd : Sender) (core : Nat) : Statement (.coreOwnRead snd core) := event_trip rfl rfl
theorem rootsWriteS1 (snd : Sender) (pid : Nat) (s1 : W64) : Statement (.rootsWriteS1 snd pid s1) := event_trip rfl rfl
theorem rootsRead (snd : Sender) (pid : Nat) : Statement (.rootsRead snd pid) := event_trip rfl rfl
theorem tamlyCfgWrite (snd : Sender) (v : W64) : Statement (.tamlyCfgWrite snd v) := event_trip rfl rfl
theorem tamlyCfgRead (snd : Sender) : Statement (.tamlyCfgRead snd) := event_trip rfl rfl
theorem peerWrite (snd : Sender) (first : Nat) (vs : List W64) : Statement (.peerWrite snd first vs) := event_trip rfl rfl
theorem peerRead (snd : Sender) (first n : Nat) : Statement (.peerRead snd first n) := event_trip rfl rfl
theorem incset (snd : Sender) (v : W64) : Statement (.incset snd v) := event_trip rfl rfl
theorem endJob (snd : Sender) (pid job : Nat) : Statement (.endJob snd pid job) := event_trip rfl rfl
theorem scopeNormal (snd : Sender) : Statement (.scopeNormal snd) := event_trip rfl rfl
theorem scopeStrict (snd : Sender) : Statement (.scopeStrict snd) := event_trip rfl rfl
theorem imageRead (snd : Sender) (g : GKey) (off len : Nat) : Statement (.imageRead snd g off len) := event_trip rfl rfl
theorem imageWrite (snd : Sender) (g : GKey) (off : Nat) (data : List W64) : Statement (.imageWrite snd g off data) := event_trip rfl rfl
theorem debugStop (snd : Sender) (launch : Nat) (gid : Option Nat) : Statement (.debugStop snd launch gid) := event_trip rfl rfl
theorem skctlWrite (snd : Sender) (core : Nat) (v : W64) : Statement (.skctlWrite snd core v) := event_trip rfl rfl
theorem skctlRead (snd : Sender) (core : Nat) : Statement (.skctlRead snd core) := event_trip rfl rfl
theorem sketchRead (snd : Sender) (core : Option Nat) (key : W32) : Statement (.sketchRead snd core key) := event_trip rfl rfl
theorem logctlWrite (snd : Sender) (job : Nat) (v : W64) : Statement (.logctlWrite snd job v) := event_trip rfl rfl
theorem logctlRead (snd : Sender) (job : Nat) : Statement (.logctlRead snd job) := event_trip rfl rfl
theorem countRead (snd : Sender) (lvl h : Nat) : Statement (.countRead snd lvl h) := event_trip rfl rfl
theorem hostCancel (snd : Sender) (lvl h : Nat) : Statement (.hostCancel snd lvl h) := event_trip rfl rfl
theorem routerCount (snd : Sender) : Statement (.routerCount snd) := event_trip rfl rfl
theorem evselWrite (pid : Nat) (v : W64) : Statement (.evselWrite pid v) := event_trip rfl rfl
theorem unitError (u : UnitId) (corrected : Bool) : Statement (.unitError u corrected) := event_trip rfl rfl
theorem selfTestDone (u : UnitId) (pass : Bool) : Statement (.selfTestDone u pass) := event_trip rfl rfl
theorem clockHoldover : Statement .clockHoldover := event_trip rfl rfl
theorem powerCap (mhz : Nat) : Statement (.powerCap mhz) := event_trip rfl rfl
theorem sheetUnbind (sheet : Nat) : Statement (.sheetUnbind sheet) := event_trip rfl rfl
theorem portFailure (port : Nat) : Statement (.portFailure port) := event_trip rfl rfl
theorem ptpMasterHeard : Statement .ptpMasterHeard := event_trip rfl rfl
theorem powerCapLifted (mhz : Nat) : Statement (.powerCapLifted mhz) := event_trip rfl rfl

end RoundTrip

end Sys2Proof.Laws
end

