-- ==== Sys2Proof/Tests/Slice0.lean ====
section
/-!
SUPPORT. Tests: ill-formed terms, words written out from their encodings, small steps, and states that meet the hypotheses of the
statements.
-/

namespace Sys2Proof.Tests

open Sys2Proof Sys2Proof.Machine

/-! ## A small machine -/

/-- A launch of eight cells in two groups of four, with sixteen registers, tile, accumulators, a frame and a spill area. -/
def desc : Desc :=
  { Desc.zero with
    gx := 8, gy := 1, gz := 1, gw := 4, regs := 16, pex := 8, pey := 1, pez := 1, cmask := 1#16, tile := 4, accs := 8
    stash := 65536, spill := 128, entry := 0x10000#64, lcode := 0x20000#64, argp := 7#64, job := 1, hq := 1, hcnt := 1 }

def key : GKey := ⟨128, 0⟩
def pkey : PKey := ⟨128, 0⟩

/-- Registers s1, s2, … of the tests. -/
def regs : List W64 :=
  [0#64, 5#64, 0xFFFFFFFFFFFFFFFF#64, 0x8000000000000000#64, 0x46#64, 0x20000#64, 0x10004#64, 0x10002#64, 0x100000#64, 0x40#64]
    ++ List.replicate 54 0#64

def g : Group := { Group.start key 0 0 0 0 4 4 desc with s := regs, spill := 0x8000#20, k := 0xFFFFFFFF#32 :: 3#32 :: List.replicate 6 0#32 }

def parcel : Parcel :=
  { key := pkey, pid := 0, core := 0, base := 0, size := 65536, ngroups := 2, gmax := 2, prodGid := 0, home := 0, partial_ := [], cmds := []
    started := [], seq := 0, q1 := [9#64], lost := false, maps := List.replicate 16 none, mvalid := [], mdirty := [], mfill := []
    mbad := [], bfree := 0xFFFF#16 }

def launch : Launch :=
  { handle := 128, pid := 0, d := desc, st := .placed, order := 0, can := false, pinned := false, windows := 0#16, wgens := [], marks := [] }

def sheet : Prt := { pid := 0, bound := true, msize := 0xC000000000, quads := 4, quadsIn := 4, featAccept := 0xFF#256, acceptWritten := true }

def core : CoreRec := { core := 0, mode := 1, pids := 0 :: List.replicate 7 0x3FF }

/-- Page 0x20 of the sheet reaches device memory at its own address. -/
def page : Tlb := ⟨0, 0, 0x20, 0x20000, true, true, true⟩

def m : State :=
  { State.reset with
    g := g, parcels := [parcel], launches := [launch], prts := [sheet], cores := [core], tlb1 := [page], nextId := 10 }

def withS (n : Nat) (v : W64) : State := { m with g := { m.g with s := m.g.s.set n v } }
def withP0 (p : Path) : State := { m with g := { m.g with p0 := p } }

/-- A lane word's fields: unsigned, from v2 and v4 to v3. -/
def lf : LaneF :=
  { e := true, rnd := 0#3, sat := false, pinv := false, pk := 0#3, dest := 3#8, srcA := 4#14, srcB := 8#14, srcC := 0#14, ty := 9#5
    mod := 0#6, imm := 0#16 }

/-- The machine with a running clause of slot 0 that holds one lane word. -/
def running (w : W96) : State :=
  withP0 { m.g.p0 with cq := [{ addr := 0x20000, mask := 0xF#32, hdr := some ⟨0#12, true, 0#4, true, 1#4, 0#32, 0#32⟩, code := [w]
                                id := 1, running := true }] }

/-! ## WellFormed (01) -/

theorem test_wf_split : wfScalar (.split 0#3 1#1 0#14) = false := by decide
theorem test_wf_pany : wfScalar (.pany 1#6 1#1 0#3) = false := by decide
theorem test_wf_pall : wfScalar (.pall 1#6 1#1 0#3) = false := by decide
theorem test_wf_pcnt : wfScalar (.pcnt 1#6 1#1 0#3) = false := by decide
theorem test_wf_pmask : wfScalar (.pmask 1#6 1#1 0#3) = false := by decide
theorem test_wf_gets : wfScalar (.gets 1#6 17#6) = false := by decide
theorem test_wf_sets : wfScalar (.sets 1#6 6#6) = false := by decide
theorem test_wf_tkld : wfScalar (.tkld 1#6 2#6 0#6 0#2) = false ∧ wfScalar (.tkld 1#6 2#6 33#6 0#2) = false := by decide
theorem test_wf_waitp : wfScalar (.waitp 1#6 4#6) = false := by decide
theorem test_wf_scope : wfScalar (.fence 6#3) = false ∧ wfScalar (.pub 6#3) = false ∧ wfScalar (.acq 6#3) = false := by decide
theorem test_wf_illegal : wfScalar (.illegalEncoding 0#32) = false := by decide
theorem test_wf_event : wfScalar (.stepClose key) = false ∧ isEvent (.stepClose key) = true := by decide
theorem test_wf_fine : wfScalar (.add 1#6 2#6 3#6) = true ∧ wfScalar (.tkld 1#6 2#6 32#6 3#2) = true := by decide

/-! ## States that meet the hypotheses of the statements -/

def pathAt (pc : W64) (depth : Nat) : Path := { m.g.p0 with pc := pc, depth := depth }
/-- Two paths: slot 0 runs, slot 1 waits at `pc` with `depth`. -/
def two (pc : W64) (depth : Nat) : State :=
  { m with g := { m.g with p0 := { m.g.p0 with depth := 1, mask := 3#32 }
                           p1 := { occ := true, pc := pc, mask := 12#32, depth := depth, waiting := true, tag := 9 } } }

theorem wit_RegisterArithmeticGivesTheTableResult : Safety.settled m [3#6, 1#6, 2#6] ∧ rs m 0#6 = 0#64 ∧ rs m 1#6 = 5#64 ∧
    rs m 3#6 = 0x8000000000000000#64 ∧ rs m 2#6 = 0xFFFFFFFFFFFFFFFF#64 ∧
    (0xFFFFFFFFFFFFFFC5#64).extractLsb' 0 6 = (rs m 1#6).extractLsb' 0 6 := by decide
theorem wit_ImmediatesAndConstantsGiveTheTableResult : Safety.settled m [3#6, 1#6] ∧ (0x3FFF#14).extractLsb' 6 8 ≠ 0#8 := by decide
theorem wit_RegistersReadBackAndZeroStays : m.g.s.length = 64 ∧ (63#6 : SReg) ≠ 0#6 := by decide
theorem wit_BranchesCompareAndMove : Safety.settled m [1#6, 2#6] ∧ rs m 1#6 ≠ rs m 2#6 ∧ reconverged m = true ∧
    (let s : State := { two 0#64 1 with g := { (two 0#64 1).g with p0 := pathAt 4#64 1 } }
     Safety.settled s [1#6, 1#6] ∧ rs s 1#6 = rs s 1#6 ∧ (cur s).pc + 4#64 * (0x3FFF#14).signExtend 64 = 0#64 ∧ reconverged s = false) := by decide
theorem wit_JumpsLinkAndMove : Safety.settled m [62#6, 5#6] ∧ (rs m 5#6).toNat % 4 = 0 ∧ (rs m 1#6).toNat % 4 ≠ 0 ∧
    (cur m).pc + 4#64 * (1#26).signExtend 64 ≠ 0#64 ∧ reconverged m = true := by decide
theorem wit_SplitDividesThePath : (cur m).cq = [] ∧ pendingReg m 0x88 = false ∧ predMask m 0#3 1#1 = 0#32 ∧
    predMask m 0#3 0#1 = (cur m).mask ∧ predMask m 1#3 0#1 ≠ 0#32 ∧ predMask m 1#3 0#1 ≠ (cur m).mask ∧
    (pathOf m.g true).occ = false ∧ (cur (withP0 (pathAt 4#64 255))).depth = 255 ∧
    (let s := two 0x10000#64 1
     predMask s 1#3 1#1 = 0#32 ∧ (pathOf s.g true).occ = true ∧ (pathOf s.g true).cq = [] ∧ s.g.spillCnt < spillCap s.g ∧
     spillCap s.g ≤ ({ s with g := { s.g with spillCnt := 4 } } : State).g.spillCnt) := by decide
theorem wit_JoinMergesWaitsOrPasses : (cur m).cq = [] ∧ (cur m).depth = 0 ∧
    (let s := two 0x10000#64 1
     let w := pathOf s.g true
     (cur s).depth ≠ 0 ∧ w.occ = true ∧ w.waiting = true ∧ w.pc = (cur s).pc ∧ w.depth = (cur s).depth) ∧
    (let s := two 0x20000#64 2
     (cur s).depth ≠ 0 ∧ (pathOf s.g true).pc ≠ (cur s).pc ∧ indexWhere (meets (cur s)) (spillPaths s s.g) = none ∧
     otherDeep s (cur s).depth = true) ∧
    (let s := withP0 (pathAt 0x10000#64 1)
     indexWhere (meets (cur s)) (spillPaths s s.g) = none ∧ otherDeep s (cur s).depth = false) ∧
    (let s := spillPush (withP0 (pathAt 0x10000#64 1)) { pathAt 0x10000#64 1 with waiting := true }
     indexWhere (meets (cur s)) (spillPaths s s.g) = some 0) := by decide
theorem wit_PredicatesReduceOverTheMask : Safety.settled m [3#6] ∧ (cur m).cq = [] ∧ pendingReg m 0x8F = false ∧
    ¬((1#1 : BitVec 1) = 1#1 ∧ (7#3 : BitVec 3) = 0#3) ∧ (3#6 < (4#6 : BitVec 6)) := by decide
theorem wit_ClausesAreEnqueued : (cur m).cq.length < 8 ∧ Safety.settled m [1#6] ∧
    8 ≤ (cur (withP0 { m.g.p0 with cq := List.replicate 8 { addr := 0x20000, mask := 1#32 } })).cq.length := by decide
theorem wit_SpecialRegistersReadAndWrite : Safety.settled m [3#6] ∧ (cur m).cq = [] ∧ (rs m 1#6).toNat % 16 ≠ 0 ∧
    (rs m 8#6).toNat % 64 = 0 ∧ 2 ^ 20 ≤ (rs m 8#6).toNat ∧ (rs m 9#6).toNat % 64 = 0 ∧
    (rs m 9#6).toNat + m.g.d.spill ≤ 2 ^ 20 ∧ m.g.spillCnt = 0 ∧
    (two 0#64 1).g.spillCnt = 0 ∧ ({ m with g := { m.g with spillCnt := 1 } } : State).g.spillCnt ≠ 0 ∧ (16#6 : BitVec 6) ≠ 7#6 := by decide
theorem wit_ModeRegistersReadAndWrite : Safety.settled m [9#6] ∧ clausesDone m = true ∧
    ((rs m 9#6).extractLsb' 0 3).toNat = 0 ∧ ((rs m 1#6).extractLsb' 0 3).toNat = 5 ∧
    ((rs m 4#6).extractLsb' 0 3).toNat = 6 ∧ featOn m m.g.pid 3 = true ∧ featOn State.reset 0 3 = false := by decide

/-- What an operation fails with. -/
def failed {a b : Type} : Except a b → Option a
  | .error e => some e
  | .ok _ => none

/-- A register that names the stash, at offset 64. -/
def inStash : State := withS 1 (BitVec.ofNat 64 (stashWindow + 64))

def tick (st : TSt) : Ticket := { slice := 0, idx := 0, st := st, gen := 1, pid := 0, len := 16, data := List.replicate 16 7#8 }
/-- A ticket entry in a state, its ticket in s1, stash offset 128 in s2. -/
def ticketed (st : TSt) (pid : Nat) : State :=
  { m with tickets := [{ tick st with pid := pid, fault := some (.busErr, 4) }]
           g := { m.g with s := (m.g.s.set 1 ((ticketOf (tick st)).zeroExtend 64)).set 2 128#64 } }

def ctx (head tail cap : Nat) : QCtx :=
  { desc := 0x20000, slice := 170, base := 0x20040, cap := cap, esz := 1, head := head, tail := tail, pid := 0, core := 0
    binds := [], waiters := [] }
/-- The line of 0x20000 in its home slice, every word valid. -/
def cached : Line := ⟨170, 0x20000, 0xFFFFFFFF#32, 0#32, false, [], [false], 0⟩
/-- q4 bound to a queue of capacity 4, whose line the slice holds. -/
def bound (head tail : Nat) (popb pushb : List Nat) : State :=
  { m with qctxs := [ctx head tail 4], lines := [cached], g := setBind m.g 4 (some { desc := 0x20000, esz := 1, popb := popb, pushb := pushb }) }

theorem wit_ScalarLoadsIssueAndExtend : Safety.settled m [4#6, 5#6] ∧ Safety.settled inStash [1#6] ∧
    Safety.unwatched m [(0, .read, 0x20000, 4)] ∧ (rs m 5#6 + 8#64).toNat % 8 = 0 ∧ (rs m 6#6).toNat % 8 ≠ 0 ∧
    failed (locate m m.g 0x40 4 .read) = some (.pfRead, false) ∧ (locate m m.g 0x20000 4 .read).toOption = some (.dev 170, 0x20000) ∧
    (locate inStash inStash.g (rs inStash 1#6).toNat 8 .read).toOption = some (.stash, 64) ∧ Safety.room m .load (pathOfKind (.dev 170)) ∧
    Safety.room inStash .load (pathOfKind .stash) ∧ Safety.stashFull inStash 64 8 false := by decide
theorem wit_ScalarStoresIssueOrWriteTheStash : Memory.wf m.stash = true ∧ Memory.wf inStash.stash = true ∧ Safety.settled m [4#6, 5#6] ∧
    Safety.settled inStash [1#6, 2#6] ∧ Safety.unwatched m [(0, .write, 0x20000, 8)] ∧
    (locate m m.g 0x20000 8 .write).toOption = some (.dev 170, 0x20000) ∧
    (locate inStash inStash.g (rs inStash 1#6).toNat 8 .write).toOption = some (.stash, 64) ∧
    Safety.room m .store (pathOfKind (.dev 170)) ∧ Safety.room inStash .store (pathOfKind .stash) ∧
    Safety.stashFull inStash 64 8 true := by decide
theorem wit_ScalarAtomicsIssueOrChangeTheStash : Memory.wf m.stash = true ∧ Memory.wf inStash.stash = true ∧
    Safety.settled m [4#6, 5#6, 1#6] ∧ Safety.settled inStash [1#6, 2#6, 3#6] ∧ Safety.unwatched m [(0, .atomic, 0x20000, 8)] ∧
    (locate m m.g 0x20000 8 .atomic).toOption = some (.dev 170, 0x20000) ∧
    (locate inStash inStash.g (rs inStash 1#6).toNat 8 .atomic).toOption = some (.stash, 64) ∧
    Safety.room m .atomic (pathOfKind (.dev 170)) ∧ Safety.room inStash .atomic (pathOfKind .stash) ∧
    Safety.stashFull inStash 64 8 false := by decide
theorem wit_TicketWordsAndTheirChecks : 255 < 256 ∧ 1023 < 1024 ∧ 127 < 128 ∧
    checkTicket (ticketed .filled 0) (ticketOf (tick .filled)) = .ready ∧
    checkTicket (ticketed .fetching 0) (ticketOf (tick .fetching)) = .fetching ∧
    checkTicket (ticketed .faulted 0) (ticketOf (tick .faulted)) = .faulted .busErr 4 ∧
    checkTicket (ticketed .draining 0) (ticketOf (tick .draining)) = .stale ∧
    checkTicket (ticketed .filled 8) (ticketOf (tick .filled)) = .foreign := by decide
theorem wit_TicketsAreAllocatedRedeemedAndDropped :
    (Safety.settled m [1#6, 5#6] ∧ Safety.unwatched m [(0, .read, 0x20000, 16 * 32)] ∧ (rs m 5#6).toNat % 16 = 0 ∧ (rs m 6#6).toNat % 16 ≠ 0 ∧
      whereIs 0x20000 (16 * 32) = .outside ∧ Safety.room m .tkld 8#4 ∧ ticketRoom m 0 0 3 1 = true ∧ sliceIsolated m 0 = false ∧
      sliceIsolated { m with svc := { m.svc with testing := [(.slice 0, false)] } } 0 = true ∧
      ticketRoom { m with prts := [{ sheet with tk3q := 0 }] } 0 0 3 1 = false) ∧
    (let s := ticketed .filled 0
     Safety.settled s [3#6, 1#6, 2#6] ∧ (rs s 2#6).toNat % 128 = 0 ∧ checkTicket s ((rs s 1#6).truncate 32) = .ready ∧
     inAllot s s.g 128 16 = true ∧ Safety.room s .tkred redeemPaths ∧ sliceIsolated s 0 = false) ∧
    (let s := ticketed .fetching 0
     Safety.settled s [1#6, 2#6] ∧ (rs s 2#6).toNat % 128 = 0 ∧ checkTicket s ((rs s 1#6).truncate 32) = .fetching) ∧
    (let s := ticketed .draining 0
     Safety.settled s [3#6, 1#6, 2#6] ∧ checkTicket s ((rs s 1#6).truncate 32) = .stale) ∧
    (let s := ticketed .filled 8
     Safety.settled s [3#6, 1#6, 2#6] ∧ checkTicket s ((rs s 1#6).truncate 32) = .foreign) := by decide
theorem wit_SpeculativeWindowsOpenAndCommit : featOn m m.g.pid 2 = true ∧ Safety.settled m [1#6] ∧ (launchOf m m.g.key.launch).isSome ∧
    featOn State.reset State.reset.g.pid 2 = false ∧
    (let s := { m with launches := [{ launch with windows := 8#16 }], spec := [⟨128, 3, 0, 0x20000, 5#8⟩] }
     (launchOf s 128).map (fun l => l.windows.getLsbD 3) = some true ∧ s.spec.any (fun x => x.launch = 128 && x.win = 3 && x.slot < Nat.min 5 8)) := by
  decide
def loading : Op := { id := 3, g := key, slot := false, tag := 0, cls := .load, instr := .ldd 4#6 5#6 0#14, paths := 2#4 }
theorem wit_WaitsAndFencesGoOnWhenDrained : Safety.settled m [1#6] ∧ pathCount m m.g.key 3 ≤ (rs m 1#6).toNat ∧
    (let s := { m with ops := [loading] }
     Safety.settled s [0#6] ∧ (rs s 0#6).toNat < pathCount s s.g.key 1 ∧ s.ops.any (fun o => o.g = s.g.key && o.cls = .load && !o.returned)) ∧
    (∀ i < 12, m.g.flags.getD i 0 = 0) ∧ ({ m.g with flags := 1 :: List.replicate 11 0 } : Group).flags.getD 0 0 ≠ 0 ∧
    comingFlags m m.g { addr := 0x10000, mask := 1#32, hdr := some ⟨0#12, true, 3#4, false, 0#4, 0#32, 0#32⟩ } &&& 8#12 ≠ 0#12 ∧
    (cur m).cq = [] ∧ Safety.published m (.pub 5#3) 5 [0, 1, 2, 3] ∧ Safety.published m (.pub 0#3) 0 [1] ∧
    storesAccepted { m with ops := [{ loading with cls := .store, parts := [{ fa := 0x20000, kind := .dev 170, wr := true }] }] } m.g.key = false ∧
    (cur (running 0#96)).cq ≠ [] := by decide
set_option maxRecDepth 8000 in
theorem wit_StepsCloseAndEnter : m.g.handler = none ∧ m.g.park = none ∧ m.g.super = false ∧ (pathOf m.g (!m.slot)).occ = false ∧
    m.g.spillCnt = 0 ∧ clausesDone m = true ∧ m.g.isOpen = true ∧ (writeBack m .step).isNone ∧ (tellPeers m .step 5).isNone ∧ storesAccepted m m.g.key = true ∧
    mayEnter (closeStep m) (closeStep m).g = true ∧ Safety.settled m [1#6] ∧ cutOf m m.g.key.launch = none ∧
    (pathOf (two 0#64 1).g true).occ = true ∧ clausesDone (running 0#96) = false ∧
    (let s := { m with g := { m.g with isOpen := false, d := { m.g.d with bmask := 2#16 }, closedBy := [] } }
     s.g.isOpen = false ∧ mayEnter s s.g = false) := by decide
theorem wit_QueueRegistersPushAndPop : Safety.settled m [5#6] ∧ (2#3).toNat < 4 ∧ pushDrained m.g 4 = true ∧ (rs m 5#6).toNat % 64 = 0 ∧
    (rs m 6#6).toNat % 64 ≠ 0 ∧ bindOf m.g 4 = none ∧ (locate m m.g 0x20000 64 .read).toOption = some (.dev 170, 0x20000) ∧
    ctxOf m 0x20000 = none ∧ (ctxOf (bound 0 0 [] []) 0x20000).isSome ∧
    (let s := { m with mem := [⟨0x20000, 0x40#8⟩, ⟨0x20002, 2#8⟩, ⟨0x20008, 4#8⟩, ⟨0x2000C, 1#8⟩] }
     (s.qctxs.filter (fun q => q.slice = 170)).length < 256 ∧ (makeCtx s s.g 4 0x20000 0x20000).toOption.isSome) ∧
    (let s := bound 0 0 [] []
     Safety.settled s [1#6, 5#6] ∧ (bindOf s.g 4).map QBind.pushb = some [] ∧ (slicePush s (ctx 0 0 4) s.g s.slot 5).toOption.isSome ∧ ctxCount (ctx 0 0 4) = 0) ∧
    4 ≤ ctxCount (ctx 1 5 4) ∧ (slicePop (bound 1 5 [] []) (ctx 1 5 4) m.g false noLane).toOption.isSome ∧
    (bindOf (bound 0 0 [7] []).g 4).map QBind.popb = some [7] ∧
    (pushQ0 m m.g (rs m 1#6)).any (fun u => u.toOption.isSome) ∧
    (parcelOf m (parcelKey m.g)).map Parcel.q1 = some [9#64] ∧ m.g.key.gid = parcel.prodGid ∧ m.g.handler = none ∧
    ({ m.g with q2 := [4#64] } : Group).q2 = 4#64 :: [] ∧ m.g.q3 = [] := by decide
theorem wit_QueuePushThenPopGivesTheElement : let s := bound 0xFFFFFFFF 0xFFFFFFFF [] []
    let q := ctx 0xFFFFFFFF 0xFFFFFFFF 4
    Memory.wf s.mem = true ∧ ctxOf s q.desc = some q ∧ q.head < 2 ^ 32 ∧ q.tail = q.head ∧ 1 ≤ q.cap ∧ q.waiters = [] ∧
    7 < 2 ^ (8 * elemSize q.esz) ∧ (slicePush s q s.g s.slot 7).toOption.isSome ∧
    (elemAt s q q.tail .write).toOption.isSome ∧ (slicePush s q s.g s.slot 7).toOption.any (fun u =>
      !replayHolds u s.g.d.job 1 (fabricAddr u q.desc) s.g.key.launch s.g.key.gid noLane && !trcOn (prtOf s s.g.pid) && !trcOn (prtOf u s.g.pid) &&
      (recordedPop u { q with tail := 0 } s.g).isNone &&
      decide ((elemAt u { q with tail := 0 } q.head .read).toOption = (elemAt s q q.tail .write).toOption)) := by decide

def msg (queued : Bool) : Msg := ⟨pkey, 0, 0, 0, [], queued, none⟩
def replier : State := { m with g := { m.g with reply := some ⟨128, 1⟩ }, others := [{ g with key := ⟨128, 1⟩ }] }

theorem wit_ActiveMessagesLeaveAndReply : Safety.settled m [0#6, 9#6] ∧ parcelOf m ⟨m.g.key.launch, (rs m 5#6).toNat⟩ = none ∧
    parcelOf m ⟨m.g.key.launch, (rs m 0#6).toNat⟩ = some parcel ∧ (0 < m.g.d.hcnt ∧ m.g.d.hq ≠ 0 ∧ (32#6).toNat ≤ 32) ∧ ¬((33#6).toNat ≤ 32) ∧
    (rs m 9#6).toNat % 8 = 0 ∧ inAllot m m.g (rs m 9#6).toNat (8 * 32) = true ∧ (queuedFor m 0).length < 32 ∧
    32 ≤ (queuedFor { m with msgs := List.replicate 32 (msg true) } 0).length ∧ Safety.stashFull m (rs m 9#6).toNat (8 * 32) false ∧
    Safety.room m .amsg 2#4 ∧ m.g.reply = none ∧ replier.g.reply = some ⟨128, 1⟩ ∧
    (replier.msgs.find? (fun x => x.reply = some (⟨128, 1⟩, replier.g.key, replier.slot))).isNone ∧
    (getG replier ⟨128, 1⟩).map (fun h => decide (h.q3.length + 8 ≤ 16)) = some true ∧ inAllot replier replier.g 64 64 = true ∧
    Safety.stashFull replier 64 64 false ∧ Safety.room replier .amsg 2#4 := by decide

/-- A record with one launch counted on it, and none. -/
def recorded (out : Nat) : State := { m with recs := [⟨0, 0, 5, false, out, 0, 0, [0]⟩] }
/-- A launch descriptor: a grid of eight cells. -/
def blob : List (Nat × Nat × Nat) :=
  [(0, 4, 8), (4, 4, 1), (8, 4, 1), (12, 1, 4), (13, 1, 8), (56, 8, 0x10000), (132, 4, 4096)]
def described : State := blob.foldl (fun s x => writeNow s (0x20000 + x.1) (leBytes x.2.1 x.2.2)) m

set_option maxRecDepth 8000 in
theorem wit_WorkRecordsCountLaunches :
    Safety.settled m [1#6, 5#6] ∧ (recOf (recorded 1) 0 0 ((rs (recorded 1) 1#6).toNat % 2 ^ 32)).out ≠ 0 ∧
    (recOf (recorded 0) 0 0 5).out = 0 ∧ m.ops = [] ∧ (rs m 1#6).toNat % 64 ≠ 0 ∧ (rs m 5#6).toNat % 64 = 0 ∧
    liveLaunches m 0 < 1024 ∧ Safety.published m (.launch 1#6 5#6) 5 [0, 1, 2, 3] := by decide
theorem live_replicate (n : Nat) : liveLaunches { m with launches := List.replicate n launch } 0 = n := by
  simp [liveLaunches, launch, sheetOf]
theorem wit_WorkRecordsCountLaunches_full :
    1024 ≤ liveLaunches { m with launches := List.replicate 1024 launch } 0 := Nat.le_of_eq (live_replicate 1024).symm
set_option maxRecDepth 8000 in
theorem wit_WorkRecordsCountLaunches_descriptor :
    let s := publicationPoint m m.g 5
    let t := publicationPoint described described.g 5
    (readGen s s.g 0x20000 256).toOption.any (fun b => !(checkDesc s s.g.pid s.g.core b).toOption.isSome) = true ∧
    (readGen t t.g 0x20000 256).toOption.any (fun b => (checkDesc t t.g.pid t.g.core b).toOption.isSome) = true ∧
    descOp s (.launch 1#6 5#6) = none ∧ inStashWindow 0x20000 = false ∧ Safety.room s .halo 2#4 ∧
    (loadParts s s.g ((pieces 0x20000 256).map (fun p => (0x20000 + p.1, p.2)))).toOption.isSome := by decide

def frame : Frame := { cause := .align }
/-- What a continuation or supervisor state has set aside. -/
def kept : Park := { frame := frame, p0 := m.g.p0, p1 := { m.g.p1 with pc := 4#64 }, s := m.g.s, replay := [] }
def parked : State := { m with g := { m.g with park := some kept } }
def supervised : State := { m with g := { m.g with super := true, sup := some kept } }
def vectored : State := { m with prts := [{ sheet with trapcfg := 0x40003#64 }] }

theorem wit_SysFamilyStopsAndGoesOn : Safety.settled m [5#6] ∧ m.g.park = none ∧ (rs m 5#6).toNat % 4 = 0 ∧ (rs m 1#6).toNat % 4 ≠ 0 ∧
    parked.g.park = some kept ∧ m.g.super = false ∧ supervised.g.super = true ∧ supervised.g.stop = .running ∧ supervised.g.sup = some kept ∧
    supervised.g.image = none ∧ kept.frame.dfr = none ∧ kept.replay = [] ∧ kept.p0.pc.toNat % 4 = 0 ∧ kept.p1.pc.toNat % 4 = 0 ∧
    kept.p0.pc ≠ 0#64 ∧ kept.p1.pc ≠ 0#64 ∧ (two 0#64 1).g.p1.occ = true ∧ parked.g.contDone = none := by decide
theorem wit_TakingATrapEntersTheHandler : m.g.live = true ∧ m.g.stop = .running ∧ m.g.super = false ∧ canLand m = true ∧
    causeKind frame.cause = .trap ∧ vectorMode (prtOf m m.g.pid) = false ∧ canLand vectored = true ∧
    vectorMode (prtOf vectored vectored.g.pid) = true := by decide
theorem wit_APageFaultEntersTheContinuationOrWaits : canLand m = true ∧ causeKind Cause.pfRead = .serviceable ∧ m.g.cont = 0#64 ∧
    parked.g.park ≠ none ∧ canLand parked = true ∧
    (let s : State := { m with g := { m.g with cont := 4#64 } }
     s.g.live = true ∧ s.g.stop = .running ∧ s.g.super = false ∧ canLand s = true ∧ s.g.cont ≠ 0#64 ∧ s.g.park = none) := by decide
theorem wit_BarriersCountAndFlip : (1 : Nat) ≠ 0 ∧ 1 < (Bar.mk 2 2 false false false 0).pend ∧ 2 = (Bar.mk 2 2 false true false 0).pend ∧
    (Bar.mk 2 2 false false false 0).pend < 3 := by decide
/-- A barrier at offset 64 of the stash, its offset in s9. -/
def barred (b : Bar) : State := barWrite m 0 64 b
theorem wit_BarFamilyActsOnTheBarrier :
    (Memory.wf m.stash = true ∧ (Bar.mk 2 2 true true true 1023).pend < 2 ^ 32 ∧ (Bar.mk 2 2 true true true 1023).cause < 1024) ∧
    Safety.settled m [1#6, 9#6] ∧ (rs m 9#6).toNat % 16 = 0 ∧ (rs m 1#6).toNat % 16 ≠ 0 ∧ inAllot m m.g (rs m 9#6).toNat 16 = true ∧
    (rs m 5#6).toNat % 16 = 0 ∧ inAllot m m.g (rs m 5#6).toNat 16 = false ∧ 0 < (rs m 1#6).toNat ∧ (rs m 1#6).toNat < 2 ^ 32 ∧
    (rs m 0#6).toNat = 0 ∧ 2 ^ 32 ≤ (rs m 2#6).toNat ∧ (cur m).cq = [] ∧ pathCount m m.g.key 1 = 0 ∧ (barRead m 0 64).pend = 0 ∧
    (let s := barred ⟨2, 2, true, true, false, 0⟩
     let b := barRead s 0 64
     b.pend ≠ 0 ∧ b.pend + (rs s 1#6).toNat < 2 ^ 32 ∧ 2 ^ 32 ≤ b.pend + (rs s 2#6).toNat ∧ b.phase = (rs s 1#6).getLsbD 0 ∧
     b.phase ≠ (rs s 0#6).getLsbD 0 ∧ b.err = true) ∧
    (let b := barRead (barred ⟨2, 2, true, false, false, 0⟩) 0 64
     b.phase ≠ (rs m 0#6).getLsbD 0 ∧ b.err = false) ∧ parcelOf m (parcelKey m.g) = some parcel := by decide

def req (k : Nat) (a : Option RAns) : RReq := { kind := k, pkg := 0, g := some (key, (cur m).tag), root := 0, ans := a }
def asking (k : Nat) (a : Option RAns) : State := { m with net := { m.net with rreqs := [req k a] } }
/-- The loads of a scalar instruction have returned `data`. -/
def returned_ (i : Instr) (n data : Nat) : State :=
  { m with ops := [{ id := 3, g := key, slot := false, tag := 0, cls := .halo, instr := i
                     parts := [{ fa := 0x20000, size := n, kind := .dev 170, st := .done, res := data }] }] }
def loads_ (s : State) (i : Instr) : Bool := (descOp s i).any (fun o => o.parts.all (fun p => p.st == .done && p.err.isNone))
/-- A reduction descriptor: package 0 alone, add of f32, TIMEOUT 1; and a handle of slot 0. -/
def rdesc : Nat := 1 + 2 ^ (8 * 40)
def handle_ : Nat := 2 ^ 23
theorem wit_FabricFamilySendsAndWaits : featOn State.reset State.reset.g.pid 1 = false ∧
    (let s := withS 1 (BitVec.ofNat 64 (128 + 2 ^ 20 * 4))
     let c := rs s 1#6
     featOn s s.g.pid 1 = true ∧ Safety.settled s [5#6, 1#6] ∧
     Safety.unwatched s [(0, .read, stashWindow + 128, 16), (0, .write, 0x20000, 16)] ∧ c.toNat / 2 ^ 37 = 0 ∧ c.toNat % 2 ^ 20 = 128 ∧
     (rs s 5#6).toNat % 16 = 0 ∧ (rs s 6#6).toNat % 16 ≠ 0 ∧ inAllot s s.g 128 16 = true ∧ inAllot s s.g 64 16 = true ∧
     16 * (c.toNat / 2 ^ 20 % 2 ^ 16) = 64 ∧ 0x20000 + 16 ≤ stashWindow ∧ (segParts s s.g 128 0x20000 (segs 0x20000 16)).toOption.isSome ∧
     Safety.room s .rsta 4#4 ∧ Safety.stashFull s 128 16 false) ∧
    Safety.settled m [5#6, 6#6, 1#6] ∧ myReq (asking 0 (some (.handle 5))) 0 = some (req 0 (some (.handle 5))) ∧
    (locate m m.g 0x20050 4 .write).toOption = some (.dev 170, 0x20050) ∧ (locate m m.g 0x20054 44 .write).toOption = some (.dev 170, 0x20054) ∧
    Safety.room m .store (pathOfKind (.dev 170)) ∧ (rs m 5#6).toNat % 128 = 0 ∧ myReq m 0 = none ∧ myReq m 1 = none ∧ myReq m 2 = none ∧
    loads_ (returned_ (.fralloc 1#6 5#6) 80 rdesc) (.fralloc 1#6 5#6) = true ∧
    loads_ (returned_ (.frcontrib 1#6 5#6) 4 handle_) (.frcontrib 1#6 5#6) = true ∧
    loads_ (returned_ (.frcontribQ 1#6 5#6 2#6) 4 handle_) (.frcontribQ 1#6 5#6 2#6) = true ∧
    loads_ (returned_ (.frwait 1#6 5#6 2#6) 4 handle_) (.frwait 1#6 5#6 2#6) = true ∧
    (let r := rdescOf (leBytes 80 rdesc)
     r.rsvOk = true ∧ redOpOk r.op r.ty = true ∧ 0 < r.timeout ∧ r.timeout ≤ 1000000 ∧ r.parts.getLsbD (pkgNo m) = true ∧
     partNums r.parts = [0] ∧ rootOf r.parts = pkgNo m ∧ peerUp m 0 = true) ∧
    (hV (BitVec.ofNat 32 handle_) = true ∧ hRoot (BitVec.ofNat 32 handle_) = pkgNo m ∧ hV 0#32 = false ∧
     (rdescOf (leBytes 80 0)).timeout = 0 ∧ peerUp m 7 = false) ∧
    myReq (asking 1 (some .taken)) 1 = some (req 1 (some .taken)) ∧ myReq (asking 1 (some .late)) 1 = some (req 1 (some .late)) ∧
    myReq (asking 2 (some (.result 7 0 0#256))) 2 = some (req 2 (some (.result 7 0 0#256))) ∧
    myReq (asking 1 none) 1 = some (req 1 none) := by decide
theorem wit_FabricFamilySendsAndWaits_peers : (rs m 1#6).toNat % 128 ≠ 0 ∧ freeTag m 0 = some 0 ∧
    peerUp (setPeer m 7 3 1) 7 = true ∧ (7 : Nat) ≠ pkgNo m ∧
    myReq (asking 0 (some (.refused .fredNoslot))) 0 = some (req 0 (some (.refused .fredNoslot))) ∧
    findSlot { m with net := { m.net with slots := List.replicate 64 { st := 1, job := 9, cid := 9 } } } 1 1 = none := by decide +kernel
theorem wit_TileControlRegistersReadBack : (cur m).cq = [] ∧ Safety.settled m [1#6] ∧ m.g.tc.length = 16 := by decide

/-! Lane instructions -/

/-- A lane word written out field by field: opcode, E, rounding, sat, pinv, predicate, dest, sources, type, mod, imm. -/
def word (op : BitVec 10) (f : LaneF) : W96 :=
  op ++ (if f.e then 1#1 else 0#1) ++ f.rnd ++ (if f.sat then 1#1 else 0#1) ++ (if f.pinv then 1#1 else 0#1) ++ f.pk ++ f.dest ++ f.srcA
    ++ f.srcB ++ f.srcC ++ f.ty ++ f.mod ++ f.imm

def ent (w : W96) : CEnt :=
  { addr := 0x20000, mask := 0xF#32, hdr := some ⟨0#12, true, 0#4, true, 1#4, 0#32, 0#32⟩, code := [w], id := 1, running := true }
/-- Lane l of register r holds 8 l in v2, 0x20000 in v4, else 0. -/
def vregs : List W32 :=
  List.replicate 8 0#32 ++ [0#32, 8#32, 16#32, 24#32] ++ List.replicate 4 0#32 ++ List.replicate 4 0x20000#32 ++ List.replicate 44 0#32
def laneM (i : Instr) : State :=
  let s := running ((match laneParts i with
    | some (op, f) => word op f
    | none => 0#96))
  { s with g := { s.g with v := vregs, tc := (0x0000000603100000#64 :: List.replicate 15 0#64) } }
def inn (w : W96) (a b c : List Nat) : LaneIn := ⟨ent w, 0xF#32, [0, 1, 2, 3], a, b, c⟩
def as_ : List Nat := [0, 8, 16, 24]
def bs_ : List Nat := List.replicate 4 0x20000
def zs : List Nat := [0, 0, 0, 0]
def fst_ : LaneF := { lf with dest := 0xFF#8 }

theorem wit_PlainSourcesAreReadByLane : curEnt (laneM (.iadd lf)) = some (ent (word 0x000#10 lf)) ∧
    laneParts (.iadd lf) = some (0x000#10, lf) ∧ [lf.srcA, lf.srcB, lf.srcC].all (fun x => srcBearing x = 0 ∧ (srcCode x < 0x90 ∨ 0x97 < srcCode x)) = true ∧ lf.dest.toNat < 0x90 :=
  ⟨rfl, rfl, by decide, by decide⟩
theorem wit_reads_iadd : Safety.reads (laneM (.iadd lf)) (.iadd lf) (laneM (.iadd lf)) (inn (word 0x000#10 lf) as_ bs_ zs) := fun _ => rfl

/-- The left neighbour's v2. -/
def leftF : LaneF := { lf with srcA := 0x404#14 }
def leftM (op_ : Bool) (mode : BitVec 16) : State :=
  let s := laneM (.iadd leftF)
  { s with g := { s.g with isOpen := op_, d := { s.g.d with bmask := 4#16, bnd := mode } } }
/-- A second group, with a published copy of x0 under tag 0. -/
def second : Group := { g with key := ⟨128, 1⟩, t0 := some 0 :: List.replicate 31 none }
theorem wit_NeighbourReadsSeePublishedCopies :
    (∀ b m, curEnt (leftM b m) = some (ent (word 0x000#10 leftF))) ∧
    queueBad (leftM true 0#16).g (laneSpec (cxOf (leftM true 0#16).g (cur (leftM true 0#16)).gfmt) 0 leftF) 0 leftF = false ∧
    srcBearing leftF.srcA ≠ 0 ∧ (leftM false 4#16).g.isOpen = false ∧ (leftM true 4#16).g.isOpen = true ∧
    (let s := leftM true 4#16
     ((nbReads s.g (lanesOf (actMask s.g 0xF#32 leftF)) (srcTypes (laneSpec (cxOf s.g (cur s).gfmt) 0 leftF) leftF)).any
       (fun r => r.dst = .edge)) = true) ∧ m.g.step = 0 ∧
    (let s : State := { m with others := [second], g := { m.g with step := 1 } }
     s.g.step ≠ 0 ∧ parcelPkg s s.g.d (parcelOfCell s.g.d 4) = pkgNo s ∧ parcelOf s ⟨128, parcelOfCell s.g.d 4⟩ = some parcel ∧
     getG s ⟨128, groupOfCell s.g.d 4⟩ = some second ∧ tagOf second false 0 0 = some 0 ∧ tagOf second false 0 1 ≠ some 0) := by
  refine ⟨?_, ?_⟩
  · intro b m; rfl
  · decide
theorem wit_LandedResultsWriteTheDestination : let s := laneM (.iadd lf)
    (3 : Nat) < 0x80 ∧ 3 < s.g.d.regs ∧ [0, 1, 2, 3].Nodup ∧ (∀ l ∈ [0, 1, 2, 3], l < s.g.width) ∧ s.g.v.length = s.g.d.regs * s.g.width ∧
    s.g.live = true ∧ (cur s).occ = true ∧ (s.g.p0.tag = s.g.p1.tag → s.slot = false) := by decide
theorem wit_LandedResultsWriteTheDestination_array : cellsFrom 0 (laneM (.tzero lf)).g.tile = true ∧
    (∀ i ∈ [Instr.tzero lf, .tmovi lf, .tmovo lf, .tsum lf, .mma lf, .mdist lf, .ald lf, .adrain lf, .aclr lf, .mtopk lf],
      (laneParts i).isSome = true) ∧
    (let o : Op := { id := 3, g := key, slot := false, tag := 0, cls := .matrix, instr := .tmovi { lf with imm := 0#16 }, mask := 0xF#32
                     vals := [[1, 2, 3, 4]], tcs := List.replicate 16 (BitVec.ofNat 64 (15 * 2 ^ 33 + 31 * 2 ^ 24 + 2 ^ 20)) }
     let f : LaneF := { lf with imm := 0#16 }
     (∀ l ∈ lanesOf o.mask, l + immBits f 4 5 < (opTile o f 0).rows) ∧ movShape f (opTile o f 0) = true ∧ modBit f 16 = false ∧
     (match doMatrix (laneM o.instr) o with
      | some u => cellRead u.g.tile (rowAt (opTile o f 0) 2) 4 == 3
      | none => false) = true ∧ (∀ l ∈ lanesOf o.mask, l + immBits f 8 3 < 32) ∧
     (laneM o.instr).g.q2.length = 0) := by decide +kernel
theorem wit_LaneIntegerClassResults : 8 ≤ lf.ty.toNat ∧ lf.ty.toNat ≤ 15 ∧ (-(2 ^ 31 : Nat) : Int) - 1 < -(2 ^ 31 : Nat) ∧
    ((2 ^ 32 : Nat) : Int) - 1 < (2 ^ 32 : Nat) ∧ ((0 : Int) ≤ (2 ^ 32 : Nat) - 1) := by decide
theorem wit_reads_imad : Safety.reads (laneM (.imad lf)) (.imad lf) (laneM (.imad lf)) (inn (word 0x005#10 lf) as_ bs_ zs) := fun _ => rfl
def ff : LaneF := { lf with ty := 1#5 }
theorem wit_LaneFloatClassResults : Safety.reads (laneM (.fadd ff)) (.fadd ff) (laneM (.fadd ff)) (inn (word 0x040#10 ff) as_ bs_ zs) :=
  fun _ => rfl
theorem wit_LaneFloatClassResults_formats : fmtValid (narrowFmt (cur (laneM (.fdot4 ff))).gfmt (modBit ff 16)) = true := by decide
def nf : LaneF := { lf with ty := 4#5 }
theorem wit_LaneConvertClassResults : fmtValid (narrowFmt (cur (laneM (.cvtn nf))).gfmt (modBit nf 17)) = true ∧
    (cur (laneM (.cvtn nf))).gfmt.extractLsb' 32 2 ≠ 1#2 ∧ modBit { nf with mod := 4#6 } 18 = true ∧ modBit nf 18 = false ∧
    (BitVec.toNat 2#5 = 2 ∧ BitVec.toNat 12#5 ≠ 2 ∧ BitVec.toNat 12#5 ≠ 3) ∧ nf.dest.toNat < 0x90 ∧
    (curEnt (laneM (.cvtn nf))).isSome ∧ laneParts (.cvtn nf) ≠ none ∧ fmtValid (narrowFmt 0#64 false) = false ∧
    BitVec.toNat 4#5 = 4 ∧ modBits { nf with mod := 4#6 } 16 4 = 4 := by decide
theorem wit_reads_cvtn : Safety.reads (laneM (.cvtn nf)) (.cvtn nf) (laneM (.cvtn nf)) (inn (word 0x063#10 nf) as_ bs_ zs) := fun _ => rfl
theorem wit_LaneSpecialFunctionsIssueAndLand : captureFull (laneM (.sqrt ff)) = false ∧
    Safety.reads (laneM (.sqrt ff)) (.sqrt ff) (laneM (.sqrt ff)) (inn (word 0x077#10 ff) as_ bs_ zs) := ⟨by decide, fun _ => rfl⟩
theorem wit_LaneSpecialFunctionsIssueAndLand_operands : fmtDec fmtF32 0x7FC00000 = .nan false ∧ fmtDec fmtF32 0x7F800001 = .nan true ∧
    (match fmtDec fmtF32 0x40800000 with
     | .fin n m e _ => !n && xpow2 m e == some 2 && xint m e && magLt m e 128 0 && 0 < m
     | _ => false) = true ∧
    (match fmtDec fmtF32 0x43800000 with
     | .fin n m e _ => !n && !magLt m e 128 0 && !magLt m e 19 (-1)
     | _ => false) = true ∧
    (match fmtDec fmtF32 0xC3800000 with
     | .fin n m e _ => n && !magLt m e 150 0
     | _ => false) = true ∧
    (match fmtDec fmtF32 0x3F000000 with
     | .fin _ m e _ => !xint m e && xint (2 * m) e
     | _ => false) = true ∧
    (match fmtDec fmtF32 0x38000000 with
     | .fin _ m e _ => magLt m e 1 (-12)
     | _ => false) = true := by decide
theorem wit_LaneMemoryClassIssues : Safety.reads (laneM (.lld lf)) (.lld lf) (laneM (.lld lf)) (inn (word 0x080#10 lf) as_ bs_ zs) ∧
    Safety.reads (laneM (.lst fst_)) (.lst fst_) (laneM (.lst fst_)) (inn (word 0x081#10 fst_) as_ bs_ zs) ∧
    Safety.reads (laneM (.latom lf)) (.latom lf) (laneM (.latom lf)) (inn (word 0x082#10 lf) as_ bs_ zs) ∧
    Safety.reads (laneM (.ltkld lf)) (.ltkld lf) (laneM (.ltkld lf)) (inn (word 0x083#10 lf) as_ bs_ zs) ∧
    Safety.reads (laneM (.ltkred lf)) (.ltkred lf) (laneM (.ltkred lf)) (inn (word 0x084#10 lf) as_ bs_ zs) ∧
    Safety.reads (laneM (.lpref fst_)) (.lpref fst_) (laneM (.lpref fst_)) (inn (word 0x085#10 fst_) as_ bs_ zs) :=
  ⟨fun _ => rfl, fun _ => rfl, fun _ => rfl, fun _ => rfl, fun _ => rfl, fun _ => rfl⟩
theorem wit_LaneMemoryClassIssues_ready : let s := laneM (.lld lf)
    let at_ := [0, 1, 2, 3].map (fun l => (l, laneAddr lf 0 0 false 4 (as_.getD l 0) 0x20000))
    Safety.unwatched s (named .read 4 at_) ∧
    (lanesLocate s 4 4 .read at_).toOption = some ([0, 1, 2, 3].map (fun l => ⟨l, 0x20000 + 8 * l, .dev 170, 0x20000 + 8 * l⟩)) ∧
    Safety.room s .load 2#4 ∧ modBit fst_ 20 = false ∧ ticketFault 4 (as_.map (fun a => (a / 8, 0x20000 + a))) = none ∧
    Safety.room s .tkld 8#4 ∧ ticketWait s 0 0 0 4 = none ∧ (as_.map (fun a => BitVec.ofNat 32 a)).Nodup ∧
    checkTicket s 0#32 = .stale ∧ modBit { lf with mod := 1#6 } 16 = true := by decide
theorem wit_MatrixClassChecksAndIssues : captureFull (laneM (.tzero fst_)) = false ∧
    Safety.reads (laneM (.tzero fst_)) (.tzero fst_) (laneM (.tzero fst_)) (inn (word 0x0A2#10 fst_) as_ bs_ zs) ∧
    Safety.reads (laneM (.mma fst_)) (.mma fst_) (laneM (.mma fst_)) (inn (word 0x0A6#10 fst_) as_ bs_ zs) ∧
    Safety.reads (laneM (.tld fst_)) (.tld fst_) (laneM (.tld fst_)) (inn (word 0x0A0#10 fst_) as_ bs_ zs) ∧
    matCheck (laneM (.tzero fst_)).g [0, 1, 2, 3] { tiles := [tileNo (laneM (.tzero fst_)) fst_ 0], accs := [7], rows := 4 } = none :=
  ⟨by decide, fun _ => rfl, fun _ => rfl, fun _ => rfl, by decide⟩
theorem wit_MatrixClassChecksAndIssues_order : let g := (laneM (.mma lf)).g
    let t := tileOf 0x603100000#64
    (tileReserved t = false ∧ t.base + tileExtent t ≤ 1024 * g.d.tile) ∧ ¬(8 < g.d.accs) ∧ (t.ety ≠ 4) ∧
    fmtValid (fmtOf 0x0FFF#16) = false ∧ tileReserved (tileOf 0x700000#64) = true ∧ 256 < tileRB { t with cols := 128 } ∧
    ¬(3 + 1 < t.rows) ∧ (4 * Nat.min (31 + 1) (31 + 1) ≤ 256) ∧ 256 < 9 * Nat.min 32 32 := by decide
theorem wit_LaneGroupClassResults : (laneM (.xpub fst_)).g.isOpen = true ∧
    Safety.reads (laneM (.xpub fst_)) (.xpub fst_) (laneM (.xpub fst_)) (inn (word 0x0C0#10 fst_) as_ bs_ zs) ∧
    Safety.reads (laneM (.gred lf)) (.gred lf) (laneM (.gred lf)) (inn (word 0x0D6#10 lf) as_ bs_ zs) ∧
    Safety.reads (laneM (.rng lf)) (.rng lf) (laneM (.rng lf)) (inn (word 0x0D0#10 lf) as_ bs_ zs) ∧
    Safety.reads (laneM (.rseed fst_)) (.rseed fst_) (laneM (.rseed fst_)) (inn (word 0x0D1#10 fst_) as_ bs_ zs) ∧
    Safety.reads (laneM (.sample { ff with srcB := 0#14 })) (.sample { ff with srcB := 0#14 }) (laneM (.sample { ff with srcB := 0#14 }))
      (inn (word 0x0D2#10 { ff with srcB := 0#14 }) as_ zs zs) :=
  ⟨by decide, fun _ => rfl, fun _ => rfl, fun _ => rfl, fun _ => rfl, fun _ => rfl⟩
theorem wit_LaneGroupClassResults_sample : let s := laneM (.sample ff)
    rowFault s 64 4 = none ∧ Safety.stashFull s 64 16 false ∧
    Safety.unwatched s [(0, .read, stashWindow + 64, 16)] := by decide

/-! Events -/

def waits (w : Wait) : State := withP0 { m.g.p0 with wait := some w }
def val : MVal := ⟨0, 0, 128, 0, 4, 0, 1, 7#32⟩
theorem wit_StepEventsCloseAndEnter : atClose m key = false ∧ (getG (waits (.stepClose true)) key).isSome ∧ atClose (waits (.stepClose true)) key = true ∧
    m.g.live = true ∧
    (let s : State := { waits .stepEntry with g := { (waits .stepEntry).g with isOpen := false } }
     (getG s key).isSome ∧ s.g.isOpen = false ∧ mayEnter s s.g = true ∧ s.g.stop = .running ∧
     (pathOf s.g s.g.p1.occ).wait = some .stepEntry) ∧ m.g.isOpen = true ∧
    ({ m with anns := [⟨⟨128, 1⟩, 1, key⟩] } : State).anns[0]? = some ⟨⟨128, 1⟩, 1, key⟩ ∧ m.anns.length ≤ 0 ∧
    (({ m with margin := [val] } : State).margin.filter (fun x => x.slice = 0)).head? = some val ∧
    (m.margin.filter (fun x => x.slice = 0)).length ≤ 0 := by decide

/-- A clause of two words in memory: its header, which sets flag 0, and `iadd`; it waits to be decoded. -/
def header : W96 := 0x3FF#10 ++ 0#12 ++ 1#1 ++ 0#4 ++ 0#1 ++ 0#4 ++ 0#64
def codePage : Tlb := { page with x := true }
def clauseM (h w : W96) : State :=
  let s := writeNow (writeNow m 0x20000 (leBytes 12 h.toNat)) 0x2000C (leBytes 12 w.toNat)
  { s with g := { s.g with p0 := { s.g.p0 with cq := [{ addr := 0x20000, mask := 0xF#32 }] } } }
/-- The decoded clause, eligible since the first turn. -/
def eligibleM (since : Option Nat) : State :=
  withP0 { m.g.p0 with cq := [{ addr := 0x20000, mask := 0xF#32, hdr := some ⟨0#12, true, 0#4, false, 0#4, 0#32, 0#32⟩, since := since }] }
def okDec : Decoded → Nat
  | .ok _ _ => 1
  | .bad _ _ => 2
  | .fault _ _ => 3
def opM (o : Op) : State := { m with ops := [o] }
def opOfCls (c : OpCls) (i : Instr) : Op := { id := 3, g := key, slot := false, tag := 0, cls := c, instr := i }
theorem wit_ClauseEventsDecodeIssueAndComplete : active m.g = true ∧ (getG m key).isSome ∧
    (let s := clauseM header (word 0x000#10 lf)
     (cur s).cq = [{ addr := 0x20000, mask := 0xF#32 }] ∧ (cur s).occ = true ∧
     okDec (decodeClause s s.g (cur s) { addr := 0x20000, mask := 0xF#32 }) = 1 ∧
     okDec (decodeClause s s.g (cur s) { addr := 0x30000, mask := 0xF#32 }) = 3) ∧
    (let s := clauseM 0#96 0#96
     okDec (decodeClause s s.g (cur s) { addr := 0x20000, mask := 0xF#32 }) = 2) ∧
    (pathOf m.g false).occ = true ∧ 0 < Config.pipes ∧ pipeBusy m m.g.core 0 = false ∧ sliceHold m m.g = false ∧
    pipeBusy (running 0#96) m.g.core 0 = true ∧
    (let s := eligibleM (some 0)
     let e := (cur s).cq.headD { addr := 0, mask := 0#32 }
     e.running = false ∧ notEligible s s.g s.slot e = none ∧
     (winner s s.g.core 0).map (fun w => (w.key, w.slot)) = some (s.g.key, s.slot)) ∧ winner (eligibleM none) m.g.core 0 = none ∧
    (let s := opM (opOfCls .sfu (.sqrt ff))
     (opOf s 3).isSome ∧ (opOfCls .sfu (.sqrt ff)).returned = false) ∧
    (let o := { opOfCls .matrix (.tzero fst_) with tcs := (laneM (.tzero fst_)).g.tc, land := .lane fst_ }
     let s := opM o
     matTurn s o = true ∧ s.g.live = true ∧ s.g.key = o.g ∧ s.slot = o.slot ∧
     (doMatrix s o).any (fun t => t.g.live && decide (t.g.key = o.g ∧ t.slot = o.slot)) = true ∧
     matTurn { s with ops := [{ o with id := 2 }, o] } o = false) := by decide

def part (k : PKind) : Part := { ga := 0x20000, fa := 0x20000, size := 8, kind := k }
def accM (p : Part) : State := opM { opOfCls .load (.ldd 4#6 5#6 0#14) with parts := [p], land := .sreg 4#6 8 false }
def line (fill : Bool) : Line := ⟨170, 0x20000, 0#32, 0#32, fill, [(3, 0)], [false], 0⟩
theorem wit_AccessEventsPerformAndReturn :
    ([PKind.dev 170, .host 0, .peer 5, .stash, .ticket 0 0].all (fun k =>
      let s := accM (part k)
      match opOf s 3 with
      | some o => o.cls != .rsta && o.parts[0]? == some (part k) && !earlierTodo s o 0 (part k) && readyPart s o (part k) == some (part k)
      | none => false) = true) ∧
    lineOf { m with lines := [line true] } 170 0x20000 = some (line true) ∧ lineOf { m with lines := [line false] } 170 0x20000 = some (line false) ∧
    ([(PKind.host 0)].all (fun k => (part k).wr = false ∧ (part k).st = .todo ∧ ({ part k with st := .held } : Part).st = .held) = true) ∧
    replyAhead m 0 0 = false ∧
    pinnedAgainst { m with strict := true, narrow := [⟨9, 2, 0x20000, 1#8, [], 0⟩] } 0 0x20000 8 = true ∧ pinnedAgainst m 0 0x20000 8 = false ∧
    (let o := { opOfCls .load (.ldd 4#6 5#6 0#14) with parts := [{ part (.dev 170) with st := .done }], land := .sreg 4#6 8 false }
     let s := opM o
     opOf s 3 = some o ∧ o.returned = false ∧ s.g.live = true ∧ s.g.key = o.g ∧ s.slot = o.slot) ∧
    targetOf (part (.dev 170)) ≠ none ∧ targetOf (part .stash) = none ∧
    (let s : State := { m with svc := { m.svc with testing := [(.slice 170, false), (.channel 8 42, false)] } }
     sliceIsolated s 170 = true ∧ sliceIsolated s 0 = false ∧ chanTesting s 0x20000 = true ∧ chanTesting m 0x20000 = false) ∧
    ([part (.dev 170), part (.dev 170)].set 0 { part (.dev 170) with st := .done }).any (fun q => q.st != .done) = true := by decide
theorem wit_DeviceAccessesReadAndStoreTheirBytes : (opOf (accM (part (.dev 170))) 3).any (fun o => 0 < o.parts.length && o.aop.isNone) = true ∧
    (part (.dev 170)).spec = none ∧ (part (.dev 170)).wr = false ∧ poisoned (accM (part (.dev 170))) 0x20000 8 = none ∧
    ({ part (.dev 170) with wr := true } : Part).wr = true := by decide
def unp : Unpub := ⟨0, 0x20000, 9#8, [key]⟩
theorem wit_PublishedStoresAreSeenByEveryCore : let s : State := { m with unpub := [unp] }
    Memory.wf s.mem = true ∧ s.unpub.find? (fun u => u.core = 0 && u.addr = 0x20000) = some unp ∧ unp.writers.contains key = true ∧
    (s.unpub.all (fun x => !(x.addr = 0x20000) || x == unp) = true) ∧ (s.narrow.all (fun n => n.addr != 0x20000) = true) := by decide

/-- A ticket's fetch, its one part landed or not. -/
def fetching (p : Part) : State :=
  let s := ticketed .fetching 0
  { s with ops := [{ opOfCls .fetch (.tkld 1#6 5#6 1#6 0#2) with parts := [p], vals := [[0, 0]] }] }
def waiter : QWait := ⟨key, false, 0⟩
theorem wit_QueueAndTicketEventsGoOn :
    ((ticketed .filled 0).tickets.any (fun e => e.st = .filled) = true) ∧
    (let s := { m with tickets := [{ tick .filled with deadline := some 5 }] }
     (entryOf s 0 0).st = .filled ∧ (entryOf s 0 0).deadline = some 5 ∧ s.time < 5 ∧ 5 ≤ ({ s with time := 9 } : State).time ∧
     logOf s (jobOf s (entryOf s 0 0).g.launch) = none) ∧
    active m.g = true ∧ shortfall m.g 4 = 0 ∧ m.g.stop ≠ .ended ∧ ({ m.g with stop := .ended } : Group).stop = .ended ∧
    (let s : State := { waits (.queueEmpty 4) with qctxs := [{ ctx 0 1 4 with waiters := [waiter] }] }
     let s := { s with g := setBind s.g 4 (some { desc := 0x20000, esz := 1 }) }
     (ctxOf s 0x20000).any (fun q => popFirst s q == some waiter && ctxCount q != 0) = true ∧ s.svc.logs = [] ∧
     (getG s key).isSome ∧ active s.g = true ∧ popSlot s.g 0x20000 = some (false, 4)) ∧ ctxCount (ctx 0 0 4) = 0 ∧
    ({ m with msgs := [msg false] } : State).msgs[0]? = some (msg false) ∧ parcelOf m pkey = some parcel ∧
    32 ≤ (queuedFor { m with msgs := List.replicate 32 (msg true) } parcel.core).length ∧
    (queuedFor { m with msgs := [msg true] } parcel.core).head? = some (msg true) ∧ (msg true).p = pkey ∧
    cutPending m launch = false ∧ launch.st = .placed ∧ (launchOf m pkey.launch).isSome ∧ (freeQuads m parcel 1).length = 1 ∧ slotsFit m parcel.core 4 = true ∧
    (let s : State := { m with others := [{ g with key := ⟨7, 0⟩, width := 2048, resident := false, inPlace := true }] }
     slotsFit s parcel.core 4 = false ∧ slotsFit (makeRoom s parcel.core) parcel.core 4 = true) ∧
    (handlerEntry (writeNow m 0x20000 (leBytes 16 (0x10000 + 4 * 2 ^ 64))) parcel { desc with htab := 0x20000 } 0) = some (0x10000, 4) ∧
    (fetchOp (fetching (part (.dev 170))) 0 0).any (fun o => o.parts.any (fun p => p.st != .done)) = true ∧
    (fetchOp (fetching { part (.dev 170) with st := .done }) 0 0).any
      (fun o => o.parts.all (fun p => p.st == .done && p.err.isNone)) = true ∧
    (fetchOp (fetching { part (.dev 170) with st := .done, err := some (.busErr, 4) }) 0 0).any
      (fun o => o.parts.all (fun p => p.st == .done) && (o.parts.find? (fun p => p.err.isSome)).isSome) = true ∧
    coreRuns m parcel.pid parcel.core = true ∧ coreRuns { m with cores := [] } parcel.pid parcel.core = false ∧
    (let s := bound 1 5 [] [7]
     (bindOf s.g 4).isSome ∧ (ctxOf s 0x20000).isSome ∧ (slicePop s (ctx 1 5 4) s.g s.slot noLane).toOption.isSome ∧
     (bindOf s.g 4).map QBind.pushb = some [7]) ∧
    (slicePush (bound 0 0 [] [7]) (ctx 0 0 4) (bound 0 0 [] [7]).g false 7).toOption.isSome ∧
    (entryOf (ticketed .draining 0) 0 0).st = .draining ∧ (entryOf (fetching (part .stash)) 0 0).st = .fetching := by decide

/-- The group away from its core, able to enter; and a blocked one. -/
def away : State := { m with g := { m.g with resident := false } }
def stuck : State := { waits (.queueEmpty 2) with prts := [{ sheet with quads := 1, quadsIn := 1 }] }
def lean_ : Desc := { desc with hq := 0, tile := 0, accs := 0, spill := 0 }
/-- The group waits for an element of q2, and another that has never run could take its place. -/
def crowded : State :=
  { stuck with others := [{ g with key := ⟨128, 1⟩, resident := false, d := lean_ }]
               launches := [{ launch with d := lean_ }], g := { stuck.g with d := lean_ } }
def ended_ : State := withP0 { m.g.p0 with pc := 0#64 }
theorem wit_GroupEventsMoveGroups : active m.g = true ∧ (getG m key).isSome ∧ active away.g = false ∧ m.g.spillCnt = 0 ∧
    (let s := spillPush m (pathAt 4#64 1)
     s.g.spillCnt ≠ 0 ∧ s.g.p0.occ = true ∧ s.g.p1.occ = false) ∧
    (let s := spillPush (withP0 { m.g.p0 with occ := false }) (pathAt 4#64 1)
     s.g.spillCnt ≠ 0 ∧ s.g.p0.occ = false) ∧
    (pathOf m.g false).rot < 64 ∧
    (let s := spillPush (withP0 { m.g.p0 with rot := 64 }) (pathAt 4#64 1)
     64 ≤ (pathOf s.g false).rot ∧ (pathOf s.g false).occ = true ∧ (pathOf s.g false).cq = [] ∧ oldestReady s s.g = some 0) ∧
    mayEnd m m.g false = false ∧ mayEnd ended_ ended_.g false = true ∧ ended_.g.handler = none ∧
    (let s : State := { ended_ with g := { ended_.g with handler := some 0 } }
     mayEnd s s.g false = true ∧ s.g.handler ≠ none) ∧
    (entrantOf away parcel).any (fun g => g.key == key) = true ∧ (entrantIn away parcel).any (fun x => x.2.key == key) = true ∧
    entrantOf m parcel = none ∧ entrantIn m parcel = none ∧ handlerBack m parcel = none ∧ handlerBack away parcel = none ∧
    (groups m).all (fun g => !g.inPlace) = true ∧ needsRoom m parcel = false ∧
    launch.pinned = false ∧ evicting m pkey = false ∧
    evicting { m with g := { m.g with stop := .stopping frame, why := .evict } } pkey = true ∧
    ({ m.g with stop := .stopping frame } : Group).stop = .stopping frame ∧ canLand m = true ∧
    canLand (opM (opOfCls .store (.std 1#6 5#6 0#14))) = false := by decide
theorem wit_GroupEventsMoveGroups_room : needsRoom crowded parcel = true ∧ evicting crowded pkey = false := by decide
theorem wit_GroupEventsMoveGroups_evicted :
    (bestOf (blockedBefore crowded.time) ((parcelMembers crowded pkey).filter (evictable crowded))).isSome = true := by decide +kernel
def cmd (kind flags : Nat) (w3 : W64) : Cmd :=
  ⟨0, BitVec.ofNat 64 (kind * 2 ^ 56 + flags * 2 ^ 32 + 128), 0x20000#64, BitVec.ofNat 64 stashWindow, w3, 0⟩
/-- A multicast to parcel 0 alone, its landing announced to credit 0. -/
def castCmd : Cmd := cmd 6 1 (BitVec.ofNat 64 (2 ^ 16))
def commanded (c : Cmd) : State := { m with parcels := [{ parcel with cmds := [c] }] }
/-- A read or a write of the streamer, its part at `st`. -/
def engineM (vals : List (List Nat)) (st : PSt) : State :=
  opM { opOfCls .engine .nop with vals := vals, parts := [{ part (.dev 170) with st := st }] }
theorem wit_StreamerEventsRunCommands : coreRuns m 0 0 = true ∧ cmdMAP (cmd 1 0 0#64) = false ∧ cmdKind (cmd 1 0 0#64) ≠ 6 ∧
    cmdMAP (cmd 1 8 0#64) = true ∧ parcel.started = [] ∧ cmdMAP castCmd = false ∧ cmdKind castCmd = 6 ∧ receivers castCmd = [0] ∧
    (let s := commanded castCmd
     let p := { parcel with cmds := [castCmd] }
     parcelOf s pkey = some p ∧ castOk s p castCmd = true ∧ p.bfree.getLsbD (cmdArg castCmd 32 4) = true ∧
     (parcelOf (castBegin s p castCmd) pkey).isSome) ∧ (0#16).getLsbD 0 = false ∧
    (let x : Started := ⟨cmd 1 0 0#64, [], 0, none⟩
     let s : State := { m with parcels := [{ parcel with started := [x] }] }
     startedOf { parcel with started := [x] } 0 = some x ∧ (parcelOf s pkey).isSome ∧ 0 < landings x.cmd ∧ x.landed.contains 0 = false ∧
     x.paused = none ∧ landings x.cmd ≤ 1) ∧ parcel.mfill.contains 0 = false ∧
    (let s := engineM [[0, 8192, 0, 0]] .done
     ({ parcel with mfill := [0] } : Parcel).mfill.contains 0 = true ∧
     (fillOp s pkey 0).any (fun o => o.parts.all (fun q => q.st == .done) && !replyBehind s o) = true) ∧
    (fillOp (engineM [[0, 8192, 0, 0]] .todo) pkey 0).any (fun o => o.parts.any (fun q => q.st != .done)) = true ∧
    (engineOf (engineM [[0, 0, 0, 1]] .done) key [0, 0, 0, 1]).any (fun o =>
      o.parts.all (fun q => q.st == .done && q.err.isNone) && !replyBehind (engineM [[0, 0, 0, 1]] .done) o) = true ∧
    (engineOf (engineM [[0, 0, 0, 0]] .done) key [0, 0, 0, 1]).isNone ∧ (engineOf (engineM [[0, 0, 0, 0]] .done) key [0, 0, 0, 0]).isSome ∧
    (let x : Started := ⟨cmd 1 8 0#64, [], 0, none⟩
     [x].find? (fun x => cmdMAP x.cmd) = some x ∧ x.paused = none ∧ ({ x with paused := some (0, .pfWrite, 0x20000) } : Started).paused ≠ none) ∧
    (let c := cmd 1 8 0#64
     mapOp c = 0 ∧ parcel.maps.getD (mapEntry c) none = none ∧
     (List.range 16).all (fun i => (parcel.maps.getD i none).isNone) = true ∧
     overlaps (newEntry c) (newEntry c) = true ∧ (1 : Nat) ≠ mapEntry c) ∧
    castOk (commanded castCmd) { parcel with cmds := [castCmd], pid := 8 } { castCmd with w0 := 0#64 } = true ∧
    castOk { commanded castCmd with parcels := [] } parcel castCmd = false := by decide

/-- The package's neighbour 1 is up, and its port. -/
def up : State := { m with net := { m.net with peers := [(1, 3, 1)], domain := [1] } }
def pkt (kind dpkg : Nat) (rl : Bool) : Packet :=
  { kind := kind, rl := rl, spkg := 1, dpkg := dpkg, sinc := 3, dinc := if dpkg = 0 then 0 else 3 }
theorem wit_RouterEventsMovePackets : (hopPacket up (.port 1 (pkt 3 0 false))).isSome ∧ staleDrop up (pkt 3 0 false) = false ∧
    staleDrop up (pkt 13 0 false) = true ∧ staleDrop up (pkt 12 0 false) = false ∧ pkgNo up = 0 ∧ portUsed up 1 = true ∧
    staleDrop up (pkt 3 1 false) = false ∧ portPeer up 1 = 1 ∧ (pkt 3 1 false).hops + 1 + minHops (portPeer up 1) 1 ≤ 4 ∧
    4 < ({ pkt 3 1 false with hops := 4 } : Packet).hops + 1 + minHops (portPeer up 1) 1 ∧
    ((pkt 3 1 false).rowHops + 1 ≤ 2 ∧ 2 < ({ pkt 3 1 false with rowHops := 2 } : Packet).rowHops + 1 ∧ portPeer up 1 / 16 = 1 / 16 ∧
     portPeer up 1 % 16 = 1 % 16) ∧
    (let s : State := { up with net := { up.net with own := [pkt 12 0 false] } }
     hopPacket (releaseSteps s) .own = some (pkt 12 0 false) ∧ staleDrop (releaseSteps s) (pkt 12 0 false) = false) ∧
    (let s : State := { up with net := { up.net with relief := List.replicate 4 (1, pkt 3 1 true) } }
     4 ≤ (s.net.relief.filter (fun r => r.1 = 1)).length ∧ (up.net.relief.filter (fun r => r.1 = 1)).length < 4) ∧
    (pkgNo up < 1 ∧ peerUp up 1 = true ∧
     (List.range 32).find? (fun p => portUsed up p && portPeer up p = routeHop (pkgNo up) 1) = some 0) ∧ portUsed up 2 = false ∧
    (let s : State := { up with net := { up.net with bufs := [(1, pkt 3 0 false, 0)] }, time := 1000000 }
     s.net.bufs[0]? = some (1, pkt 3 0 false, 0) ∧ (pkt 3 0 false).sus = false ∧ 0 + 1000 * s.net.dto < s.time ∧
     ¬(0 + 1000 * s.net.dto < up.time)) ∧
    ((5#8 - up.net.epoch).toNat ≤ 128) ∧ 128 < (200#8 - up.net.epoch).toNat ∧ lowestUp up = true ∧
    up.net.tokenSeen + 128000 ≤ ({ up with time := 128000 } : State).time ∧ up.time < up.net.tokenSeen + 128000 ∧
    lowestUp { up with net := { up.net with row := 1 } } = false ∧ (1 : Nat) ≠ pkgNo up ∧ 4 ≠ (peerEnt up 1).1 ∧
    up.net.noticed.contains (1, 4) = false ∧ 3 = (peerEnt up 1).1 ∧
    (let k := { pkt 8 0 false with tsl := 2 }
     let s : State := { up with net := { up.net with window := [k] } }
     (((s.net.rxseq.find? (fun x => x.1 = 1 && x.2.1 = 2)).map (fun x => x.2.2)).getD 0 = 0) ∧
     s.net.window.find? (fun k => k.spkg = 1 && k.tsl = 2 && k.seq = 0) = some k ∧
     up.net.window.find? (fun k => k.spkg = 1 && k.tsl = 2 && k.seq = 0) = none) ∧
    (let s : State := { up with lines := [cached] }
     let k : Packet := { pkt 0 0 false with loc := 0x20000, args := 8 }
     k.loc + k.args % 2 ^ 16 ≤ 0xC000000000 ∧ isDoor s k.loc 8 = false ∧ sliceIsolated s (homeSlice k.loc) = false ∧
     pinnedAgainst s (peerCore k.spkg k.core) k.loc 8 = false ∧
     (ready s (ownerOf s k.loc) k.loc 8 false false).toOption.any (fun t => (poisoned t k.loc 8).isNone) = true ∧
     (performPeer s k).toOption.isSome ∧ k.args % 2 ^ 16 ≠ 0 ∧ k.kind < 7 ∧ unpinned s 1 170 = none ∧
     pinnedPacket { s with strict := true, narrow := [⟨9, 2, 0x20000, 1#8, [], 0⟩] } k = true ∧
     pinnedPacket s k = false ∧ (pinsOf s 1 170).length = 0 ∧
     unpinned { s with net := { s.net with pins := [{ k with tsl := 170 }] } } 1 170 = some { k with tsl := 170 }) ∧
    nextUp m = pkgNo m ∧ (pkt 7 0 false).kind = 7 := by
  decide

def tagged (st : Nat) : State := { up with net := { up.net with tags := [{ die := 0, tag := 5, st := st, gen := 2, op := 3, part := 0, peer := 1, since := 0 }] } }
def reply : Packet := { pkt 4 0 false with tag := 5, gen := 2 }
def answered (st : Nat) : State := { tagged st with net := { (tagged st).net with arrived := [reply] } }
/-- A remote store whose segment stands at `st`, on its way to `k`. -/
def sending (st : PSt) (k : PKind) : State :=
  { m with ops := [{ opOfCls .rsta (.rsta 5#6 1#6 0#8) with parts := [{ part k with size := 16, wr := true, st := st }], vals := [[64, 0]] }] }
def door (live : Bool) : Door := ⟨0x20000, 1, 128, 0, 1, live⟩
def doorAs : DoorRes → Nat
  | .counted _ => 1
  | .bad => 2
  | .hold => 3
def slotted (st d : Nat) : State := { m with net := { m.net with slots := { st := st, deadline := d, timeout := 1 } :: List.replicate 63 {} } }
def contribution : RReq := { kind := 1, pkg := 0, g := some (key, (cur m).tag), root := 0 }
theorem wit_FabricEventsCompleteRequests :
    (answered 1).net.arrived.contains reply = true ∧ up.net.arrived.contains reply = false ∧ (tagFor (answered 1) reply).isSome ∧
    (tagFor (answered 1) { reply with args := retryCode }).isSome ∧ reply.args ≠ retryCode ∧
    ({ answered 1 with net := { (answered 1).net with arrived := [{ reply with args := retryCode }] } } : State).net.arrived.contains { reply with args := retryCode } = true ∧
    tagFor (answered 2) reply = none ∧ (tagOfDie (tagged 1) 0 5).st = 1 ∧ (tagOfDie (tagged 2) 0 5).st = 2 ∧
    ({ tagged 1 with time := 100000 } : State).net.rto * 1000 ≤ 100000 ∧ up.time < 1000 * up.net.rto ∧
    (segTodo (sending .todo (.peer 1)) 3 0).isSome ∧ (segTodo (sending .todo (.dev 170)) 3 0).isSome ∧
    isDoor (sending .todo (.dev 170)) 0x20000 16 = false ∧ copyPending m 0x20000 16 = false ∧ pinnedAgainst m 0 0x20000 16 = false ∧
    (let s : State := { sending .todo (.dev 170) with lines := [cached] }
     (opOf s 3).any (fun o => !segLate s o && (ready s o.pid 0x20000 16 true true).toOption.isSome) = true ∧ sliceIsolated s 170 = false) ∧
    (opOf (sending .todo (.dev 170)) 3).any (fun o => segLate { m with time := 1000000 } { o with vals := [[64, 0, 0]] }) = true ∧
    (let s : State := { sending .todo (.dev 170) with doors := [door true] }
     isDoor s 0x20000 16 = true ∧ doorAs (doorSegment s 0x20000 16 5) = 1) ∧
    (let s : State := { sending .todo (.dev 170) with doors := [door false] }
     isDoor s 0x20000 16 = true ∧ doorAs (doorSegment s 0x20000 16 5) = 2) ∧
    (let s : State := { sending .todo (.dev 170) with doors := [door true], parcels := [] }
     doorAs (doorSegment s 0x20000 16 5) = 3) ∧
    ((opOf (sending .held (.dev 170)) 3).any (fun o => o.cls == .rsta && (o.parts[0]?).any (fun p => p.st == .held)) = true) ∧
    ((opOf (sending (.sent 0 5) (.peer 1)) 3).any (fun o => (o.parts[0]?).any (fun p => p.st == .sent 0 5)) = true) ∧
    (({ up with net := { up.net with arrived := [{ reply with kind := 7 }] } } : State).net.arrived.find?
      (fun k => k.kind = 7 && k.die = 0 && k.tag = 5)).isSome ∧
    contribution.root = pkgNo m ∧ contribution.ans = none ∧ (rootAnswer m contribution).isSome ∧ contribution.g ≠ none ∧
    (slotAt (slotted 1 0) 0).st = 1 ∧ (slotAt (slotted 1 0) 0).deadline ≤ m.time ∧ (slotAt (slotted 2 0) 0).st = 2 ∧
    m.time < (slotAt (slotted 1 5) 0).deadline ∧ (slotAt m 0).st = 0 := by decide

def at_ (st : LSt) : Launch := { launch with st := st }
def jobRec : CRec := ⟨0, 3, 1, false, 0, 0, 0, [0]⟩
def evrec (kind : Nat) (written : Bool) : EvRec := { seq := 4, kind := kind, g := some key, page := none, frame := frame, written := written }
def preq : PReq := { page := 0x20, stg := false, acc := .read, seq := 4, groups := [], rsv := false }
/-- A partition with a record of the event ring; its group waits for the host. -/
def ring (kind : Nat) (written : Bool) : State :=
  { m with prts := [{ sheet with recs := [evrec kind written], preqs := [preq] }], g := { m.g with stop := .hostWait frame } }
/-- Time-shared, one partition running or none. -/
def shared (r : Option Nat) (stopping : Bool) : State :=
  { m with cores := [{ core with mode := 2, running := r, stopping := stopping, sliceEnd := 5 }], prts := [{ sheet with weight := 16 }] }
theorem wit_WorkSliceAndRingEventsGoOn : (prtOf { m with prts := [{ sheet with lres := 0x4000000000000000#64 }] } 0).lres.getLsbD 62 = true ∧
    (prtOf m 0).lres.getLsbD 62 = false ∧
    (let s : State := { m with launches := [at_ .accepted] }
     launchOf s 128 = some (at_ .accepted) ∧ cutPending s (at_ .accepted) = false ∧ (at_ .accepted).d.start ≤ s.time ∧ (at_ .accepted).d.deps = []) ∧
    aheadOf m (at_ .released) = false ∧ mayEndLaunch m launch = false ∧
    mayEndLaunch { m with g := { m.g with stop := .ended } } launch = true ∧
    ({ m with recs := [jobRec] } : State).recs.find? (fun r => r.sheet = 0 && r.lvl = 3 && r.h = 1) = some jobRec ∧
    (coreOf (shared none false) 0).mode = 2 ∧ (coreOf (shared none false) 0).running = none ∧
    (let s := shared none false
     let r := coreOf s 0
     readyOuter s r = [0] ∧ r.top = none ∧ leastTime s Prt.vtime [0] = some 0 ∧ (topOf s r).map Prod.fst = some 0 ∧
     leastTime s Prt.vin ((membersOf 0 (listed r)).filter (fun p => runnable s p 0)) = some 0) ∧
    (let s := leaveCore (shared (some 0) false) 0 (fun _ => false)
     (coreOf s 0).running = some 0 ∧ (coreOf s 0).stopping = false ∧ s.time < (coreOf s 0).sliceEnd ∧ runnable s 0 0 = true ∧
     displaced s (coreOf s 0) 0 = false) ∧
    (let s := leaveCore (shared (some 0) true) 0 (fun _ => false)
     (coreOf s 0).stopping = true ∧ s.time < (coreOf s 0).stopAt + 1000 * (prtOf s 0).saveto) ∧
    (let s : State := { shared (some 0) true with time := 1000000 }
     let t := leaveCore s 0 (fun g => (coreOf s 0).leaveAt + 1000 * (prtOf s g.pid).saveto ≤ s.time)
     (coreOf t 0).running = some 0 ∧ (coreOf t 0).stopping = true ∧ (coreOf t 0).stopAt + 1000 * (prtOf t 0).saveto ≤ t.time) ∧
    recordOf m 0 4#32 = none ∧ recordOf (ring 1 true) 0 4#32 = some (evrec 1 true) ∧ entryFor (ring 1 true) 0 (evrec 1 true) = some preq ∧
    preq.groups = [] ∧ recordOf (ring 2 true) 0 4#32 = some (evrec 2 true) ∧ (stoppedGroup (ring 2 true) (evrec 2 true)).isSome ∧
    (prtOf (ring 2 false) 0).recs.find? (fun r => !r.written) = some (evrec 2 false) ∧
    (prtOf (ring 2 false) 0).evtail - (prtOf (ring 2 false) 0).evhead < (prtOf (ring 2 false) 0).evsize ∧
    (prtOf m 0).recs.find? (fun r => !r.written) = none ∧
    (({ m with tlb1 := [] } : State).tlb1.any (fun e => e.own = 0 && e.pid = 0 && e.page = 0x20000 / 4096) = false) ∧ m.g.live = true ∧
    m.g.core = 0 ∧ m.g.pid = 0 ∧ (m.tlb1.any (fun e => e.own = 0 && e.pid = 0 && e.page = 0x20000 / 4096 && permOk .read e.r e.w e.x) = true) := by
  decide

theorem wit_MailboxRequestsOnSettings : (0 : Nat) < 1024 ∧ fmSender .fmLd = true ∧ fmSender (.ld 0) = false ∧
    (0 < Config.cores ∧ (0#128).extractLsb' 88 40 = 0#40 ∧ (0#128).extractLsb' 0 2 ≠ 3#2) ∧ rootSender .fmLd 0 true = true ∧
    rootSender (.ld 1) 1 false = true ∧ pidOk 0 = true ∧ pidOk 5 = false ∧ ownSender (.ld 0) 0 = true ∧ ownSender .mgmt 0 = false ∧
    ((2 ^ 44 + 8 * 2 ^ 40 + 20 * 2 ^ 32 + 100) / 2 ^ 44 % 2 = 1) ∧ (100 : Nat) / 2 ^ 44 % 2 = 0 ∧ 10 ≤ 100 % 2 ^ 14 ∧
    (2#64 &&& 0xFFFF0000FFFF0000#64 = 0#64 ∧ 0x10000#64 &&& 0xFFFF0000FFFF0000#64 ≠ 0#64) ∧ formRes (.rsv .fmLd) 1 = some rangeRes ∧ formRes (.arg .mgmt) 0x0A = some rangeRes ∧ formRes (.arg .fmLd) 0x20 = some 3 ∧ formRes (.short .fmLd) 1 = some shortRes ∧ formRes .fmLd 1 = none ∧
    fmSender (.rsv .fmLd) = true ∧ boxBusy m .fmLd = false ∧ boxBusy (markBusy m .fmLd 1) .fmLd = true ∧
    (0#64).extractLsb' 32 32 = 0#32 ∧ (0xFFFF#64).extractLsb' 16 48 = 0#48 ∧ (0x10000#64).extractLsb' 16 48 ≠ 0#48 ∧ m.net.incSet = false ∧
    m.net.everUp = false ∧ ({ m.net with everUp := true } : Net).everUp = true ∧ recSheet { m with recs := [jobRec] } .fmLd 3 1 = some 0 ∧
    recSheet m .fmLd 3 1 = none ∧ recSender m (.ld 0) 3 1 = true := by decide

/-- A group that waits for the host, its image in the stash. -/
def imaged : State := { ring 2 true with g := { (ring 2 true).g with image := some (true, 0x4000, 64) } }
def logged (ctl : W64) (l : List LogRec) : State :=
  { m with recs := [jobRec], svc := { m.svc with logs := [{ job := 1, ctl := ctl, recs := l }] } }
theorem wit_HostActsOnAPartition : (imageFor imaged key 0 64).toOption.isSome ∧ failed (imageFor m key 0 64) = some busyRes ∧
    groupSender imaged (.ld 0) key = true ∧ (launchOf m 128).isSome ∧ launchOf m 5 = none ∧ obsSender (.ld 0) = true ∧ Config.cores ≤ 100000 ∧
    0 < Config.cores ∧ (2#64).getLsbD 1 = true ∧ (0#64).getLsbD 1 = false ∧
    (prtOf { m with prts := [{ sheet with carried := some ⟨[], 0, false, []⟩ }] } 0).carried = some ⟨[], 0, false, []⟩ ∧
    (logged 0#64 []).recs.any (fun r => r.lvl = 3 && r.h = 1) = true ∧ m.recs.any (fun r => r.lvl = 3 && r.h = 1) = false ∧
    jobSender (logged 0#64 []) (.ld 0) 1 = true ∧
    (let s := logged 0#64 []
     let l : JobLog := { job := 1 }
     logMode { l with ctl := logctlOf s 1 l.ctl 0#64 } = logMode l ∧ logMode { l with ctl := logctlOf s 1 l.ctl 1#64 } = 1 ∧
     logMode { l with ctl := logctlOf s 1 l.ctl 2#64 } = 2) ∧
    (logOf (logged 2#64 [⟨4, 0, 0, 0, 0, 0⟩]) 1).any atHorizon = true ∧ (logOf (logged 1#64 []) 1).any atHorizon = false ∧
    ((3 : Nat) < 128 ∧ (prtOf m 24).bound = false ∧ ({ m with fwOk := true } : State).fwOk = true ∧ (0x10000000 : Nat) % 2 ^ 28 = 0) ∧
    m.recs.any (fun r => r.sheet = 0 && r.lvl = 3) = false ∧ (prtOf m 8).acceptWritten = false ∧
    (1#256 &&& ~~~(prtOf m 8).featOffer = 0#256) ∧ (prtOf m 0).bound = true ∧ (prtOf m 0).mbase ≤ 0x20000 ∧
    0x20000 + 4 ≤ (prtOf m 0).mbase + (prtOf m 0).msize ∧ isDoor m 0x20000 4 = false ∧ copyPending m 0x20000 4 = false ∧
    pinnedAgainst m hostAgent 0x20000 4 = false ∧ (ready { m with lines := [cached] } 0 0x20000 4 true true).toOption.isSome ∧
    (ready { m with lines := [cached] } 0 0x20000 4 false true).toOption.isSome ∧ isDoor { m with doors := [door true] } 0x20000 4 = true ∧
    boxBusy m (.ld 0) = false ∧ boxBusy (markBusy m (.ld 0) 1) (.ld 0) = true ∧ knownCmd (0x0A#64).toNat = true ∧
    knownCmd (0x0B#64).toNat = false ∧ Sender.who .mgmt = .mgmt ∧ Sender.who .fmLd = .fmLd ∧ migrating m = [] ∧
    (0xFFFF#64 &&& 0xFF00000000000000#64 = 0#64) ∧ (1#64 &&& 0xFFFFFFFFFF000000#64 = 0#64) ∧ Memory.wf m.mem = true ∧
    (logged 0#64 []).recs.any (fun r => r.sheet = 0 && r.lvl = 3) = true ∧ sliceIsolated m (homeSlice 0x20000) = false := by decide
/-- The registers' places (22, R411): the legend's second word of an inset is its sheet's, 0x070 is not listed, WATCH1 at 0x188. -/
theorem test_register_space : let s : State := { m with holdover := true, prts := [{ sheet with featOffer := 0x10#256 <<< 64, trchead := 7#64 },
      { pid := 1, watch := [⟨0, 2, 0⟩, ⟨5, 12, 0x3000⟩] }] }
    readRegister s 1 8 = 0x10#64 ∧ readRegister s 1 0x70 = 0#64 ∧ readRegister s 0 0x110 = 7#64 ∧ readRegister s 1 0x110 = 0#64 ∧
    readRegister s 1 0x188 = 0xAC00000000003000#64 ∧ readFmRegister s 0x68 = BitVec.ofNat 64 (2 + b2n m.strict) ∧
    readFmRegister s 0x110 = 0#64 := by decide

/-- A job with a record and no launch; the host's reads reach page 0x20. -/
def job_ : State := { m with recs := [jobRec], launches := [], g := Group.nobody, parcels := [], tlb1 := [page, { page with own := Config.cores }] }
/-- A checkpoint request: job 1, one region, TMO 1,000, the list at 0x20000, room of 1 MiB for the image at 16 MiB. -/
def ckptBlock (migrate tmo : Nat) : BitVec 512 :=
  BitVec.ofNat 512 (1 + migrate * 2 ^ 128 + 2 ^ 136 + tmo * 2 ^ 160 + 0x20000 * 2 ^ 192 + 0x100000 * 2 ^ 256 + 0x1000000 * 2 ^ 64 * 2 ^ 256)
def ckpt (stage : Nat) (pending : List (Nat × List Nat)) : Ckpt :=
  { job := 1, sheet := 0, pid := 0, snd := .ld 0, migrate := false, stage := stage, since := 0, tmo := 1000, img := 0x1000000
    room := 0x100000, regions := [], closing := [], reached := [], pending := pending, held := [], cut := {}, dk := 0 }
def copying (stage : Nat) (pending : List (Nat × List Nat)) : State :=
  { job_ with svc := { job_.svc with ckpts := [ckpt stage pending], ctrs := [⟨0, 1, 0, [0, 0], 0, [0, 0], false, none⟩] } }
def img : Img :=
  { head := zeros 48, size := 69648, sheet := 0, pid := 0, job := 1, ctr := 0, cut := { packages := [0] }, counters := none
    legend := 0xFF#256, cores := sheetCores m 0 }
/-- A restore: from the image at 16 MiB, into job 5, one package, whose number stands at 0x20000. -/
def restoreBlock : BitVec 512 := BitVec.ofNat 512 (0x1000000 + 69648 * 2 ^ 64 + 5 * 2 ^ 160 + 0x20000 * 2 ^ 192)
def restoring : State := { copying 0 [] with svc := { (copying 0 []).svc with imgs := [img] } }
theorem wit_CheckpointsAreCutSealedAndRestored : boxBusy job_ (.ld 0) = false ∧ boxBusy (markBusy job_ (.ld 0) 0x20) (.ld 0) = true ∧
    recSender job_ (.ld 0) 3 (blk64 (ckptBlock 0 1000) 0 4) = true ∧ recSender job_ (.ld 1) 3 1 = false ∧ recSender job_ .fmLd 3 1 = true ∧
    (judgeCkpt job_ (.ld 0) (ckptBlock 0 1000) false).toOption.isSome ∧ (judgeCkpt job_ (.ld 0) (ckptBlock 1 1000) false).toOption.isSome ∧
    (judgeCkpt job_ (.ld 0) (ckptBlock 1 1000) true).toOption.isSome ∧ failed (judgeCkpt job_ (.ld 0) (ckptBlock 0 999) false) = some (3, 0) ∧
    failed (judgeCkpt job_ (.ld 0) (ckptBlock 0 1000) true) = some (3, 0) ∧ ctrOf job_ 0 1 = none ∧ (ctrOf (copying 0 []) 0 1).isSome ∧
    ((copying 0 []).svc.ckpts.find? (fun c => c.job = 1 && c.stage = 0 && cutReached (copying 0 []) c)).isSome ∧
    ((jobGroups (copying 0 []) 0 1).all (fun g => storesAccepted (copying 0 []) g.key) = true) ∧
    publishForCut (copying 0 []) (jobGroups (copying 0 []) 0 1) = none ∧ (allPages (copying 0 []) 0 .read (blockList [])).isSome ∧
    (let s : State := { m with parcels := [{ parcel with maps := [some ⟨0, 0x20000, 128⟩], mdirty := [0] }] }
     publishForCut s [m.g] ≠ none) ∧ (allPages job_ 0 .read [0x30000000]).isNone ∧
    job_.svc.ckpts.find? (fun c => c.job = 1 && c.stage = 0 && cutReached job_ c) = none ∧
    (({ copying 0 [] with time := 1000000 } : State).svc.ckpts.find? (fun c => c.job = 1 && c.stage = 0 && c.since + 1000 * c.tmo ≤ 1000000)).isSome ∧
    ((copying 1 []).svc.ckpts.find? (fun c => c.job = 1 && c.stage = 1)).any (fun c => c.pending = []) = true ∧
    (let s := copying 1 [(0x20000, [0x20000])]
     (s.svc.ckpts.find? (fun c => c.job = 1 && c.stage = 1)).any (fun c => (c.pending.find? (wanted s c)).isNone
       && c.pending.head? == some (0x20000, [0x20000])) = true ∧ poisoned s 0x20000 4096 = none ∧
     poisoned { s with memPoison := [0x20000] } 0x20000 4096 ≠ none) ∧
    ((copying 2 []).svc.ckpts.find? (fun c => c.job = 1 && (c.stage = 2 || c.stage = 3))).isSome ∧
    ((copying 3 []).svc.ckpts.find? (fun c => c.job = 1 && (c.stage = 2 || c.stage = 3))).isSome ∧ (copying 2 []).svc.sigs < 2 ^ 20 ∧
    2 ^ 20 ≤ ({ m.svc with sigs := 2 ^ 20 } : Svc).sigs ∧ (ctrOf (copying 3 []) 0 1).any (fun k => 2 ≤ k.cells.length + 0) ∧
    (⟨0, 1, 0, [2, 3], 0, [], false, none⟩ : JobCtr).cells.length + 1 < 2 := by decide +kernel
theorem wit_RestoreIsChecked : let r := blk64 restoreBlock
    let s := restoring
    featOn s 0 4 = true ∧ boxBusy s (.ld 0) = false ∧ imgPlace s (r 0 8) (r 8 8) = true ∧ ownSender (.ld 0) 0 = true ∧
    s.recs.any (fun x => x.sheet = 0 && x.lvl = 3 && x.h = r 20 4) = false ∧ s.recs.any (fun x => x.sheet = 0 && x.lvl = 3 && x.h = 1) = true ∧
    (readGen s (hostReader 0) (r 24 8) (r 32 1 + 1)).toOption = some [0#8] ∧ imageAt s (.ld 0) (r 0 8) (r 8 8) [0#8] = img ∧
    img.size ≤ r 8 8 ∧ blk64 (BitVec.ofNat 512 0x1000000) 8 8 < img.size ∧ judgeRestore s img 0 1 true true true [] = 0 ∧
    judgeRestore s img 0 1 false true true [] ≠ 0 ∧ readCtr s 0 1 [] = some img.ctr ∧ readCtr m 0 1 [7] = none ∧
    (∃ c, readCtr m 0 1 [7, 7] = some c ∧ c ≠ img.ctr) ∧
    (allPages s 0 .write (img.cut.blocks.map (fun b => b.1))).isSome ∧ ownPart s [0#8] = some 0 ∧ (restoreJob s img 0 5).isSome ∧
    (1 = img.cut.packages.length ∧ sheetCores s 0 = img.cores ∧ img.cut.launches = [] ∧ (prtOf s 0).featAccept = img.legend) := by
  refine ⟨by decide +kernel, by decide +kernel, by decide +kernel, by decide +kernel, by decide +kernel, by decide +kernel, by decide +kernel,
    by decide +kernel, by decide +kernel, by decide +kernel, by decide +kernel, by decide +kernel, by decide +kernel, by decide +kernel,
    ⟨7, by decide +kernel, by decide +kernel⟩, by decide +kernel, by decide +kernel, by decide +kernel, by decide +kernel⟩

def lane00 : UnitId := .lane 0 0
def tested (second : Bool) : State := { m with svc := { m.svc with testing := [(lane00, second)] } }
theorem wit_UnitsStartUpAndResets : testingOf m lane00 = none ∧ testingOf (tested false) lane00 = some false ∧
    testingOf (tested true) lane00 = some true ∧ (takeSpare m.svc.coreSpares 0).isSome ∧ takeSpare [0, 8, 8, 8] 0 = none ∧ m.started = false ∧
    ({ m with started := true } : State).started = true ∧ m.fwOk = false ∧ ({ m with fwOk := true } : State).fwOk = true ∧
    (1500 % 100 = 0 ∧ 0 < 1500 ∧ 1500 < m.mhz) ∧ 1601 % 100 ≠ 0 ∧ (({ m with mhz := 1000 } : State).mhz < 1600) ∧
    ({ m with powered := false } : State).agenda = [] ∧ (1 : Nat) ≠ pkgNo m ∧ unstopped (overheat m) ≠ [] ∧
    unstopped (overheat State.reset) = [] ∧ ({ m.svc with fwBad := true } : Svc).fwBad = true ∧ m.svc.fwBad = false ∧
    (let s := { m with lines := [{ slice := 170, addr := 0x20000, valid := 1#32, dirty := 1#32, fill := false, held := [], ways := [true], pid := 0 }]
                       svc := { m.svc with testing := [(.slice 170, false), (.channel (stackOf 0x20000) (stackAddr 0x20000 / 256 % 64), false)] } }
     s.lines.any (fun l => l.slice = 170 && l.dirty != 0#32 && chanTesting s l.addr) = true ∧ testingOf s (.slice 170) = some false) := by decide

def turned (t : Turn) : State := { m with agenda := [t] }
/-- `add 3, 1, 2` stands at the path's PC, in device memory. -/
def fetched : State :=
  { writeNow (turned (.scalar key false)) 0x20000 (leBytes 4 0x00304200) with
    g := { m.g with p0 := { m.g.p0 with pc := 0x20000#64, due := some 0 } } }
theorem wit_StepRunsTheDecodedInstruction : fetched.agenda = .scalar key false :: [] ∧ fetched.powered = true ∧
    (let u0 : State := { fetched with agenda := [] }
     let u := takeUnit (focusOn u0 key false)
     (getG u0 key).isSome ∧ mayRun u0 u0.g false = true ∧ (pathOf u0.g false).wait = none ∧ scalarWins u0 u0.g false = true ∧
     scalarWins m m.g false = false ∧ (fetchBytes u u.g (cur u).pc.toNat 4).toOption = some [0x00#8, 0x42#8, 0x30#8, 0x00#8] ∧
     Safety.settled u [3#6, 1#6, 2#6]) ∧ mayRun away away.g false = false ∧ failed (fetchBytes m m.g 0x10000 4) = some (.pfFetch, false) ∧
    (laneM (.iadd lf)).powered = true ∧ ((curEnt (laneM (.iadd lf))).any (fun e => (e.code[e.idx]?).isSome) = true) ∧
    (match decodeLane 0#96 with
     | .ok _ => 1
     | .error _ => 0) = 1 ∧ active (laneM (.iadd lf)).g = true ∧ (turned (.act .nop)).agenda = .act .nop :: [] ∧
    (turned (.tick 5)).agenda = .tick 5 :: [] ∧ m.agenda = [] ∧ m.powered = true ∧ (Instr.nop ≠ .powerOn) := by decide
theorem wit_StepRunsTheDecodedInstruction_decode : decode [0x00#8, 0x42#8, 0x30#8, 0x00#8] = some (.add 3#6 1#6 2#6) := by decide
theorem wit_StepRunsTheDecodedInstruction_bad :
    (match decodeLane (word 0x0FF#10 lf) with
     | .ok _ => none
     | .error c => some c) = some .illLane := by decide
theorem wit_DecodeAndEncodeAgree : wfScalar (.add 3#6 1#6 2#6) = true ∧ laneParts (.iadd lf) = some (0x000#10, lf) ∧
    (decodeLane (word 0x000#10 lf)).toOption = some (.iadd lf) := by decide
/-- The invariant at a state with a group, memory and a queue. -/
theorem wit_EveryStepKeepsTheMachineWhole : Memory.wf fetched.mem = true ∧ Memory.wf fetched.stash = true ∧ fetched.g.s.length = 64 ∧
    fetched.g.park = none ∧ fetched.g.sup = none ∧ fetched.others = [] ∧ fetched.svc.ckpts = [] ∧ fetched.svc.imgs = [] := by decide
theorem wit_EveryStepKeepsTheMachineWhole_inv : Safety.inv fetched := by
  have h := wit_EveryStepKeepsTheMachineWhole
  refine ⟨h.1, h.2.1, ⟨h.2.2.1, ?_, ?_⟩, ?_, ?_, ?_⟩
  · simp [h.2.2.2.1]
  · simp [h.2.2.2.2.1]
  · simp [h.2.2.2.2.2.1]
  · simp [h.2.2.2.2.2.2.1]
  · simp [h.2.2.2.2.2.2.2]

/-! ## Words written out from the encodings of 01 -/

/-- R16's own word: addi s4, s0, 12. -/
theorem test_word_addi : decodeScalar 0x0440000C#32 = .addi 4#6 0#6 12#14 := by decide
/-- R16's own word: bne s5, s6, three words back. -/
theorem test_word_bne : decodeScalar 0x4451BFFD#32 = .bne 5#6 6#6 0x3FFD#14 := by decide
/-- R16's own word: sys nop. -/
theorem test_word_nop : decodeScalar 0xE0000500#32 = .nop := by decide
/-- R16: the all-zero word. -/
theorem test_word_zero : decodeScalar 0x00000000#32 = .add 0#6 0#6 0#6 := by decide
/-- op 0x00, sb 0, fn 22. -/
theorem test_word_clz : decodeScalar 0x00304016#32 = .clz 3#6 1#6 := by decide
/-- op 0x0C, sd 3, quarter 2. -/
theorem test_word_movk : decodeScalar 0x3032ABCD#32 = .movk 3#6 2#2 0xABCD#16 := by decide
/-- op 0x18, sd 1, sa 2. -/
theorem test_word_jmpr : decodeScalar 0x60108000#32 = .jmpr 1#6 2#6 := by decide
/-- op 0x1A, off26 zero. -/
theorem test_word_join : decodeScalar 0x68000000#32 = .join := by decide
/-- op 0x1B, sub 2, invert, k2. -/
theorem test_word_pcnt : decodeScalar 0x6C30020A#32 = .pcnt 3#6 1#1 2#3 := by decide
/-- op 0x1D, sa 7. -/
theorem test_word_clsr : decodeScalar 0x7401C000#32 = .clsr 7#6 := by decide
/-- op 0x1E, sub 1, w 3. -/
theorem test_word_spslot : decodeScalar 0x78010103#32 = .spslot 4#6 3#4 := by decide
/-- op 0x27. -/
theorem test_word_stb : decodeScalar 0x9C310001#32 = .stb 3#6 4#6 1#14 := by decide
/-- op 0x2F, sa 5. -/
theorem test_word_tkdrop : decodeScalar 0xBC014000#32 = .tkdrop 5#6 := by decide
/-- op 0x31, mask f11 and f0. -/
theorem test_word_waitf : decodeScalar 0xC4000801#32 = .waitf 0x801#12 := by decide
/-- op 0x32, scope 5. -/
theorem test_word_fence : decodeScalar 0xC8000005#32 = .fence 5#3 := by decide
/-- op 0x33, sub 1, scope 3. -/
theorem test_word_acq : decodeScalar 0xCC000103#32 = .acq 3#3 := by decide
/-- op 0x34, sub 1, sd 9. -/
theorem test_word_stepq : decodeScalar 0xD0900100#32 = .stepq 9#6 := by decide
/-- op 0x36, h 3, len / 8 = 32. -/
theorem test_word_amsg : decodeScalar 0xD8108320#32 = .amsg 1#6 2#6 3#6 32#6 := by decide
/-- op 0x37, sub 0. -/
theorem test_word_launch : decodeScalar 0xDC108000#32 = .launch 1#6 2#6 := by decide
/-- op 0x39, off26 zero. -/
theorem test_word_rett : decodeScalar 0xE4000000#32 = .rett := by decide
/-- op 0x3A, sub 2. -/
theorem test_word_barrive : decodeScalar 0xE8018200#32 = .barrive 6#6 := by decide
/-- op 0x3C, sub 3. -/
theorem test_word_getfmt : decodeScalar 0xF0400300#32 = .getfmt 4#6 := by decide
/-- op 0x3D, sub 0, imm8 7. -/
theorem test_word_rsta : decodeScalar 0xF4108007#32 = .rsta 1#6 2#6 7#8 := by decide
/-- op 0x0D is reserved. -/
theorem test_illegal_reserved : decodeScalar 0x34000000#32 = .illegalEncoding 0x34000000#32 := by decide
/-- SALU stops at fn 24. -/
theorem test_illegal_fn : decodeScalar 0x00000019#32 = .illegalEncoding 0x00000019#32 := by decide
/-- clz with sb 1. -/
theorem test_illegal_clz_sb : decodeScalar 0x00304116#32 = .illegalEncoding 0x00304116#32 := by decide
/-- scope 6. -/
theorem test_illegal_scope : decodeScalar 0xC8000006#32 = .illegalEncoding 0xC8000006#32 := by decide
/-- join with off26 1. -/
theorem test_illegal_join_off : decodeScalar 0x68000001#32 = .illegalEncoding 0x68000001#32 := by decide
/-- sync stops at sub 1. -/
theorem test_illegal_sub : decodeScalar 0xCC000200#32 = .illegalEncoding 0xCC000200#32 := by decide

/-- A lane instruction, or the cause of a word that is none. -/
def laneWord (w : W96) : Option (Instr ⊕ Cause) :=
  match decodeLane w with
  | .ok i => some (.inl i)
  | .error c => some (.inr c)
theorem test_lane_iadd : laneWord 0x002000600200100002400000#96 = some (.inl (.iadd lf)) := by decide
theorem test_lane_fadd : laneWord 0x102E00600200100000400000#96 = some (.inl (.fadd { lf with ty := 1#5, rnd := 3#3, sat := true })) := by decide
theorem test_lane_cvtif : laneWord 0x182000600200000000490000#96 = some (.inl (.cvtif { lf with ty := 1#5, srcB := 0#14, mod := 9#6 })) := by decide
theorem test_lane_sqrt : laneWord 0x1DE1A0600200000000800000#96 = some (.inl (.sqrt { lf with ty := 2#5, srcB := 0#14, pinv := true, pk := 5#3 })) := by decide
theorem test_lane_lld : laneWord 0x20000060020010000240FFFC#96 = some (.inl (.lld { lf with imm := 0xFFFC#16, e := false })) := by decide
theorem test_lane_mtopk : laneWord 0x2AE01FE002000000027F0000#96 = some (.inl (.mtopk { lf with dest := 0xFF#8, srcB := 0#14, mod := 0x3F#6 })) := by decide
theorem test_lane_nbvalid : laneWord 0x306000600000000002400000#96 = some (.inl (.nbvalid { lf with srcA := 0#14, srcB := 0#14 })) := by decide
theorem test_lane_gscan : laneWord 0x35E000718080000002480000#96 = some (.inl (.gscan { lf with srcA := 0x2301#14, srcB := 0#14, mod := 8#6 })) := by decide
theorem test_lane_header : laneWord 0xFFE000600200100002400000#96 = some (.inr .illHdr) := by decide
theorem test_lane_gap : laneWord 0x06E000600200100002400000#96 = some (.inr .illLane) := by decide
theorem test_lane_last : laneWord 0x362000600200100002400000#96 = some (.inr .illLane) := by decide

/-! Lane terms that the decode checks of 01, R18-R23 refuse. -/

theorem test_wf_lane_fine : wfLane (cxOf g 0#64) (.iadd lf) = true := by decide
theorem test_wf_lane_type : laneCheck (cxOf g 0#64) (.iadd { lf with ty := 5#5 }) = some .illLane := by decide
theorem test_wf_lane_rnd : laneCheck (cxOf g 0#64) (.fadd { lf with ty := 1#5, rnd := 7#3 }) = some .illRnd := by decide
theorem test_wf_xpub_rnd : laneCheck (cxOf g 0#64) (.xpub { lf with ty := 9#5, dest := 0xFF#8, rnd := 7#3 }) = some .illLane := by decide
theorem test_wf_lane_pinv : laneCheck (cxOf g 0#64) (.iadd { lf with pinv := true }) = some .illLane := by decide
theorem test_wf_lane_mod : laneCheck (cxOf g 0#64) (.iadd { lf with mod := 1#6 }) = some .illLane := by decide
theorem test_wf_lane_dest : laneCheck (cxOf g 0#64) (.iadd { lf with dest := 16#8 }) = some .illOpnd := by decide
theorem test_wf_lane_src : laneCheck (cxOf g 0#64) (.iadd { lf with srcA := 32#14 }) = some .illOpnd := by decide

/-! ## Single steps, their results worked out from the tables by hand -/

def reg (r : Res) (n : SReg) : Option W64 :=
  match r with
  | .next t => some (rs t n)
  | _ => none

theorem test_add_wraps : reg (exec (.add 4#6 1#6 2#6) m) 4#6 = some 4#64 := by decide
theorem test_add_s0 : reg (exec (.add 0#6 1#6 2#6) m) 0#6 = some 0#64 := by decide
theorem test_sub_source_is_destination : reg (exec (.sub 1#6 1#6 2#6) m) 1#6 = some 6#64 := by decide
theorem test_sar : reg (exec (.sar 4#6 3#6 1#6) m) 4#6 = some 0xFC00000000000000#64 := by decide
theorem test_mulh : reg (exec (.mulh 4#6 1#6 2#6) m) 4#6 = some 0xFFFFFFFFFFFFFFFF#64 := by decide
theorem test_mulhu : reg (exec (.mulhu 4#6 1#6 2#6) m) 4#6 = some 4#64 := by decide
theorem test_div_most_negative : reg (exec (.div 4#6 3#6 2#6) m) 4#6 = some 0x8000000000000000#64 := by decide
theorem test_remu_by_zero : reg (exec (.remu 4#6 1#6 0#6) m) 4#6 = some 5#64 := by decide
theorem test_slt_sign : reg (exec (.slt 4#6 3#6 1#6) m) 4#6 = some 1#64 := by decide
theorem test_lui_sign : reg (exec (.lui 4#6 0x80000#20) m) 4#6 = some 0xFFFFFFFF80000000#64 := by decide
theorem test_movk : reg (exec (.movk 2#6 1#2 0xABCD#16) m) 2#6 = some 0xFFFFFFFFABCDFFFF#64 := by decide
theorem test_gets_mask : reg (exec (.gets 4#6 14#6) m) 4#6 = some 0xF#64 := by decide

def pcOf (r : Res) : Option W64 :=
  match r with
  | .next t => some (cur t).pc
  | _ => none

theorem test_blt_taken : pcOf (exec (.blt 3#6 1#6 0x3FFF#14) m) = some 0xFFFC#64 := by decide
theorem test_bltu_not_taken : pcOf (exec (.bltu 3#6 1#6 0x3FFF#14) m) = some 0x10004#64 := by decide
theorem test_call : reg (exec (.call 1#26) m) 62#6 = some 0x10004#64 := by decide

/-- 06: a byte goes into the stash; only the low byte of the register does. -/
theorem test_stb_stash : (match exec (.stb 2#6 1#6 1#14) inStash with
    | .next t => some (stashRead t 0 64 4)
    | _ => none) = some 0xFF00 := by decide
/-- A group with no tile and no accumulators. -/
def lean (s : State) : State := { s with g := { s.g with d := lean_ } }
/-- 19, R356-R364: an illegal word stops the group for the host; the PC stays. -/
theorem test_illegal_stops : (match exec (.illegalEncoding 0xFC000000#32) (lean m) with
    | .next t => (match t.g.stop with
      | .hostWait f => some (f.cause, (cur t).pc)
      | _ => none)
    | _ => none) = some (.illEnc, 0x10000#64) := by decide +kernel
/-- Under VECTOR the handler starts at TRAPCFG[55:2], s2 holds the cause word. -/
theorem test_trap_vector : (match exec (.trap 5#6) (lean vectored) with
    | .next t => some ((cur t).pc, t.g.super, (rs t 2#6).toNat % 1024)
    | _ => none) = some (0x40000#64, true, 0x385) := by decide +kernel
/-- 08, R211: v3 = v2 + v4 in each of the four lanes. -/
theorem test_iadd : (match exec (.iadd lf) (laneM (.iadd lf)) with
    | .next t => some ((List.range 4).map (fun l => (t.g.v.getD (12 + l) 0#32).toNat))
    | _ => none) = some [0x20000, 0x20008, 0x20010, 0x20018] := by decide
/-- 08, R214: 1.0 + 2^-24 rounds to even under .rn, and away from it under .ru. -/
def floatM (r : BitVec 3) : State :=
  let f : LaneF := { ff with rnd := r }
  let s := laneM (.fadd f)
  let vs : List W32 := List.replicate 8 0#32 ++ List.replicate 4 0x3F800000#32 ++ List.replicate 4 0#32 ++
    List.replicate 4 0x33800000#32 ++ List.replicate 44 0#32
  { s with g := { s.g with v := vs } }
def floatRes (r : BitVec 3) : Option Nat :=
  match exec (.fadd { ff with rnd := r }) (floatM r) with
  | .next t => some (t.g.v.getD 12 0#32).toNat
  | _ => none
theorem test_fadd_even : floatRes 1#3 = some 0x3F800000 := by decide
theorem test_fadd_up : floatRes 4#3 = some 0x3F800001 := by decide
/-- 01, R6: a turn of the path fetches `add 3, 1, 2` and runs it. -/
theorem test_step_add : (match step fetched with
    | .next t => some (rs t 3#6, (cur t).pc, t.agenda)
    | _ => none) = some (4#64, 0x20004#64, []) := by decide
/-- From reset with an instruction placed as its first, the step runs it. -/
theorem test_first_instruction : (match step (State.reset.withFetchWord 32 0x0440000C) with
    | .next t => some (rs t 4#6)
    | _ => none) = some 12#64 := by decide
end Sys2Proof.Tests
end

section
/-!
OBLIGATION O43. Accesses arrive, are held, retried and answered (04, R89-R94, R102).
-/

namespace Sys2Proof.Slices
open Sys2Proof Sys2Proof.Machine

/-! ### Arrival (04, R89-R90, R94) -/

/-- Where a request that may arrive goes, by its kind: what SLICE_ACCESS does with it. -/
def arriveAt (s : State) (o : Op) (j : Nat) (p : Part) : State :=
  match p.kind with
  | .dev sl => sliceDev s o j p sl
  | .host sl => if sliceIsolated s sl then s else sliceHost s o j p
  | .peer n => sendPart s o j p n
  | .stash => sliceStash s o j p
  | .ticket _ _ => sliceRedeem s o j p
  | .nowhere => if o.cls = .matrix then sliceStash s o j p else s

/-- SLICE_ACCESS of a request that nothing holds back. -/
theorem exec_sliceAccess {s : State} {o : Op} {j : Nat} {q p : Part} (ho : opOf s o.id = some o) (hcls : o.cls ≠ .rsta)
    (hq : o.parts[j]? = some q) (htodo : q.st = .todo) (hearly : earlierTodo s o j q = false) (hready : readyPart s o q = some p) :
    exec (.sliceAccess o.id j) s = .next (arriveAt s o j p) := by
  change execSliceAccess o.id j s = _
  simp only [execSliceAccess, ho, hcls, if_false, hq, htodo, hearly, hready, arriveAt]
  cases p.kind <;> rfl

/-- An isolated slice holds what comes to it (22, R415). -/
theorem arriveAt_isolated {s : State} {o : Op} {j sl : Nat} {p : Part} (hk : p.kind = .host sl ∨ p.kind = .dev sl)
    (hi : sliceIsolated s sl = true) : arriveAt s o j p = s := by
  rcases hk with hk | hk <;> simp [arriveAt, hk, hi, sliceDev]

/-- A load of the host window at its target: answered from held stores, or held for the I/O die (04, R94). -/
theorem sliceHost_load {s : State} {o : Op} {j : Nat} {p : Part} (hr : p.wr = false) : sliceHost s o j p =
    let m := heldMask s o.core (hostKey o.pid p.fa) p.size
    if m = 2 ^ p.size - 1
      then sampleDone (putPart s o j { p with st := .done, res := heldBytes s o.core (hostKey o.pid p.fa) p.size, onSlice := true }) o.id j
      else putPart s o j { p with st := .held, data := heldBytes s o.core (hostKey o.pid p.fa) p.size, cmp := m } := by
  simp [sliceHost, hr]

/-! ### At the home slice (04, R88-R90) -/

/-- An ordinary request that nothing turns away at its home slice, its line present: it waits behind the fill, or uses the line. -/
theorem sliceDev_line {s : State} {o : Op} {j sl : Nat} {p : Part} {l : Line} (hi : sliceIsolated s sl = false)
    (hp : pinnedAgainst s o.core p.fa p.size = false) (hd : isDoor s p.fa p.size = false) (hc : copyPending s p.fa p.size = false)
    (ha : o.aop = none) (hl : lineOf s sl p.fa = some l) : sliceDev s o j p sl =
      if l.fill then putPart (setLine s { l with held := l.held ++ [(o.id, j)] }) o j { p with st := .held }
      else useLine s l o j p false := by
  simp [sliceDev, hi, hp, hd, hc, ha, hl]

section
variable {s : State} {l : Line} {o : Op} {j : Nat} {p : Part} (ha : o.aop = none) (hs : p.spec = none)
include ha hs

/-- A load that hits is performed. -/
theorem useLine_loadHit {fresh : Bool} (hr : p.wr = false) (hv : l.valid &&& wordBits p.fa p.size = wordBits p.fa p.size) :
    useLine s l o j p fresh = sampleDone (performDev (touchLine s l) o j p l.slice) o.id j := by
  simp [useLine, ha, hs, hr, hv]

/-- A store of whole words is performed, hit or miss: its words become valid and dirty. -/
theorem useLine_store {fresh : Bool} (hw : p.wr = true) (hwhole : wholeWords p.fa p.size = true) :
    let w := wordBits p.fa p.size
    useLine s l o j p fresh =
      sampleDone (performDev (touchLine s { l with valid := l.valid ||| w, dirty := l.dirty ||| w }) o j p l.slice) o.id j := by
  simp [useLine, ha, hs, hw, hwhole]

/-- A request that needs words which are not valid starts a fill and waits for it. -/
theorem useLine_miss (hv : l.valid &&& wordBits p.fa p.size ≠ wordBits p.fa p.size)
    (hneed : p.wr = false ∨ wholeWords p.fa p.size = false) : useLine s l o j p false =
      putPart (countMiss (touchLine s { l with fill := true, held := l.held ++ [(o.id, j)] }) o) o j
        { p with st := .held, missed := true } := by
  rcases hneed with h | h <;> simp [useLine, ha, hs, hv, h]

end

/-! ### Fills and the host's answers (04, R90, R94; 22, R415) -/

theorem exec_mergingFillLands {s : State} {slice addr : Nat} {l : Line} (hl : lineOf s slice addr = some l) :
    exec (.mergingFillLands slice addr) s =
      .next (if !l.fill || chanTesting s addr then s else performHeld (landLine s l) slice addr l.held) := by
  change execMergingFillLands slice addr s = _
  simp only [execMergingFillLands, hl]
  split <;> rfl

/-- HOST_WINDOW_PASS of a load that its slice holds: the host's answer, or BUS_ERR. -/
theorem exec_hostWindowPass_held {s : State} {o : Op} {j sl : Nat} {p : Part} {ok : Bool} {v : Nat} (ho : opOf s o.id = some o)
    (hp : o.parts[j]? = some p) (hk : p.kind = .host sl) (hr : p.wr = false) (hi : sliceIsolated s sl = false) (hst : p.st = .held) :
    exec (.hostWindowPass (some (o.id, j)) ok v) s = .next (sampleDone (putPart s o j
      (if ok then { p with st := .done, res := hostMerge p.cmp p.data v p.size }
       else { p with st := .done, err := some (.busErr, p.ga) })) o.id j) := by
  change execHostWindowPass (some (o.id, j)) ok v s = _
  simp [execHostWindowPass, ho, hp, hk, hr, hi, hst]

/-! ### Retries (12, R268) -/

theorem exec_scopeRetry {s : State} {o : Op} {j sl : Nat} {p : Part} (ho : opOf s o.id = some o) (hp : o.parts[j]? = some p)
    (hk : p.kind = .dev sl) (hst : p.st = .todo) :
    exec (.scopeRetry o.id j) s = .next (if pinnedAgainst s o.core p.fa p.size then countRetry s sl else s) := by
  change execScopeRetry o.id j s = _
  simp only [execScopeRetry, ho, hp, hk, hst, decide_true, Bool.true_and]
  split <;> rfl

/-! ### Returns (04, R102; 05, R108) -/

/-- An access does not return behind a reply sent before it, twice, or before its last part is answered. -/
theorem exec_accessReturn_waits {s : State} {o : Op} (ho : opOf s o.id = some o)
    (hw : replyBehind s o = true ∨ (o.cls ≠ .halo ∧ o.returned = true) ∨ ∃ p ∈ o.parts, p.st ≠ .done) :
    exec (.accessReturn o.id) s = .next s := by
  change execAccessReturn o.id s = _
  simp only [execAccessReturn, ho]
  cases hb : replyBehind s o with
  | true => rfl
  | false =>
    have hw : (o.cls ≠ .halo ∧ o.returned = true) ∨ ∃ p ∈ o.parts, p.st ≠ .done := by simpa [hb] using hw
    have hany : (∃ p ∈ o.parts, p.st ≠ .done) → o.parts.any (fun p => p.st != .done) = true := by simp
    by_cases hh : o.cls = .halo
    · have hp : ∃ p ∈ o.parts, p.st ≠ .done := hw.resolve_left (fun x => x.1 hh)
      simp [hh, hany hp]
    · rcases hw with ⟨_, hr⟩ | hp
      · simp [hh, hr]
      · simp [hh, hany hp]

/-- A scalar register takes the value of the one part of its access, and the access returns. -/
theorem exec_accessReturn_sreg {s : State} {o : Op} {p : Part} {r : BitVec 6} {n : Nat} {sg : Bool} (ho : opOf s o.id = some o)
    (hret : o.returned = false) (hcls : o.cls = .load ∨ o.cls = .atomic) (hparts : o.parts = [p]) (hst : p.st = .done)
    (herr : p.err = none) (hland : o.land = .sreg r n sg) (hbehind : replyBehind s o = false) (hlive : s.g.live = true)
    (hkey : s.g.key = o.g) (hslot : s.slot = o.slot) :
    exec (.accessReturn o.id) s = .next (returnOp (ws s r (extend64 n sg p.res)) o.id) := by
  have hfirst : firstErr o = none := by simp [firstErr, hparts, herr]
  have hfocus : focusOn s o.g o.slot = s := by rw [← hkey, focusOn_self hlive, ← hslot]
  have hg : getG s o.g = some s.g := by rw [← hkey, getG_self hlive]
  have hlanded : landOp s o = some (ws s r (extend64 n sg p.res)) := by simp [landOp, hland, hparts]
  have hback : focusOn (ws s r (extend64 n sg p.res)) s.g.key s.slot = ws s r (extend64 n sg p.res) := by
    rw [ws_only]
    exact focusOn_self (s := { s with g := { s.g with s := (ws s r (extend64 n sg p.res)).g.s } }) hlive
  change execAccessReturn o.id s = _
  simp only [execAccessReturn, ho, hbehind, hfirst, hg, hfocus, hlanded, hlive, hback]
  rcases hcls with hc | hc <;> simp [hc, hret, hparts, hst]

/-! ### Late faults (19, R432) -/

section
variable {s : State} {o : Op} {j : Nat} {p : Part} {c : Cause} (ho : opOf s o.id = some o) (hp : o.parts[j]? = some p)
include ho hp

/-- A fault that comes for what has been answered, or has no target, changes nothing. -/
theorem exec_lateFaultArrival_idle (hx : o.returned = true ∨ p.st = .done ∨ targetOf p = none) :
    exec (.lateFaultArrival o.id j c) s = .next s := by
  change execLateFaultArrival o.id j c s = _
  simp only [execLateFaultArrival, ho, hp]
  rcases hx with hx | hx | hx <;> simp [hx]

/-- What a fault makes of a part that has not arrived: it ends with the fault; then the access waits for its other parts, or ends. -/
theorem exec_lateFaultArrival_todo (hret : o.returned = false) (hst : p.st = .todo) (ht : targetOf p ≠ none) (hcls : o.cls ≠ .rsta) :
    let p' : Part := { p with st := .done, err := some (c, p.ga) }
    let o' : Op := { o with parts := o.parts.set j p' }
    let s1 := sampleDone (putPart s o j p') o.id j
    ((∃ q ∈ o'.parts, q.st ≠ .done) → exec (.lateFaultArrival o.id j c) s = .next s1) ∧
    (∀ g l e a, (∀ q ∈ o'.parts, q.st = .done) → o.cls = .load ∨ o.cls = .store ∨ o.cls = .atomic → getG s1 o.g = some g →
      firstErr o' = some (l, e, a) → exec (.lateFaultArrival o.id j c) s = .next (lateFault s1 o' l e a)) := by
  change (_ → execLateFaultArrival o.id j c s = _) ∧ (∀ g l e a, _ → _ → _ → _ → execLateFaultArrival o.id j c s = _)
  simp only [execLateFaultArrival, ho, hp, hret, hst, ht, hcls]
  have hopen : (∃ q ∈ o.parts.set j { p with st := .done, err := some (c, p.ga) }, q.st ≠ .done) ↔
      (o.parts.set j { p with st := .done, err := some (c, p.ga) }).any (fun q => q.st != .done) = true := by simp
  refine ⟨fun hany => ?_, fun g l e a hall hc hg he => ?_⟩
  · simp only [hopen.mp hany, Bool.or_true, if_true]
    rfl
  · have hdone := mt hopen.mpr (fun ⟨q, hq, hne⟩ => hne (hall q hq))
    have hother : o.cls ≠ .halo ∧ o.cls ≠ .fetch ∧ o.cls ≠ .engine := by rcases hc with hc | hc | hc <;> simp [hc]
    obtain ⟨hhalo, hfetch, hengine⟩ := hother
    simp only [hdone, hhalo, hfetch, hengine, hg, he]
    rfl

end

/-! ### The statement -/

/-- Settles O43: each event is its own equation above, the conditions of the statement deciding its branch. -/
theorem accessEventsPerformAndReturn : Obligations.AccessEventsPerformAndReturn := by
  unfold Obligations.AccessEventsPerformAndReturn
  refine ⟨?_, ?_, ?_, fun s ok v => ⟨_, rfl, rfl⟩, ?_, fun s core words => ⟨_, rfl, rfl⟩, ?_, ?_, ?_, ?_⟩
  · -- arrival by the kind of the target
    intro s o j q p ho hcls hq htodo hearly hready
    have harr := exec_sliceAccess ho hcls hq htodo hearly hready
    refine ⟨fun sl hk => ⟨_, harr, ?_⟩, fun sl hk hi => ⟨_, harr, ?_⟩, fun sl hk hi => ?_, fun n hk => ⟨_, harr, ?_⟩,
      fun hk => ⟨_, harr, ?_⟩, fun a b hk => ⟨_, harr, ?_⟩⟩
    · simp [arriveAt, hk]
    · simp [arriveAt, hk, hi]
    · rw [harr, arriveAt_isolated hk hi]
    all_goals simp [arriveAt, hk]
  · -- at the home slice, the line present
    intro s o j p sl l hi hp hd hc ha hs hl w
    have hline := sliceDev_line (j := j) hi hp hd hc ha hl
    refine ⟨fun hf => ?_, fun hf hr hv => ?_, fun hf hw hwhole => ?_, fun hf hv hneed => ?_⟩
    · simp [hline, hf]
    · simp [hline, hf, useLine_loadHit ha hs hr hv]
    · simp [hline, hf, useLine_store ha hs hw hwhole, w]
    · simp [hline, hf, useLine_miss ha hs hv hneed]
  · -- a fill lands
    intro s slice addr l hl
    have hland := exec_mergingFillLands hl
    refine ⟨fun hf ht => ⟨_, hland, ?_⟩, fun h => ?_⟩
    · simp [hf, ht]
    · rw [hland]
      rcases h with h | h <;> simp [h]
  · -- a load of the host window
    intro s o j sl p ok v ho hp hk hr hi
    refine ⟨fun hst hcls hearly hready => ⟨_, exec_sliceAccess ho hcls hp hst hearly hready, ?_⟩, fun hst => ?_⟩
    · simp [arriveAt, hk, hi, sliceHost_load hr]
    · exact ⟨_, exec_hostWindowPass_held ho hp hk hr hi hst, rfl⟩
  · -- a pinned line
    intro s o j sl p ho hp hk hst
    have hretry := exec_scopeRetry ho hp hk hst
    refine ⟨fun hpin => ⟨_, hretry, ?_⟩, fun hpin => ?_⟩
    · simp [hpin, countRetry]
    · simp [hretry, hpin]
  · -- the value comes into its register
    intro s o p r n sg ho hret hcls hparts hst herr hland hbehind hlive hkey hslot
    exact ⟨_, exec_accessReturn_sreg ho hret hcls hparts hst herr hland hbehind hlive hkey hslot, rfl⟩
  · -- what holds a return back
    exact fun s o ho hw => exec_accessReturn_waits ho hw
  · -- a fault reported late
    intro s o j p c ho hp p' o' s1
    refine ⟨exec_lateFaultArrival_idle ho hp, fun hret hst ht hcls => ?_⟩
    obtain ⟨hmore, hlast⟩ := exec_lateFaultArrival_todo ho hp hret hst ht hcls
    exact ⟨fun hany => ⟨_, hmore hany, rfl⟩, fun g l e a hall hc hg he => ⟨_, hlast g l e a hall hc hg he, rfl⟩⟩

end Sys2Proof.Slices
end

section
/-!
OBLIGATION O44. Accesses performed at device memory, in the views of 12, R262-R264 (04, R90).
-/

namespace Sys2Proof.DeviceViews
open Sys2Proof.Machine

/-! ### Bytes of a store (00, R4) -/

theorem leBytes_length (n v : Nat) : (leBytes n v).length = n := by
  induction n generalizing v with
  | zero => rfl
  | succ n ih => simp [leBytes, ih]

theorem leBytes_getElem? {n i : Nat} (v : Nat) (h : i < n) : (leBytes n v)[i]? = some (BitVec.ofNat 8 (v / 256 ^ i)) := by
  induction n generalizing v i with
  | zero => omega
  | succ n ih =>
    cases i with
    | zero => simp [leBytes, ← BitVec.toNat_inj]
    | succ i =>
      have := ih (i := i) (v / 256) (by omega)
      rw [leBytes, List.getElem?_cons_succ, this, Nat.div_div_eq_div_mul, Nat.pow_succ']

/-! ### Unpublished bytes (12, R263) -/

/-- The byte that core `c` holds unpublished at `a`. -/
def heldAt (l : List Unpub) (c a : Nat) : Option Byte := (l.find? (fun u => u.core = c && u.addr = a)).map Unpub.val

/-- The last accepted of the bytes at `a` that are unpublished, whichever core holds it. -/
def newestAt (l : List Unpub) (a : Nat) : Option Byte := ((l.filter (fun u => u.addr = a)).getLast?).map Unpub.val

theorem newestAt_cons_same {u : Unpub} (l : List Unpub) {a : Nat} (h : u.addr = a) :
    newestAt (u :: l) a = some ((newestAt l a).getD u.val) := by
  simp only [newestAt, h, decide_true, List.filter_cons_of_pos, List.getLast?_cons]
  cases (l.filter (fun u => u.addr = a)).getLast? <;> rfl

theorem newestAt_cons_ne {u : Unpub} (l : List Unpub) {a : Nat} (h : u.addr ≠ a) : newestAt (u :: l) a = newestAt l a := by
  simp [newestAt, h]

/-- A selection that takes every byte at an address keeps the newest there. -/
theorem newestAt_filter {l : List Unpub} {q : Unpub → Bool} {a : Nat} (hq : ∀ u : Unpub, u.addr = a → q u = true) :
    newestAt (l.filter q) a = newestAt l a := by
  have h : (fun u : Unpub => decide (u.addr = a) && q u) = fun u => decide (u.addr = a) := by
    funext u
    have := hq u
    grind
  rw [newestAt, List.filter_filter, h, newestAt]

theorem exists_of_newestAt {l : List Unpub} {a : Nat} {v : Byte} (h : newestAt l a = some v) : ∃ u ∈ l, u.addr = a := by
  obtain ⟨u, hu, -⟩ := Option.map_eq_some_iff.mp h
  have := List.mem_of_getLast? hu
  exact ⟨u, by simpa using this⟩

/-- A core sees its own unpublished byte, else what it would see without unpublished bytes. -/
theorem viewByte_eq (s : State) (c a : Nat) : viewByte s c a = (heldAt s.unpub c a).getD (viewByte { s with unpub := [] } c a) := by
  unfold viewByte heldAt
  cases s.unpub.find? (fun u => u.core = c && u.addr = a) <;> rfl

/-- What a core sees rests on its held byte, the narrow publications and memory alone. -/
theorem viewByte_congr {s t : State} {c a : Nat} (hm : t.mem = s.mem) (hn : t.narrow = s.narrow)
    (hu : heldAt t.unpub c a = heldAt s.unpub c a) : viewByte t c a = viewByte s c a := by
  have h : viewByte { t with unpub := [] } c a = viewByte { s with unpub := [] } c a := by simp [viewByte, hm, hn]
  rw [viewByte_eq t, viewByte_eq s, hu, h]

theorem viewByte_of_held {s : State} {c a : Nat} {v : Byte} (h : heldAt s.unpub c a = some v) : viewByte s c a = v := by
  rw [viewByte_eq, h]
  rfl

/-- What accepting a byte does: the core's older byte goes, the others keep holder, address and value, and the new one comes last. -/
theorem acceptByte_shape (l : List Unpub) (c a : Nat) (v : Byte) (g : GKey) : ∃ (f : Unpub → Unpub) (ws : List GKey),
    (∀ u, (f u).core = u.core ∧ (f u).addr = u.addr ∧ (f u).val = u.val) ∧
    acceptByte l c a v g = (l.filter (fun u => !(u.core = c && u.addr = a))).map f ++ [⟨c, a, v, ws⟩] := by
  refine ⟨_, _, fun u => ?_, rfl⟩
  dsimp only
  split <;> exact ⟨rfl, rfl, rfl⟩

theorem heldAt_acceptByte (l : List Unpub) (c a : Nat) (v : Byte) (g : GKey) (d b : Nat) :
    heldAt (acceptByte l c a v g) d b = if d = c ∧ b = a then some v else heldAt l d b := by
  obtain ⟨f, ws, hf, h⟩ := acceptByte_shape l c a v g
  have hfind : ∀ p : Unpub → Bool, (p = fun u => u.core = d && u.addr = b) → p ∘ f = p := by
    rintro p rfl
    funext u
    simp [hf]
  have hval : (Unpub.val ∘ f) = Unpub.val := funext fun u => (hf u).2.2
  rw [heldAt, h, List.find?_append, List.find?_map, hfind _ rfl, List.find?_filter]
  by_cases hdb : d = c ∧ b = a
  · obtain ⟨rfl, rfl⟩ := hdb
    have hnone : l.find? (fun u => decide ((!(u.core = d && u.addr = b)) = true ∧ (u.core = d && u.addr = b) = true)) = none :=
      List.find?_eq_none.mpr fun u _ => by grind
    rw [hnone]
    simp
  · have hsame : (fun u : Unpub => decide ((!(u.core = c && u.addr = a)) = true ∧ (u.core = d && u.addr = b) = true))
        = fun u => u.core = d && u.addr = b := by
      funext u
      grind
    have hlast : (decide (c = d) && decide (a = b)) = false := by grind
    rw [hsame]
    simp [heldAt, hdb, hlast, hval]

theorem newestAt_acceptByte (l : List Unpub) (c a : Nat) (v : Byte) (g : GKey) (b : Nat) :
    newestAt (acceptByte l c a v g) b = if b = a then some v else newestAt l b := by
  obtain ⟨f, ws, hf, h⟩ := acceptByte_shape l c a v g
  have hat : (fun u : Unpub => decide (u.addr = b)) ∘ f = fun u => decide (u.addr = b) := by
    funext u
    simp [hf]
  have hval : (Unpub.val ∘ f) = Unpub.val := funext fun u => (hf u).2.2
  rw [newestAt, h, List.filter_append, List.filter_map, hat, List.filter_filter]
  by_cases hb : b = a
  · simp [hb]
  · have hsame : (fun u : Unpub => decide (u.addr = b) && !(decide (u.core = c) && decide (u.addr = a)))
        = fun u => decide (u.addr = b) := by
      funext u
      grind
    have hlast : decide (a = b) = false := by grind
    rw [hsame]
    simp [newestAt, hb, hlast, hval]

/-- A reading of the unpublished bytes that an accepted byte changes at its own address alone reads an accepted store at its bytes. -/
theorem acceptBytes_read {R : List Unpub → Option Byte} {c b : Nat} {g : GKey} {p : Prop} [Decidable p]
    (hR : ∀ l a v, R (acceptByte l c a v g) = if p ∧ b = a then some v else R l) (l : List Unpub) (a : Nat) (bs : List Byte) :
    R (acceptBytes l c a g bs) = if p ∧ a ≤ b ∧ b < a + bs.length then bs[b - a]? else R l := by
  induction bs generalizing l a with
  | nil =>
    have h : ¬(p ∧ a ≤ b ∧ b < a + ([] : List Byte).length) := by
      rw [List.length_nil]
      omega
    rw [acceptBytes, if_neg h]
  | cons v bs ih =>
    rw [acceptBytes, ih, hR, List.length_cons]
    by_cases hp : p
    · rcases Nat.lt_trichotomy b a with h | rfl | h
      · rw [if_neg (fun x => absurd x.2.1 (by omega)), if_neg (fun x => absurd x.2 (by omega)),
          if_neg (fun x => absurd x.2.1 (by omega))]
      · rw [if_neg (fun x => absurd x.2.1 (by omega)), if_pos ⟨hp, rfl⟩, if_pos ⟨hp, Nat.le_refl b, by omega⟩, Nat.sub_self,
          List.getElem?_cons_zero]
      · have hi : b - a = b - (a + 1) + 1 := by omega
        have hne : ¬(p ∧ b = a) := fun x => absurd x.2 (by omega)
        have hin : (p ∧ a + 1 ≤ b ∧ b < a + 1 + bs.length) ↔ (p ∧ a ≤ b ∧ b < a + (bs.length + 1)) :=
          and_congr_right fun _ => by omega
        rw [if_neg hne, hi, List.getElem?_cons_succ]
        simp only [hin]
    · rw [if_neg (fun x => hp x.1), if_neg (fun x => hp x.1), if_neg (fun x => hp x.1)]

/-- The holder of an accepted store sees its bytes; every other byte of every core is as it was. -/
theorem heldAt_acceptBytes (l : List Unpub) (c a : Nat) (g : GKey) (bs : List Byte) (d b : Nat) :
    heldAt (acceptBytes l c a g bs) d b = if d = c ∧ a ≤ b ∧ b < a + bs.length then bs[b - a]? else heldAt l d b :=
  acceptBytes_read (R := fun l => heldAt l d b) (fun l a v => heldAt_acceptByte l c a v g d b) l a bs

theorem newestAt_acceptBytes (l : List Unpub) (c a : Nat) (g : GKey) (bs : List Byte) (b : Nat) :
    newestAt (acceptBytes l c a g bs) b = if a ≤ b ∧ b < a + bs.length then bs[b - a]? else newestAt l b := by
  simpa using acceptBytes_read (R := fun l => newestAt l b) (p := True) (c := c) (g := g) (b := b)
    (fun l a v => by simpa using newestAt_acceptByte l c a v g b) l a bs

/-! ### Publication at fabric scope (12, R261-R263, R266) -/

theorem widenList_frame (s : State) (sc : Nat) (p : Narrow → Bool) (l : List Narrow) : let t := widenList s sc p l
    t.unpub = s.unpub ∧ t.stash = s.stash ∧ t.g = s.g ∧ (Memory.wf s.mem = true → Memory.wf t.mem = true) := by
  induction l with
  | nil => exact ⟨rfl, rfl, rfl, id⟩
  | cons n l ih =>
    obtain ⟨hu, hs, hg, hw⟩ := ih
    rw [widenList]
    dsimp only
    split
    · split
      · exact ⟨hu, hs, hg, fun h => cellSet_wf (hw h) ..⟩
      · exact ⟨hu, hs, hg, hw⟩
    · exact ⟨hu, hs, hg, hw⟩

/-- A byte published at fabric scope is the memory's, and no narrower publication of it is left. -/
theorem publishByte_fabric (s : State) (c a : Nat) (v : Byte) (ws : List GKey) : publishByte s c 5 a v ws =
    { s with mem := cellSet s.mem a v, narrow := s.narrow.filter (fun n => n.addr != a) } := rfl

theorem publishAll_frame (s : State) (us : List Unpub) : let t := publishAll s 5 us
    t.unpub = s.unpub ∧ t.stash = s.stash ∧ t.g = s.g := by
  induction us generalizing s with
  | nil => exact ⟨rfl, rfl, rfl⟩
  | cons u us ih => exact ih _

/-- Memory holds the last of the bytes published at an address. -/
theorem publishAll_mem {s : State} (hw : Memory.wf s.mem = true) (us : List Unpub) (a : Nat) :
    cellGet (publishAll s 5 us).mem a = (newestAt us a).getD (cellGet s.mem a) := by
  induction us generalizing s with
  | nil => rfl
  | cons u us ih =>
    rw [publishAll, publishByte_fabric, ih (cellSet_wf hw ..), cellGet_cellSet hw]
    by_cases ha : a = u.addr
    · rw [if_pos ha, newestAt_cons_same us ha.symm, Option.getD_some]
    · rw [if_neg ha, newestAt_cons_ne us (Ne.symm ha)]

/-- Where a byte has been published, no narrower publication is left. -/
theorem publishAll_narrow {s : State} {us : List Unpub} {n : Narrow} (h : n ∈ (publishAll s 5 us).narrow) :
    n ∈ s.narrow ∧ ∀ u ∈ us, n.addr ≠ u.addr := by
  induction us generalizing s with
  | nil => exact ⟨h, by simp⟩
  | cons u us ih =>
    obtain ⟨hn, hus⟩ := ih h
    rw [publishByte_fabric] at hn
    simp only [List.mem_filter, bne_iff_ne] at hn
    exact ⟨hn.1, by simpa using ⟨hn.2, hus⟩⟩

theorem publishWhere_frame (s : State) (r : Unpub → Bool) : let t := publishWhere s 5 r
    t.unpub = s.unpub.filter (fun u => !r u) ∧ t.stash = s.stash ∧ t.g = s.g :=
  publishAll_frame _ _

theorem publishOver_frame (s : State) (p : Narrow → Bool) (q : Unpub → Bool) :
    (publishOver s 5 p q).stash = s.stash ∧ (publishOver s 5 p q).g = s.g := by
  obtain ⟨-, hs, hg, -⟩ := widenList_frame { s with narrow := [] } 5 p s.narrow
  obtain ⟨-, hs', hg'⟩ := publishWhere_frame (widenList { s with narrow := [] } 5 p s.narrow) (fun u => q u || newerThan s 5 p u)
  exact ⟨hs'.trans hs, hg'.trans hg⟩

/-- What was the newest byte at an address is what every core sees there once the bytes of that address are published. -/
theorem viewByte_publishWhere {s : State} (hw : Memory.wf s.mem = true) {r : Unpub → Bool} {a : Nat} {v : Byte}
    (hr : ∀ u : Unpub, u.addr = a → r u = true) (hv : newestAt s.unpub a = some v) (c : Nat) :
    viewByte (publishWhere s 5 r) c a = v := by
  have hnew : newestAt (s.unpub.filter r) a = some v := by rw [newestAt_filter hr, hv]
  obtain ⟨x, hx, hxa⟩ := exists_of_newestAt hnew
  obtain ⟨hunpub, -, -⟩ := publishWhere_frame s r
  have hheld : (publishWhere s 5 r).unpub.find? (fun u => u.core = c && u.addr = a) = none := by
    rw [hunpub, List.find?_eq_none]
    intro u hu
    have := hr u
    grind
  have hnarrow : (publishWhere s 5 r).narrow.find? (fun n => n.addr = a && scopeContains n.core n.scope c) = none := by
    rw [List.find?_eq_none]
    intro n hn
    have := (publishAll_narrow hn).2 x hx
    grind
  have hmem : cellGet (publishWhere s 5 r).mem a = v :=
    (publishAll_mem (s := { s with unpub := s.unpub.filter (fun u => !r u) }) hw _ a).trans (by rw [hnew, Option.getD_some])
  simp only [viewByte, hheld, hnarrow, hmem]

/-- The same where bytes published too narrowly are widened first. -/
theorem viewByte_publishOver {s : State} (hw : Memory.wf s.mem = true) {p : Narrow → Bool} {q : Unpub → Bool} {a : Nat} {v : Byte}
    (hq : ∀ u : Unpub, u.addr = a → q u = true) (hv : newestAt s.unpub a = some v) (c : Nat) :
    viewByte (publishOver s 5 p q) c a = v := by
  obtain ⟨hu, -, -, hwf⟩ := widenList_frame { s with narrow := [] } 5 p s.narrow
  exact viewByte_publishWhere (hwf hw) (fun u h => by simp [hq u h]) (by rw [hu]; exact hv) c

/-! ### Accesses performed (04, R90; 12, R262-R264) -/

theorem secondWay_refused {s u : State} {sl a pid : Nat} (h : secondWay s sl a pid = (u, false)) : u = s := by
  unfold secondWay at h
  split at h
  · cases h
  · split at h
    · cases h
    · split at h
      · cases h
      · cases h
        rfl

/-- A line that is absent, or holds unpublished words already, needs no further way. -/
theorem secondWay_of_hasUnpub {s : State} {sl a pid : Nat} (h : ∀ l, lineOf s sl a = some l → hasUnpub s l.addr = true) :
    secondWay s sl a pid = (s, true) := by
  unfold secondWay
  cases hl : lineOf s sl a with
  | none => rfl
  | some l => simp [h l hl]

section
variable {s : State} {o : Op} {j sl : Nat} {p : Part} (ha : o.aop = none)
include ha

/-- A load takes the bytes that its core sees. -/
theorem performDev_load (hr : p.wr = false) (hp : poisoned s p.fa p.size = none) :
    performDev s o j p sl = putPart s o j { p with st := .done, res := leNat (viewBytes s o.core p.fa p.size) } := by
  simp [performDev, ha, hr, hp]

/-- An ordinary store is kept, poisoned words or not. -/
theorem performDev_store (hs : p.spec = none) (hw : p.wr = true) : performDev s o j p sl =
    putPart (keepStore s sl o.core p.fa o.pid o.g (leBytes p.size p.data)) o j { p with st := .done } := by
  unfold performDev
  rw [ha, hw, hs]
  cases poisoned s p.fa p.size <;> rfl

end

/-- The bytes that a store holds unpublished for its core, and no others, change in what a core holds. -/
theorem heldAt_acceptStore (s : State) (c a n v : Nat) (g : GKey) (d b : Nat) :
    heldAt (acceptStore s c a g (leBytes n v)).unpub d b =
      if d = c ∧ a ≤ b ∧ b < a + n then some (BitVec.ofNat 8 (v / 256 ^ (b - a))) else heldAt s.unpub d b := by
  change heldAt (acceptBytes s.unpub c a g (leBytes n v)) d b = _
  rw [heldAt_acceptBytes, leBytes_length]
  split
  · next h => exact leBytes_getElem? v (by omega)
  · rfl

theorem newestAt_acceptStore {s : State} {c a n v : Nat} {g : GKey} {b : Nat} (h : a ≤ b ∧ b < a + n) :
    newestAt (acceptStore s c a g (leBytes n v)).unpub b = some (BitVec.ofNat 8 (v / 256 ^ (b - a))) := by
  change newestAt (acceptBytes s.unpub c a g (leBytes n v)) b = _
  rw [newestAt_acceptBytes, leBytes_length, if_pos h]
  exact leBytes_getElem? v (by omega)

/-- What a core sees does not change when a part is answered. -/
theorem viewByte_putPart (s : State) (o : Op) (j : Nat) (p : Part) (c a : Nat) : viewByte (putPart s o j p) c a = viewByte s c a :=
  viewByte_congr (putPart_mem ..) (putPart_narrow ..) (by rw [putPart_unpub])

/-- Settles O44: a store is accepted among its core's unpublished bytes, and published at once where its line has no second way. -/
theorem deviceAccessesReadAndStoreTheirBytes : Obligations.DeviceAccessesReadAndStoreTheirBytes := by
  unfold Obligations.DeviceAccessesReadAndStoreTheirBytes
  intro s o j sl p _ _ ha hs new
  refine ⟨fun hr hp => performDev_load ha hr hp, fun hw hline => ?_, fun hw u hway => ?_, fun hw hmem u hway => ?_⟩
  · -- kept apart, in the ways that the line has
    intro t
    have ht : t = putPart (acceptStore s o.core p.fa o.g (leBytes p.size p.data)) o j { p with st := .done } := by
      simp [t, performDev_store ha hs hw, keepStore, secondWay_of_hasUnpub hline]
    have hsame : ∀ c a, ¬(c = o.core ∧ p.fa ≤ a ∧ a < p.fa + p.size) → viewByte t c a = viewByte s c a := by
      intro c a hout
      rw [ht, viewByte_putPart]
      exact viewByte_congr rfl rfl (by rw [heldAt_acceptStore, if_neg hout])
    refine ⟨by simp [ht], by simp [ht], by simp [ht], by simp [ht], fun a hlo hhi => ?_, fun a hout => hsame _ _ (by omega),
      fun c a hc => hsame _ _ (fun h => hc h.1)⟩
    rw [ht, viewByte_putPart]
    exact viewByte_of_held (by rw [heldAt_acceptStore, if_pos ⟨rfl, hlo, hhi⟩])
  · -- kept apart, in a second way
    simp [performDev_store ha hs hw, keepStore, hway]
  · -- published at once
    obtain rfl := secondWay_refused hway
    intro t
    have ht : t = putPart (forceBytes (acceptStore u o.core p.fa o.g (leBytes p.size p.data)) (p.fa / 4 * 4)
        ((p.fa + p.size + 3) / 4 * 4 - p.fa / 4 * 4)) o j { p with st := .done } := by
      simp [t, performDev_store ha hs hw, keepStore, hway, leBytes_length]
    obtain ⟨hstash, hg⟩ := publishOver_frame (acceptStore u o.core p.fa o.g (leBytes p.size p.data)) _ _
    refine ⟨rfl, ?_, ?_, fun c a hlo hhi => ?_⟩
    · rw [ht, putPart_stash]
      exact hstash
    · rw [ht, putPart_g]
      exact hg
    · rw [ht, viewByte_putPart]
      refine viewByte_publishOver (s := acceptStore u o.core p.fa o.g (leBytes p.size p.data)) hmem (fun x hx => ?_)
        (newestAt_acceptStore ⟨hlo, hhi⟩) c
      simp only [hx, Bool.and_eq_true, decide_eq_true_eq]
      omega

end Sys2Proof.DeviceViews
end

section
/-!
OBLIGATION O55. Units that fail and their tests, start-up, clocks, power and resets (04, R93; 12, R269; 14, R298-R301; 22, R415-R420).
-/

namespace Sys2Proof.Units
open Sys2Proof Sys2Proof.Machine

/-! ### Errors of units (22, R415-R416) -/

/-- The units under test after an error of `u`: it joins them, or its second error is noted. -/
def noteError (l : List (UnitId × Bool)) (u : UnitId) : List (UnitId × Bool) :=
  if l.any (fun x => x.1 = u) then l.map (fun x => if x.1 = u then (u, true) else x) else l ++ [(u, false)]

theorem noteError_find (l : List (UnitId × Bool)) (u v : UnitId) (h : ∃ x ∈ l, x.1 = u) : (noteError l u).find? (fun t => t.1 = v) =
    (l.find? (fun t => t.1 = v)).map (fun x => if x.1 = u then (u, true) else x) := by
  have hany : l.any (fun x => x.1 = u) = true := by
    rw [List.any_eq_true]
    simpa only [decide_eq_true_eq] using h
  have hkey : (fun t : UnitId × Bool => decide (t.1 = v)) ∘ (fun x => if x.1 = u then (u, true) else x) = fun t => decide (t.1 = v) := by
    funext x
    grind
  rw [noteError, if_pos hany, List.find?_map, hkey]

theorem noteError_new {l : List (UnitId × Bool)} {u : UnitId} (h : ¬∃ x ∈ l, x.1 = u) : noteError l u = l ++ [(u, false)] := by
  rw [noteError, if_neg]
  rw [List.any_eq_true]
  simpa only [decide_eq_true_eq] using h

theorem noteError_self (l : List (UnitId × Bool)) (u : UnitId) : ((noteError l u).find? (fun t => t.1 = u)).map (fun t => t.2) =
    some ((l.find? (fun t => t.1 = u)).map (fun t => t.2)).isSome := by
  cases hf : l.find? (fun t => t.1 = u) with
  | some x =>
    have hx : x.1 = u := by simpa using List.find?_some hf
    rw [noteError_find l u u ⟨x, List.mem_of_find?_eq_some hf, hx⟩, hf]
    simp [hx]
  | none =>
    have hnew : ¬∃ x ∈ l, x.1 = u := fun ⟨x, hx, hxu⟩ => List.find?_eq_none.mp hf x hx (by simpa using hxu)
    rw [noteError_new hnew, List.find?_append, hf]
    simp

theorem noteError_ne (l : List (UnitId × Bool)) {u v : UnitId} (h : v ≠ u) :
    (noteError l u).find? (fun t => t.1 = v) = l.find? (fun t => t.1 = v) := by
  by_cases hu : ∃ x ∈ l, x.1 = u
  · rw [noteError_find l u v hu]
    cases hf : l.find? (fun t => t.1 = v) with
    | none => rfl
    | some x =>
      have hx : x.1 = v := by simpa using List.find?_some hf
      simp [hx, h]
  · rw [noteError_new hu, List.find?_append]
    simp [Ne.symm h]

/-- Poisoning changes poison and the free value alone. -/
theorem poisonSome_only (s : State) (u : UnitId) : poisonSome s u =
    { s with free := (poisonSome s u).free, poison := (poisonSome s u).poison, memPoison := (poisonSome s u).memPoison } := by
  unfold poisonSome
  cases u with
  | slice n => dsimp only; split <;> rfl
  | channel st pc => rfl
  | core n => rfl
  | lane d k => rfl
  | tamly p k => rfl

@[simp] theorem poisonSome_mem (s : State) (u : UnitId) : (poisonSome s u).mem = s.mem := by
  rw [poisonSome_only]
@[simp] theorem poisonSome_notices (s : State) (u : UnitId) : (poisonSome s u).notices = s.notices := by
  rw [poisonSome_only]
@[simp] theorem poisonSome_svc (s : State) (u : UnitId) : (poisonSome s u).svc = s.svc := by
  rw [poisonSome_only]

/-- The notice of an error, and the poison that an uncorrected one leaves. -/
def errorFound (s : State) (u : UnitId) (corrected : Bool) : State :=
  let s1 := addNotice s (if corrected then .errCorrected else .unitErr)
  if corrected then s1 else poisonSome s1 u

/-- The same with a core of which every group has to leave: what UNIT_ERROR does beside the list of units under test. -/
def afterError (s : State) (u : UnitId) (corrected : Bool) : State :=
  match u with
  | .core n => setCore (errorFound s u corrected) { coreOf (errorFound s u corrected) n with leaveAt := s.time }
  | _ => errorFound s u corrected

theorem errorFound_frame (s : State) (u : UnitId) (corrected : Bool) : let t := errorFound s u corrected
    t.mem = s.mem ∧ t.notices = s.notices ++ [((if corrected then .errCorrected else .unitErr), s.time)] ∧ t.svc = s.svc ∧
    (corrected = true → t.poison = s.poison ∧ t.memPoison = s.memPoison) := by
  cases corrected with
  | true => exact ⟨rfl, rfl, rfl, fun _ => ⟨rfl, rfl⟩⟩
  | false => simp [errorFound, addNotice]

theorem afterError_frame (s : State) (u : UnitId) (corrected : Bool) : let t := afterError s u corrected
    t.mem = s.mem ∧ t.notices = s.notices ++ [((if corrected then .errCorrected else .unitErr), s.time)] ∧ t.svc = s.svc ∧
    (corrected = true → t.poison = s.poison ∧ t.memPoison = s.memPoison) := by
  cases u with
  | core n => simpa [afterError] using errorFound_frame s (.core n) corrected
  | slice n => exact errorFound_frame s (.slice n) corrected
  | channel st pc => exact errorFound_frame s (.channel st pc) corrected
  | lane d k => exact errorFound_frame s (.lane d k) corrected
  | tamly p k => exact errorFound_frame s (.tamly p k) corrected

/-- UNIT_ERROR (22, R415-R416). -/
theorem exec_unitError (s : State) (u : UnitId) (corrected : Bool) : exec (.unitError u corrected) s =
    .next { afterError s u corrected with svc := { s.svc with testing := noteError s.svc.testing u } } := by
  obtain ⟨-, -, hsvc, -⟩ := afterError_frame s u corrected
  rw [← hsvc]
  rfl

/-- An uncorrected error of a pseudo-channel poisons a 32-byte unit of it at the controller (04, R84-R85). -/
theorem poisonSome_channel (s : State) (st pc : Nat) : ∃ x, x % 32 = 0 ∧ x / 256 % 64 = pc % 64 ∧
    ∀ w, w ∈ (poisonSome s (.channel st pc)).memPoison ↔ w ∈ s.memPoison ∨ ∃ i < 8, w = ofStack st (x + 4 * i) := by
  refine ⟨16384 * ((Config.unstated s.free).toNat / 8 % 2 ^ 22) + 256 * (pc % 64) + 32 * ((Config.unstated s.free).toNat % 8),
    by omega, by omega, fun w => ?_⟩
  simp only [poisonSome, List.mem_append, List.mem_filter, List.mem_map, List.mem_range]
  by_cases hw : w ∈ s.memPoison <;> simp [hw, eq_comm]

/-- One of a slice poisons a word that one of its lines holds, if any (04, R92). -/
theorem poisonSome_slice {s : State} {n w : Nat} (h : w ∈ (poisonSome s (.slice n)).poison) :
    w ∈ s.poison ∨ ∃ l ∈ s.lines, l.slice = n ∧ w ∈ lineWords l.addr l.valid := by
  simp only [poisonSome] at h
  split at h
  · next x hx =>
    have hmem := List.mem_of_getElem? hx
    simp only [List.mem_flatten, List.mem_map, List.mem_filter, decide_eq_true_eq] at hmem
    obtain ⟨ws, ⟨l, ⟨hl, hs⟩, rfl⟩, hxl⟩ := hmem
    split at h
    · exact .inl h
    · rcases List.mem_append.mp h with h | h
      · exact .inl h
      · exact .inr ⟨l, hl, hs, List.mem_singleton.mp h ▸ hxl⟩
  · exact .inl h

/-! ### Self-tests (22, R415-R416) -/

/-- A slice with a line to be written back whose pseudo-channel is under test keeps its place; no other unit does. -/
theorem keepsDirty_iff (s : State) (u : UnitId) : keepsDirty s u = true ↔
    ∃ n, u = .slice n ∧ ∃ l ∈ s.lines, l.slice = n ∧ l.dirty ≠ 0#32 ∧ chanTesting s l.addr = true := by
  cases u with
  | slice n =>
    rw [keepsDirty, List.any_eq_true]
    constructor
    · rintro ⟨l, hl, h⟩
      exact ⟨n, rfl, l, hl, by simpa [and_assoc] using h⟩
    · rintro ⟨_, ⟨⟩, l, hl, h⟩
      exact ⟨l, hl, by simpa [and_assoc] using h⟩
  | core n => simp [keepsDirty]
  | channel st pc => simp [keepsDirty]
  | lane d k => simp [keepsDirty]
  | tamly p k => simp [keepsDirty]

/-- The state in which the unit's test is over. -/
def testOver (s : State) (u : UnitId) : State :=
  { s with svc := { s.svc with testing := s.svc.testing.filter (fun t => t.1 != u) } }

/-- Where a failed test ends: the unit is retired, with what the test may have found. -/
def testFailed (s : State) (u : UnitId) (t : State) : Prop :=
  ∃ bad, t = retireUnit (if bad = true then poisonSome { testOver s u with free := s.free + 1 } u
    else { testOver s u with free := s.free + 1 }) u

theorem exec_selfTestDone_none {s : State} {u : UnitId} (h : testingOf s u = none) (pass : Bool) :
    exec (.selfTestDone u pass) s = .next s := by
  change execSelfTestDone u pass s = _
  simp only [execSelfTestDone, h]

theorem exec_selfTestDone_passes {s : State} {u : UnitId} (h : testingOf s u = some false) :
    exec (.selfTestDone u true) s = .next (testOver s u) := by
  change execSelfTestDone u true s = _
  simp only [execSelfTestDone, h]
  rfl

section
variable {s : State} {u : UnitId} {second pass : Bool} (ht : testingOf s u = some second) (hfail : (pass && !second) = false)
include ht hfail

/-- A test that has failed, of a unit that cannot be retired yet. -/
theorem exec_selfTestDone_kept (hk : keepsDirty s u = true) : exec (.selfTestDone u pass) s = .next s := by
  change execSelfTestDone u pass s = _
  simp only [execSelfTestDone, ht, hfail, hk]
  rfl

theorem exec_selfTestDone_fails (hk : keepsDirty s u = false) : Safety.completes (.selfTestDone u pass) s (testFailed s u) := by
  change ∃ t, execSelfTestDone u pass s = .next t ∧ testFailed s u t
  simp only [execSelfTestDone, ht, hfail, hk]
  refine ⟨_, rfl, decide ((Config.outsideByte s.free 0).toNat % 2 = 1), ?_⟩
  simp only [decide_eq_true_eq]
  rfl

end

/-- A spare core takes the number of one that has failed. -/
theorem retireUnit_core_spare {s : State} {n : Nat} {l : List Nat} (h : takeSpare s.svc.coreSpares (n / 192) = some l) :
    retireUnit s (.core n) = { s with svc := { s.svc with coreSpares := l } } := by
  simp only [retireUnit, h]

/-- Without a spare the core stops. -/
theorem retireUnit_core_stopped {s : State} {n : Nat} (h : takeSpare s.svc.coreSpares (n / 192) = none) :
    retireUnit s (.core n) = { s with svc := { s.svc with stoppedCores := s.svc.stoppedCores ++ [n] } } := by
  simp only [retireUnit, h]

/-! ### Start-up (12, R269; 22, R417) -/

/-- Start-up completes with firmware and self-test both good, and not before. -/
theorem completeStart_eq {s : State} (h : s.started = false) : completeStart s =
    { s with started := s.fwOk && s.selfTest, strict := s.strict && !(s.fwOk && s.selfTest) } := by
  unfold completeStart
  by_cases hb : (s.fwOk && s.selfTest) = true
  · rw [if_pos (by rw [hb, h]; rfl), hb, Bool.not_true, Bool.and_false]
  · rw [Bool.not_eq_true] at hb
    rw [if_neg (by simp [hb])]
    simp only [hb, Bool.not_false, Bool.and_true]
    rw [← h]

/-- FIRMWARE_VERIFY before start-up: an image is good if it holds and none has failed before it. -/
theorem exec_firmwareVerify {s : State} (h : s.started = false) (ok : Bool) (m : BitVec 512) :
    let good := ok && !s.svc.fwBad
    exec (.firmwareVerify ok m) s = .next { s with
      fwOk := good, svc := { s.svc with fwBad := !good, measures := s.svc.measures ++ [m] }, started := good && s.selfTest
      strict := s.strict && !(good && s.selfTest) } := by
  change execFirmwareVerify ok m s = _
  have hbad : (s.svc.fwBad || !ok) = !(ok && !s.svc.fwBad) := by cases s.svc.fwBad <;> cases ok <;> rfl
  rw [execFirmwareVerify, if_neg (by simp [h]), hbad]
  dsimp only
  rw [Bool.not_not]
  exact congrArg _ (completeStart_eq h)

theorem exec_startupComplete {s : State} (h : s.started = false) : exec .startupComplete s =
    .next { s with selfTest := true, started := s.fwOk && true, strict := s.strict && !(s.fwOk && true) } := by
  change execStartupComplete s = _
  rw [execStartupComplete, if_neg (by simp [h])]
  exact congrArg _ (completeStart_eq h)

/-- Once started, a package is not verified again. -/
theorem exec_startup_again {s : State} (h : s.started = true) (ok : Bool) (m : BitVec 512) :
    exec (.firmwareVerify ok m) s = .next s ∧ exec .startupComplete s = .next s := by
  change execFirmwareVerify ok m s = _ ∧ execStartupComplete s = _
  rw [execFirmwareVerify, execStartupComplete, if_pos h, if_pos h]
  exact ⟨rfl, rfl⟩

/-! ### Power (22, R420) -/

theorem exec_powerCap (s : State) (f : Nat) : exec (.powerCap f) s =
    .next (if f % 100 = 0 ∧ 0 < f ∧ f < s.mhz then { s with mhz := f } else s) := by
  change execPowerCap f s = _
  simp only [execPowerCap, Bool.and_eq_true, decide_eq_true_eq, and_assoc]
  split <;> rfl

theorem exec_powerCapLifted (s : State) (f : Nat) : exec (.powerCapLifted f) s =
    .next (if f % 100 = 0 ∧ s.mhz < f ∧ f ≤ 1600 then { s with mhz := f } else s) := by
  change execPowerCapLifted f s = _
  simp only [execPowerCapLifted, Bool.and_eq_true, decide_eq_true_eq, and_assoc]
  split <;> rfl

theorem overheat_hot (s : State) : (overheat s).svc.hot = true := by
  unfold overheat
  split
  · assumption
  · rfl

/-! ### Resets (14, R301; 22, R418) -/

theorem answer_frame (s : State) (snd : Sender) (cmd res ret : Nat) (b : List Byte) : let t := answer s snd cmd res ret b
    t.net = s.net ∧ t.mem = s.mem ∧ t.others = s.others := by
  rw [answer_only]
  exact ⟨rfl, rfl, rfl⟩

/-- The answers that a reset gives leave memory, the groups and the network as they are. -/
theorem answers_frame (s : State) (l : List Ckpt) : let t := l.foldl (fun t c => answer t c.snd 0x20 6 0 []) s
    t.net = s.net ∧ t.mem = s.mem ∧ t.others = s.others := by
  induction l generalizing s with
  | nil => exact ⟨rfl, rfl, rfl⟩
  | cons c l ih =>
    obtain ⟨hn, hm, ho⟩ := ih (answer s c.snd 0x20 6 0 [])
    obtain ⟨hn1, hm1, ho1⟩ := answer_frame s c.snd 0x20 6 0 []
    exact ⟨hn.trans hn1, hm.trans hm1, ho.trans ho1⟩

/-- The network after a reset, before its notices leave: INC has risen, every peer is DOWN, nothing is on its way (14, R298, R301). -/
def netAfterReset (s : State) : Net :=
  { inc := (s.net.inc + 1) % 65536, incSet := true, row := s.net.row, col := s.net.col, tokenSeen := s.time, domain := s.net.domain
    peers := (List.range 256).map (fun n => (n, 0, 2)) }

/-- A reset keeps memory and no group, and the notice of the new INC is all that leaves (14, R301). -/
theorem exec_packageReset (s : State) : Safety.completes .packageReset s (fun t => t.mem = s.mem ∧ t.others = [] ∧
    ∃ s1 : State, s1.net = netAfterReset s ∧ t.net = (sendNotice s1 (pkgNo s) ((s.net.inc + 1) % 65536) 0).net) := by
  refine ⟨_, rfl, ?_⟩
  obtain ⟨hn, hm, ho⟩ := answers_frame _ _
  exact ⟨hm, ho, _, rfl, hn⟩

theorem peers_find_down {n : Nat} (h : n < 256) :
    ((List.range 256).map (fun n => (n, 0, 2))).find? (fun p : Nat × Nat × Nat => p.1 = n) = some (n, 0, 2) := by
  cases hf : ((List.range 256).map (fun n => (n, 0, 2))).find? (fun p : Nat × Nat × Nat => p.1 = n) with
  | none =>
    have hmem : (n, 0, 2) ∈ (List.range 256).map (fun n => (n, 0, 2)) := List.mem_map.mpr ⟨n, List.mem_range.mpr h, rfl⟩
    simpa using List.find?_eq_none.mp hf _ hmem
  | some x =>
    obtain ⟨m, -, rfl⟩ := List.mem_map.mp (List.mem_of_find?_eq_some hf)
    have hm : m = n := by simpa using List.find?_some hf
    rw [hm]

/-- After a reset INC has risen, every peer is DOWN, the domain is as it was, and nothing but notices leaves (14, R298-R301). -/
theorem network_afterReset {s s1 t : State} (h1 : s1.net = netAfterReset s)
    (ht : t.net = (sendNotice s1 (pkgNo s) ((s.net.inc + 1) % 65536) 0).net) :
    t.net.inc = (s.net.inc + 1) % 65536 ∧ pkgNo t = pkgNo s ∧ (∀ n, n ≠ pkgNo s → n < 256 → peerEnt t n = (0, 2)) ∧
    (∀ n, inDomain t n = inDomain s n) ∧
    ∀ x ∈ t.net.sent, x.2.kind = 12 ∧ x.2.spkg = pkgNo s ∧ x.2.sinc = (s.net.inc + 1) % 65536 := by
  have hpkg : pkgNo t = pkgNo s := by simp [pkgNo, ht, sendNotice, h1, netAfterReset]
  refine ⟨by simp [ht, sendNotice, h1, netAfterReset], hpkg, fun n hn hlt => ?_, fun n => ?_, fun x hx => ?_⟩
  · have hpeers : t.net.peers = (List.range 256).map (fun n => (n, 0, 2)) := by simp [ht, sendNotice, h1, netAfterReset]
    simp only [peerEnt, hpkg, if_neg hn, hpeers, peers_find_down hlt]
  · have hdomain : t.net.domain = s.net.domain := by simp [ht, sendNotice, h1, netAfterReset]
    simp only [inDomain, hpkg, hdomain]
  · have hsent : s1.net.sent = [] := by simp [h1, netAfterReset]
    simp only [ht, sendNotice, hsent, List.nil_append, List.mem_map] at hx
    obtain ⟨p, -, rfl⟩ := hx
    exact ⟨rfl, rfl, rfl⟩

/-! ### The statement -/

/-- Settles O55: errors and tests, start-up, clocks, power and resets, each by what its event does above. -/
theorem unitsStartUpAndResets : Obligations.UnitsStartUpAndResets := by
  unfold Obligations.UnitsStartUpAndResets
  refine ⟨?_, ?_, poisonSome_channel, fun s n w h => poisonSome_slice h, ?_, fun s p l => rfl, ?_, ?_,
    fun s => ⟨⟨_, rfl, rfl⟩, ⟨_, rfl, rfl⟩⟩, ?_, ?_,
    fun s => ⟨_, rfl, rfl, rfl, rfl, rfl, rfl, rfl, rfl, rfl, rfl, rfl, rfl, rfl, rfl⟩, ?_⟩
  · -- a lane of a die-to-die link
    intro s d p corrected u hnone
    have hnew : ¬∃ x ∈ s.svc.testing, x.1 = u := fun ⟨x, hx, hxu⟩ =>
      List.find?_eq_none.mp (Option.map_eq_none_iff.mp hnone) x hx (by simpa using hxu)
    refine ⟨_, exec_unitError s u corrected, ?_⟩
    rw [noteError_new hnew]
    cases corrected <;> rfl
  · -- any unit
    intro s u corrected
    obtain ⟨hmem, hnotices, -, hpoison⟩ := afterError_frame s u corrected
    refine ⟨_, exec_unitError s u corrected, hmem, hnotices, noteError_self _ u, fun v hv => ?_, hpoison⟩
    simp only [testingOf, noteError_ne _ hv]
  · -- the end of a self-test
    intro s u s1 failed
    refine ⟨fun h pass => exec_selfTestDone_none h pass, ?_⟩
    intro keeps
    have hkept : keeps → keepsDirty s u = true := (keepsDirty_iff s u).mpr
    have hfree : ¬keeps → keepsDirty s u = false := fun h => by
      rw [← Bool.not_eq_true]
      exact mt (keepsDirty_iff s u).mp h
    refine ⟨fun ht => ⟨⟨_, exec_selfTestDone_passes ht, rfl⟩, fun hk => exec_selfTestDone_kept ht rfl (hkept hk),
      fun hk => exec_selfTestDone_fails ht rfl (hfree hk)⟩, fun ht pass => ?_⟩
    have hfail : (pass && !true) = false := Bool.and_false pass
    exact ⟨fun hk => exec_selfTestDone_kept ht hfail (hkept hk), fun hk => exec_selfTestDone_fails ht hfail (hfree hk)⟩
  · -- a core that has failed
    exact fun s n => ⟨fun l hl => retireUnit_core_spare hl, retireUnit_core_stopped⟩
  · -- start-up
    intro s ok m
    refine ⟨fun h => exec_startup_again h ok m, fun h => ⟨_, exec_firmwareVerify h ok m, rfl, rfl, rfl, rfl, rfl, rfl⟩,
      fun h => ⟨_, exec_startupComplete h, rfl, rfl, ?_, ?_⟩⟩ <;> simp only [Bool.and_true]
  · -- the arithmetic clock
    intro s f
    refine ⟨fun h1 h2 h3 => ⟨_, exec_powerCap s f, if_pos ⟨h1, h2, h3⟩⟩, fun h => ?_,
      fun h1 h2 h3 => ⟨_, exec_powerCapLifted s f, if_pos ⟨h1, h2, h3⟩⟩, fun h => ?_⟩
    · rw [exec_powerCap, if_neg (by omega)]
    · rw [exec_powerCapLifted, if_neg (by omega)]
  · -- too hot
    intro s hot
    have hhot : hot.svc.hot = true := overheat_hot s
    refine ⟨fun g pid core => ?_, fun h => ?_, fun h => ?_, fun hp ha => ?_⟩
    · simp [mayNotStay, coreRuns, hhot]
    · exact ⟨_, rfl, if_neg h⟩
    · exact ⟨_, rfl, if_pos h⟩
    · simp [step, ha, hp]
  · -- a reset of the package
    intro s
    obtain ⟨t, he, hmem, hothers, s1, h1, hnet⟩ := exec_packageReset s
    obtain ⟨hinc, hpkg, hpeers, hdomain, hsent⟩ := network_afterReset h1 hnet
    exact ⟨t, he, hinc, hmem, hothers, hpeers, hpkg, hdomain, hsent⟩

end Sys2Proof.Units
end

section
/-!
OBLIGATIONS O27 and O28. Barrier objects: their bytes, their updates, the bar family (06, R172-R175, R177).
-/

namespace Sys2Proof.Barriers
open Sys2Proof Sys2Proof.Machine Sys2Proof.DeviceViews

/-! ### Fields of what has been written (00, R4) -/

/-- Bytes that hold `v` in little-endian order read as `v`, cut to their number. -/
theorem cellRead_of_bytes {m : List Host.Cell} {n a v : Nat} (h : ∀ i < n, cellGet m (a + i) = BitVec.ofNat 8 (v / 256 ^ i)) :
    cellRead m a n = v % 256 ^ n := by
  induction n generalizing a v with
  | zero => simp [cellRead, Nat.mod_one]
  | succ n ih =>
    have hhead : cellGet m a = BitVec.ofNat 8 v := by simpa using h 0 (by omega)
    have htail : cellRead m (a + 1) n = v / 256 % 256 ^ n := ih fun i hi => by
      rw [Nat.add_right_comm, Nat.add_assoc, h (i + 1) (by omega), Nat.div_div_eq_div_mul, Nat.pow_succ']
    rw [cellRead, hhead, htail, Nat.pow_succ', Nat.mod_mul]
    simp

/-- A field inside a list of bytes that has been written reads back. -/
theorem stashRead_stashWrite_field {s : State} (hw : Memory.wf s.stash = true) (core off : Nat) {l bs : List Byte} {n v : Nat}
    (h : l ++ leBytes n v <+: bs) : stashRead (stashWrite s core off bs) core (off + l.length) n = v % 256 ^ n := by
  obtain ⟨r, rfl⟩ := h
  refine cellRead_of_bytes fun i hi => ?_
  have hlen : i < (leBytes n v).length := by rwa [leBytes_length]
  have hat : (l ++ leBytes n v ++ r)[l.length + i]? = some (BitVec.ofNat 8 (v / 256 ^ i)) := by
    rw [List.append_assoc, List.getElem?_append_right (Nat.le_add_right ..), Nat.add_sub_cancel_left, List.getElem?_append_left hlen,
      leBytes_getElem? v hi]
  obtain ⟨hin, hbyte⟩ := List.getElem?_eq_some_iff.mp hat
  have hkey : stashKey core (off + l.length) + i = stashKey core off + (l.length + i) := by
    simp only [stashKey]
    omega
  rw [hkey]
  exact (cellGet_cellWrite_in hw hin).trans hbyte

/-! ### A barrier object (06, R172) -/

theorem barBytes_length (b : Bar) : (barBytes b).length = 16 := by simp [barBytes, leBytes_length]

/-- STATE holds its three bits apart. -/
theorem barState_bits (x y z : Bool) : let st := (b2n x + 2 * b2n y + 4 * b2n z) % 256
    decide (st % 2 = 1) = x ∧ decide (st / 2 % 2 = 1) = y ∧ decide (st / 4 % 2 = 1) = z := by
  cases x <;> cases y <;> cases z <;> decide

/-- The fields of a barrier that has been written. -/
theorem stashRead_barWrite {s : State} (hw : Memory.wf s.stash = true) (core off : Nat) (b : Bar) : let t := barWrite s core off b
    stashRead t core off 4 = b.pend % 2 ^ 32 ∧ stashRead t core (off + 4) 4 = b.arr % 2 ^ 32 ∧
    stashRead t core (off + 8) 1 = (b2n b.phase + 2 * b2n b.err + 4 * b2n b.perr) % 256 ∧
    stashRead t core (off + 10) 2 = b.cause % 2 ^ 16 := by
  have hfield := fun (l : List Byte) (n v : Nat) => stashRead_stashWrite_field hw core off (l := l) (bs := barBytes b) (n := n) (v := v)
  have hpend := hfield [] 4 b.pend (by simp [barBytes])
  have harr := hfield (leBytes 4 b.pend) 4 b.arr (by simp [barBytes])
  have hstate := hfield (leBytes 4 b.pend ++ leBytes 4 b.arr) 1 (b2n b.phase + 2 * b2n b.err + 4 * b2n b.perr) (by simp [barBytes])
  have hcause := hfield ((barBytes b).take 10) 2 b.cause ⟨leBytes 4 0, rfl⟩
  simp only [List.length_append, List.length_take, barBytes_length, leBytes_length] at hpend harr hstate hcause
  exact ⟨hpend, harr, hstate, hcause⟩

theorem barRead_barWrite {s : State} {b : Bar} (hw : Memory.wf s.stash = true) (hpend : b.pend < 2 ^ 32) (harr : b.arr < 2 ^ 32)
    (hcause : b.cause < 1024) (core off : Nat) : barRead (barWrite s core off b) core off = b := by
  obtain ⟨h0, h4, h8, h10⟩ := stashRead_barWrite hw core off b
  obtain ⟨hphase, herr, hperr⟩ := barState_bits b.phase b.err b.perr
  have hcut : b.cause % 2 ^ 16 % 1024 = b.cause := by omega
  simp only [barRead, h0, h4, h8, h10, hphase, herr, hperr, hcut, Nat.mod_eq_of_lt hpend, Nat.mod_eq_of_lt harr]

theorem cellGet_barWrite_out {s : State} (hw : Memory.wf s.stash = true) (core off : Nat) (b : Bar) {x : Nat}
    (hx : x < stashKey core off ∨ stashKey core off + 16 ≤ x) : cellGet (barWrite s core off b).stash x = cellGet s.stash x :=
  cellGet_cellWrite_out hw (by rwa [barBytes_length])

/-! ### Updates (06, R173) -/

theorem barDecr_zero (b : Bar) : barDecr b 0 = b := rfl

/-- A decrement that leaves some of the count. -/
theorem barDecr_below {b : Bar} {d : Nat} (h : d < b.pend) : barDecr b d = { b with pend := b.pend - d } := by
  by_cases hd : d = 0
  · simp [barDecr, hd]
  · have hleft : b.pend - d ≠ 0 := by omega
    simp [barDecr, hd, Nat.not_lt.mpr (Nat.le_of_lt h), hleft]

/-- A decrement of the whole count flips. -/
theorem barDecr_flip {b : Bar} (h : b.pend ≠ 0) : barDecr b b.pend =
    { b with phase := !b.phase, err := b.perr, perr := false, pend := b.arr, cause := if b.perr then b.cause else 0 } := by
  simp [barDecr, h]

/-- A decrement that exceeds the count is an error of the phase, and flips. -/
theorem barDecr_underflow {b : Bar} {d : Nat} (h : b.pend < d) : barDecr b d =
    { b with phase := !b.phase, err := true, perr := false, pend := b.arr, cause := if b.perr then b.cause else causeCode .barOvf } := by
  have hd : d ≠ 0 := by omega
  simp [barDecr, barError, hd, h]

/-- Settles O27: a decrement of nothing, below the count, of the whole count and beyond it. -/
theorem barriersCountAndFlip : Obligations.BarriersCountAndFlip := by
  unfold Obligations.BarriersCountAndFlip
  intro b d
  refine ⟨barDecr_zero b, fun _ h => barDecr_below h, fun hd h => ?_, barDecr_underflow⟩
  subst h
  exact barDecr_flip hd

/-! ### The checks of the offset (06, R174) -/

section
variable {s : State} {a : SReg} {k : Nat → Res}

theorem barAt_misaligned (h : (rs s a).toNat % 16 ≠ 0) : barAt s a k = trapS s .align (rs s a).toNat := by
  simp [barAt, h]

theorem barAt_outside (h : (rs s a).toNat % 16 = 0) (hout : inAllot s s.g (rs s a).toNat 16 = false) :
    barAt s a k = trapS s .stashRange (stashWindow + (rs s a).toNat % 2 ^ 20) := by
  simp [barAt, h, hout]

theorem barAt_inside (h : (rs s a).toNat % 16 = 0) (hin : inAllot s s.g (rs s a).toNat 16 = true) : barAt s a k = k (rs s a).toNat := by
  simp [barAt, h, hin]

end

/-! ### The bar family (06, R174-R175) -/

section
variable {s : State} {d a : SReg} (hs : Safety.settled s [d, a])
include hs

/-- Every member that names a barrier checks its offset first. -/
theorem exec_bar_checks {i : Instr} (hi : i ∈ [Instr.binit d a, .bexpect d a, .barrive a, .bwait d a, .btest d a]) :
    ∃ k, exec i s = barAt s a k := by
  have harrive : Safety.settled s [a] := settled_sub hs (by simp)
  simp only [List.mem_cons, List.not_mem_nil, or_false] at hi
  rcases hi with rfl | rfl | rfl | rfl | rfl
  · exact ⟨_, needS_ready hs⟩
  · exact ⟨_, needS_ready hs⟩
  · exact ⟨_, needS_ready harrive⟩
  · exact ⟨_, needS_ready hs⟩
  · exact ⟨_, needS_ready hs⟩

variable (hal : (rs s a).toNat % 16 = 0) (hin : inAllot s s.g (rs s a).toNat 16 = true)
include hal hin

theorem exec_binit : exec (.binit d a) s =
    let n := (rs s d).toNat
    if n = 0 ∨ 2 ^ 32 ≤ n then trapS s .barOvf
    else .next (advance (barWrite s s.g.core (rs s a).toNat
      { pend := n, arr := n, phase := false, err := false, perr := false, cause := 0 })) := by
  change execBinit d a s = _
  rw [execBinit, needS_ready hs, barAt_inside hal hin]
  simp only [Bool.or_eq_true, decide_eq_true_eq]

theorem exec_bexpect : exec (.bexpect d a) s =
    let b := barRead s s.g.core (rs s a).toNat
    if 2 ^ 32 ≤ b.pend + (rs s d).toNat then trapS s .barOvf
    else .next (advance (barWrite s s.g.core (rs s a).toNat { b with pend := b.pend + (rs s d).toNat })) := by
  change execBexpect d a s = _
  rw [execBexpect, needS_ready hs, barAt_inside hal hin]

/-- An arrival waits for the stores to the stash as a fence of scope 2 does (05, R121). -/
theorem exec_barrive (hq : (cur s).cq = []) (hp : pathCount s s.g.key 1 = 0) : exec (.barrive a) s =
    let b := barRead s s.g.core (rs s a).toNat
    if b.pend = 0 then trapS s .barOvf else .next (advance (barWrite s s.g.core (rs s a).toNat (barDecr b 1))) := by
  change execBarrive a s = _
  have hfence : ∀ k, fenced s 2 k = k := fun k => by simp [fenced, clausesIssued, hq, scopePaths, hp]
  rw [execBarrive, needS_ready (settled_sub hs (by simp)), barAt_inside hal hin, hfence]
  simp only [Nat.lt_one_iff]
  rfl

theorem exec_bwait : exec (.bwait d a) s =
    let b := barRead s s.g.core (rs s a).toNat
    if b.phase = (rs s d).getLsbD 0 then waitFor s (.barrier (rs s a).toNat b.phase)
    else if b.err then .next (takeTrap (advance s)
      { cause := causeOfCode b.cause, slot := s.slot, addr := stashWindow + (rs s a).toNat })
    else .next (advance s) := by
  change execBwait d a s = _
  rw [execBwait, needS_ready hs, barAt_inside hal hin]

theorem exec_btest : exec (.btest d a) s =
    let b := barRead s s.g.core (rs s a).toNat
    .next (advance (ws s d (BitVec.ofNat 64 (b2n b.phase + 2 * b2n b.err)))) := by
  change execBtest d a s = _
  rw [execBtest, needS_ready hs, barAt_inside hal hin]

end

/-! ### Buffer-free bits (06, R177) -/

theorem parcelOf_key {s : State} {k : PKey} {p : Parcel} (h : parcelOf s k = some p) : p.key = k := by
  simpa using List.find?_some h

/-- A parcel that is there reads back as it was set. -/
theorem parcelOf_setParcel {s : State} {k : PKey} {p q : Parcel} (h : parcelOf s k = some p) (hq : q.key = k) :
    parcelOf (setParcel s q) k = some q := by
  subst hq
  have hkey : (fun x : Parcel => decide (x.key = q.key)) ∘ (fun x => if x.key = q.key then q else x) =
      fun x : Parcel => decide (x.key = q.key) := by
    funext x
    by_cases hx : x.key = q.key <;> simp [hx]
  have hfind : s.parcels.find? (fun x => x.key = q.key) = some p := h
  simp only [parcelOf, setParcel, List.find?_map, hkey, hfind, Option.map_some, parcelOf_key h, if_true]

theorem advance_regs (s : State) : (advance s).g.s = s.g.s := by rw [moved_advance s]

theorem exec_mfree {s : State} {p : Parcel} (h : parcelOf s (parcelKey s.g) = some p) (i : BitVec 4) :
    exec (.mfree i) s = .next (advance (setParcel s { p with bfree := p.bfree ||| (1#16 <<< i.toNat) })) := by
  change execMfree i s = _
  simp only [execMfree, h]

/-! ### The statement -/

/-- Settles O28: the fields of a barrier read back, each member of the family does what its equation above says, and `mfree` sets
its bit. -/
theorem barFamilyActsOnTheBarrier : Obligations.BarFamilyActsOnTheBarrier := by
  unfold Obligations.BarFamilyActsOnTheBarrier
  refine ⟨fun s core off b hw hpend harr hcause => ?_, fun s d a hs => ⟨fun i hi => ?_, fun hal hin => ?_⟩, fun s i p hp => ?_⟩
  · -- the bytes
    exact ⟨barRead_barWrite hw hpend harr hcause core off, fun x => cellGet_barWrite_out hw core off b⟩
  · -- the offset
    obtain ⟨k, hk⟩ := exec_bar_checks hs hi
    exact ⟨fun h => hk.trans (barAt_misaligned h), fun h hout => hk.trans (barAt_outside h hout)⟩
  · -- each member, at a barrier of the allotment
    have hbinit := exec_binit hs hal hin
    have hbexpect := exec_bexpect hs hal hin
    have hbwait := exec_bwait hs hal hin
    refine ⟨fun h => hbinit.trans (if_pos h), fun h0 h1 => hbinit.trans (if_neg (by omega)), fun h => hbexpect.trans (if_pos h),
      fun h => hbexpect.trans (if_neg (by omega)), fun hq hp => ?_, fun h => hbwait.trans (if_pos h), fun hne hok => ?_,
      fun hne herr => ?_, sets_of (exec_btest hs hal hin) rfl⟩
    · have hbarrive := exec_barrive hs hal hin hq hp
      exact ⟨fun h => hbarrive.trans (if_pos h), fun h => hbarrive.trans (if_neg h)⟩
    · exact ⟨_, hbwait.trans ((if_neg hne).trans (if_neg (by simp [hok]))), passed_advance s⟩
    · exact hbwait.trans ((if_neg hne).trans (if_pos herr))
  · -- mfree
    refine ⟨_, exec_mfree hp i, ?_, advance_regs _, rfl⟩
    have hkey : p.key = parcelKey s.g := parcelOf_key hp
    have hread := parcelOf_setParcel (q := { p with bfree := p.bfree ||| (1#16 <<< i.toNat) }) hp hkey
    exact congrArg (Option.map Parcel.bfree) hread

end Sys2Proof.Barriers
end

section
/-!
OBLIGATION O48. The streamer's commands, sectors, maps, multicasts and fills (06, R159, R165, R168-R169, R177).
-/

namespace Sys2Proof.Streamer
open Sys2Proof Sys2Proof.Machine Sys2Proof.Barriers

/-! ### Commands start (06, R165, R169, R177) -/

section
variable {s : State} {k : PKey} {p : Parcel} {c : Cmd} {r : List Cmd} (hp : parcelOf s k = some p) (hc : p.cmds = c :: r)
  (hrun : coreRuns s p.pid p.core = true)
include hp hc hrun

/-- The oldest command starts unless it is a map operation or a multicast, which have events of their own. -/
theorem exec_streamerCommandStart : exec (.streamerCommandStart k) s =
    .next (if cmdMAP c = true ∨ cmdKind c = 6 then s
      else setParcel s { p with cmds := r, started := p.started ++ [⟨c, [], 0, none⟩] }) := by
  change execStreamerCommandStart k s = _
  simp only [execStreamerCommandStart, hp, headCmd, hc, hrun, List.head?_cons, List.drop_succ_cons, List.drop_zero, Bool.not_true,
    Bool.or_false, Bool.or_eq_true, decide_eq_true_eq]
  split <;> rfl

/-- With no map operation started, the oldest command starts if it is one and nothing before it is under way. -/
theorem exec_mapOperation_head (hnone : ∀ x ∈ p.started, cmdMAP x.cmd = false) : exec (.mapOperation k) s =
    .next (if cmdMAP c = true ∧ p.started = [] then startMap s p c else s) := by
  change execMapOperation k s = _
  have hfind : p.started.find? (fun x => cmdMAP x.cmd) = none := List.find?_eq_none.mpr fun x hx => by simp [hnone x hx]
  simp only [execMapOperation, hp, hrun, hfind, headCmd, hc, List.head?_cons, Bool.not_true, Bool.and_eq_true, decide_eq_true_eq]
  rfl

variable (hkind : cmdKind c = 6) (hmap : cmdMAP c = false)
include hkind hmap

/-- A multicast with a receiver that is not sound ends, and nothing is sent (06, R177). -/
theorem exec_mcastStart_unsound (hok : castOk s p c = false) : exec (.mcastStart k) s =
    .next (endFault (setParcel s { p with cmds := r }) { p with cmds := r } c [] 0 .qBaddesc) := by
  change execMcastStart k s = _
  simp [execMcastStart, hp, headCmd, hc, hrun, hkind, hmap, hok]

variable (hok : castOk s p c = true)
include hok

/-- A multicast waits while its buffer is taken in a receiver (06, R177). -/
theorem exec_mcastStart_waits (htaken : ∃ n ∈ receivers c, ∀ q, parcelOf s ⟨k.launch, n⟩ = some q →
    q.bfree.getLsbD (cmdArg c 32 4) = false) : exec (.mcastStart k) s = .next s := by
  change execMcastStart k s = _
  simp only [execMcastStart, hp, headCmd, hc, hrun, hkind, hmap, hok, List.head?_cons]
  refine (if_neg (by decide)).trans ((if_neg (by decide)).trans (if_pos ?_))
  obtain ⟨n, hn, htaken⟩ := htaken
  rw [Bool.not_eq_true', List.all_eq_false]
  refine ⟨n, hn, ?_⟩
  cases hq : parcelOf s ⟨k.launch, n⟩ with
  | none => simp
  | some q => simp [htaken q hq]

/-- A multicast starts once its buffer is free in every receiver (06, R177). -/
theorem exec_mcastStart_begins {q : Parcel} (hfree : ∀ n ∈ receivers c, ∃ q, parcelOf s ⟨k.launch, n⟩ = some q ∧
    q.bfree.getLsbD (cmdArg c 32 4) = true) (hq : parcelOf (castBegin s p c) k = some q) : exec (.mcastStart k) s =
    .next (setParcel (castBegin s p c) { q with cmds := q.cmds.drop 1, started := q.started ++ [⟨c, [], 0, none⟩] }) := by
  change execMcastStart k s = _
  simp only [execMcastStart, hp, headCmd, hc, hrun, hkind, hmap, hok, hq, List.head?_cons]
  refine (if_neg (by decide)).trans ((if_neg (by decide)).trans (if_neg ?_))
  rw [Bool.not_eq_true', Bool.not_eq_false, List.all_eq_true]
  intro n hn
  obtain ⟨q, hq, hbit⟩ := hfree n hn
  simpa only [hq] using hbit

end

/-! ### Map operations (06, R169) -/

/-- A started map operation goes on unless a page fault has paused it. -/
theorem exec_mapOperation_started {s : State} {k : PKey} {p : Parcel} {x : Started} (hp : parcelOf s k = some p)
    (hrun : coreRuns s p.pid p.core = true) (hx : p.started.find? (fun x => cmdMAP x.cmd) = some x) :
    exec (.mapOperation k) s = .next (if x.paused.isSome then s else carryMap s p x) := by
  change execMapOperation k s = _
  simp only [execMapOperation, hp, hrun, hx]
  rfl

/-- The parcel with its oldest command started. -/
def begun (p : Parcel) (c : Cmd) : Parcel := { p with cmds := p.cmds.drop 1, started := p.started ++ [⟨c, [], 0, none⟩] }

/-- The new range of a map operation overlaps another entry of the parcel. -/
def mapClashes (p : Parcel) (c : Cmd) : Prop :=
  mapOp c = 0 ∧ ∃ i < 16, i ≠ mapEntry c ∧ ∃ e, p.maps.getD i none = some e ∧ overlaps e (newEntry c) = true

/-- What `startMap` does: it ends the command whose range overlaps another entry, and goes on with any other. -/
theorem startMap_cases (s : State) (p : Parcel) (c : Cmd) :
    (mapClashes p c → startMap s p c = endFault (setParcel s (begun p c)) (begun p c) c [] 0 .qBaddesc) ∧
    (¬mapClashes p c → startMap s p c = carryMap (setParcel s (begun p c)) (begun p c) ⟨c, [], 0, none⟩) := by
  have hclash : (mapOp c = 0 && (List.range 16).any (fun i => i != mapEntry c && (match p.maps.getD i none with
      | some e => overlaps e (newEntry c)
      | none => false))) = true ↔ mapClashes p c := by
    rw [mapClashes, Bool.and_eq_true, decide_eq_true_eq, List.any_eq_true]
    refine and_congr_right fun _ => exists_congr fun i => ?_
    cases p.maps.getD i none <;> simp
  exact ⟨fun h => if_pos (hclash.mpr h), fun h => if_neg (mt hclash.mp h)⟩

/-- A map operation on a free entry has nothing to write back. -/
theorem carryMap_free {s : State} {p : Parcel} {x : Started} (h : p.maps.getD (mapEntry x.cmd) none = none) :
    carryMap s p x = finishMap s p.key x.cmd := by
  simp only [carryMap, h]

/-! ### Sectors (06, R165-R166, R168) -/

section
variable {s : State} {k : PKey} {seq i : Nat} {p : Parcel} {x : Started} (hp : parcelOf s k = some p) (hx : startedOf p seq = some x)
include hp hx

/-- A sector that has landed, that its command has not, or that is a map operation's neither lands nor faults. -/
theorem exec_sector_idle (h : x.landed.contains i = true ∨ landings x.cmd ≤ i ∨ cmdMAP x.cmd = true) :
    exec (.sectorLands k seq i) s = .next s ∧ ∀ c, exec (.streamerFault k seq i c) s = .next s := by
  change execSectorLands k seq i s = _ ∧ ∀ c, execStreamerFault k seq i c s = _
  rw [List.contains_iff_mem] at h
  simp only [execSectorLands, execStreamerFault, hp, hx]
  rcases h with h | h | h <;> simp [h]

variable (hlt : i < landings x.cmd) (hnew : x.landed.contains i = false) (hon : x.paused = none) (hmap : cmdMAP x.cmd = false)
include hlt hnew hon hmap

theorem exec_sectorLands (hrun : coreRuns s p.pid p.core = true) : exec (.sectorLands k seq i) s = .next (advanceSector s p x i) := by
  change execSectorLands k seq i s = _
  simp only [execSectorLands, hp, hx, hnew, hon, hmap, hrun, Nat.not_le.mpr hlt]
  rfl

theorem exec_streamerFault (c : Cause) : ∃ a, exec (.streamerFault k seq i c) s = .next (sectorFault s p x i c a) := by
  change ∃ a, execStreamerFault k seq i c s = _
  simp only [execStreamerFault, hp, hx, hnew, hon, hmap, Nat.not_le.mpr hlt]
  exact ⟨_, rfl⟩

end

section
variable {s : State} {p : Parcel} {x : Started} {i : Nat} {o : Op}

theorem parts_answered {ps : List Part} (h : ∀ q ∈ ps, q.st = .done ∧ q.err = none) :
    ps.any (fun q => q.st != .done) = false ∧ ps.find? (fun q => q.err.isSome) = none := by
  refine ⟨List.any_eq_false.mpr fun q hq => ?_, List.find?_eq_none.mpr fun q hq => ?_⟩
  · simp [(h q hq).1]
  · simp [(h q hq).2]

variable (hparts : ∀ q ∈ o.parts, q.st = .done ∧ q.err = none) (hbehind : replyBehind s o = false)
include hparts hbehind

/-- A sector whose write has been answered has landed. -/
theorem advanceSector_written (ho : engineOf s ⟨p.key.launch, p.prodGid⟩ [p.key.idx, x.cmd.seq, i, 1] = some o) :
    advanceSector s p x i = sectorDone (dropOp s o.id) p x i := by
  obtain ⟨hdone, hgood⟩ := parts_answered hparts
  simp only [advanceSector, ho, hdone, hgood, hbehind]
  rfl

/-- A sector whose reads have been answered is written. -/
theorem advanceSector_read (hnone : engineOf s ⟨p.key.launch, p.prodGid⟩ [p.key.idx, x.cmd.seq, i, 1] = none)
    (ho : engineOf s ⟨p.key.launch, p.prodGid⟩ [p.key.idx, x.cmd.seq, i, 0] = some o) :
    advanceSector s p x i = writeSector (dropOp s o.id) p x i (sectorData x.cmd i o.parts) := by
  obtain ⟨hdone, hgood⟩ := parts_answered hparts
  simp only [advanceSector, hnone, ho, hdone, hgood, hbehind]
  rfl

end

/-! ### Fills of mapped lines (06, R159) -/

section
variable {s : State} {k : PKey} {line : Nat} {p : Parcel} (hp : parcelOf s k = some p)
include hp

theorem exec_mappedFillLands_none (h : p.mfill.contains line = false) : exec (.mappedFillLands k line) s = .next s := by
  change execMappedFillLands k line s = _
  simp only [execMappedFillLands, hp, h]
  rfl

/-- A fill lands once its reads are answered, behind the replies sent before them. -/
theorem exec_mappedFillLands {o : Op} (h : p.mfill.contains line = true) (ho : fillOp s k line = some o) :
    exec (.mappedFillLands k line) s =
      .next (if (∃ q ∈ o.parts, q.st ≠ .done) ∨ replyBehind s o = true then s else landFill (dropOp s o.id) p line o.g o.parts) := by
  change execMappedFillLands k line s = _
  simp [execMappedFillLands, hp, List.contains_iff_mem.mp h, ho]

end

/-! ### The statement -/

/-- Settles O48: each event and each step of a sector or map is its own equation above, the conditions of the statement deciding
its branch. -/
theorem streamerEventsRunCommands : Obligations.StreamerEventsRunCommands := by
  unfold Obligations.StreamerEventsRunCommands
  refine ⟨?_, ?_, ?_, ?_, ?_, ?_⟩
  · -- the oldest command
    intro s k p c r hp hc hrun
    have hstart := exec_streamerCommandStart hp hc hrun
    have hhead := exec_mapOperation_head hp hc hrun
    refine ⟨fun hmap hkind => ⟨_, hstart, if_neg (by simp [hmap, hkind])⟩, fun h => ?_, fun hmap hnil => ?_, fun hnone h => ?_,
      fun hkind hmap => ⟨fun hok => ?_, fun hok => ⟨fun htaken => ?_, fun q hfree hq => ?_⟩⟩⟩
    · rw [hstart, if_pos h]
    · exact ⟨_, hhead (by simp [hnil]), if_pos ⟨hmap, hnil⟩⟩
    · rw [hhead hnone, if_neg]
      rintro ⟨hmap, hnil⟩
      exact h.elim (by simp [hmap]) (· hnil)
    · exact ⟨_, exec_mcastStart_unsound hp hc hrun hkind hmap hok, rfl⟩
    · exact exec_mcastStart_waits hp hc hrun hkind hmap hok htaken
    · exact ⟨_, exec_mcastStart_begins hp hc hrun hkind hmap hok hfree hq, rfl⟩
  · -- a started map operation
    intro s k p x hp hrun hx
    have hmapOp := exec_mapOperation_started hp hrun hx
    refine ⟨fun hon => ⟨_, hmapOp, ?_⟩, fun hpaused => ?_⟩
    · simp [hon]
    · rw [hmapOp, if_pos (Option.isSome_iff_ne_none.mpr hpaused)]
  · -- the start of a map operation
    intro s p c p1
    obtain ⟨hclash, hgo⟩ := startMap_cases s p c
    refine ⟨hclash, fun hno hentry => (hgo ?_).trans (carryMap_free hentry)⟩
    rintro ⟨hop, i, hi, hne, e, he, hover⟩
    rcases hno with hno | hno
    · exact hno hop
    · simp [hno i hi hne e he] at hover
  · -- a sector's events
    intro s k seq i p x hp hx
    refine ⟨exec_sector_idle hp hx, fun hlt hnew hon hmap => ⟨fun hrun => ?_, fun c => ?_⟩⟩
    · exact ⟨_, exec_sectorLands hp hx hlt hnew hon hmap hrun, rfl⟩
    · obtain ⟨a, ha⟩ := exec_streamerFault hp hx hlt hnew hon hmap c
      exact ⟨_, ha, a, rfl⟩
  · -- a sector from its reads to its landing
    exact fun s p x i o => ⟨fun ho hparts hbehind => advanceSector_written hparts hbehind ho,
      fun hnone ho hparts hbehind => advanceSector_read hparts hbehind hnone ho⟩
  · -- a fill
    intro s k line p hp
    refine ⟨exec_mappedFillLands_none hp, fun o h ho => ?_⟩
    have hfill := exec_mappedFillLands hp h ho
    refine ⟨fun hwait => hfill.trans (congrArg _ (if_pos hwait)), fun hdone hbehind => ⟨_, hfill, if_neg ?_⟩⟩
    rintro (⟨q, hq, hopen⟩ | hb)
    · exact hopen (hdone q hq)
    · simp [hbehind] at hb

end Sys2Proof.Streamer
end

section
/-!
OBLIGATION O19. `step` and `stepq` close a step and enter the next one (07, R195; 20, R381).
-/

namespace Sys2Proof.StepRule
open Sys2Proof Sys2Proof.Machine Sys2Proof.DeviceViews

/-! ### `step` and `stepq` up to the close (07, R195; log 32) -/

/-- The group may close its step: a group of cells in user state, its lanes on one path. -/
def Plain (s : State) : Prop :=
  s.g.handler = none ∧ s.g.park = none ∧ s.g.super = false ∧ (pathOf s.g (!s.slot)).occ = false ∧ s.g.spillCnt = 0

/-- The close of `step` and `stepq` has nothing left to wait for and leaves `u`: between steps nothing is to be closed. -/
def Closes (s u : State) (i : Instr) : Prop :=
  u = s ∧ s.g.isOpen = false ∨
  u = closeStep s ∧ s.g.isOpen = true ∧ storesAccepted s s.g.key = true ∧
    ((cur s).wait = some (.stepClose true) ∨
      tellPeers s i 5 = none ∧ ((cur s).wait = some (.stepClose false) ∨ writeBack s i = none))

section
variable {s : State} {i : Instr} {k : State → Res}

theorem closing_not_plain (h : ¬Plain s) : closing s i k = .next (takeTrap s { cause := .stepDiv, slot := s.slot }) := by
  have hbad : (s.g.handler.isSome || s.g.park.isSome || s.g.super || !closing.reconvergedG s s.g) = true := by
    refine Decidable.byContradiction fun hn => h ?_
    simpa [Plain, closing.reconvergedG, and_assoc] using hn
  unfold closing
  exact if_pos hbad

theorem closing_plain (h : Plain s) : closing s i k =
    if !clausesDone s then waitFor s .earlier
    else if !s.g.isOpen then k s
    else match (cur s).wait with
      | some (.stepClose told) => closing.closeWritten s i told k
      | _ => match writeBack s i with
        | some s' => waitFor s' (.stepClose false)
        | none => closing.closeWritten s i false k := by
  obtain ⟨hhandler, hpark, hsuper, hocc, hspill⟩ := h
  unfold closing
  exact if_neg (by simp [closing.reconvergedG, hhandler, hpark, hsuper, hocc, hspill])

theorem closing_early (h : Plain s) (hd : clausesDone s = false) : closing s i k = waitFor s .earlier := by
  simp [closing_plain h, hd]

variable (h : Plain s) (hd : clausesDone s = true)
include h hd

theorem closing_between (ho : s.g.isOpen = false) : closing s i k = k s := by
  simp [closing_plain h, hd, ho]

variable (ho : s.g.isOpen = true)
include ho

/-- A close that has written its mapped words back goes on from where it waited. -/
theorem closing_begun {told : Bool} (hw : (cur s).wait = some (.stepClose told)) :
    closing s i k = closing.closeWritten s i told k := by
  simp [closing_plain h, hd, ho, hw]

variable (hf : (cur s).wait ≠ some (.stepClose false)) (ht : (cur s).wait ≠ some (.stepClose true))
include hf ht

/-- A close that begins writes the mapped words back. -/
theorem closing_begins : (∀ u, writeBack s i = some u → closing s i k = waitFor u (.stepClose false)) ∧
    (writeBack s i = none → closing s i k = closing.closeWritten s i false k) := by
  simp only [closing_plain h, hd, ho, Bool.not_true, Bool.false_eq_true, if_false]
  split
  · rename_i told hw
    cases told
    · exact absurd hw hf
    · exact absurd hw ht
  · exact ⟨fun u hback => by simp only [hback], fun hback => by simp only [hback]⟩

end

section
variable {s : State} {i : Instr} {told : Bool} {k : State → Res}

theorem closeWritten_waits (hs : storesAccepted s s.g.key = false) : closing.closeWritten s i told k = waitFor s (.stepClose told) := by
  simp [closing.closeWritten, hs]

variable (hs : storesAccepted s s.g.key = true)
include hs

theorem closeWritten_tells {u : State} (ht : tellPeers s i 5 = some u) :
    closing.closeWritten s i false k = waitFor u (.stepClose true) := by
  simp [closing.closeWritten, hs, ht]

theorem closeWritten_closes (ht : told = true ∨ tellPeers s i 5 = none) : closing.closeWritten s i told k = k (closeStep s) := by
  rcases ht with ht | ht <;> simp [closing.closeWritten, hs, ht]

end

/-- Both instructions go on with what they do from the state that the close leaves. -/
theorem closing_closes {s u : State} {i : Instr} {k : State → Res} (h : Plain s) (hd : clausesDone s = true) (hc : Closes s u i) :
    closing s i k = k u := by
  rcases hc with ⟨hu, ho⟩ | ⟨hu, ho, hs, hwait⟩
  · rw [hu, closing_between h hd ho]
  · rw [hu]
    by_cases ht : (cur s).wait = some (.stepClose true)
    · rw [closing_begun h hd ho ht, closeWritten_closes hs (.inl rfl)]
    · obtain ⟨hnone, hwritten⟩ := hwait.resolve_left ht
      by_cases hf : (cur s).wait = some (.stepClose false)
      · rw [closing_begun h hd ho hf, closeWritten_closes hs (.inr hnone)]
      · rw [(closing_begins h hd ho hf ht).2 (hwritten.resolve_left hf), closeWritten_closes hs (.inr hnone)]

theorem exec_stepq {s : State} {d : BitVec 6} (hd : Safety.settled s [d]) : exec (.stepq d) s =
    closing s (.stepq d) (fun t => if mayEnter t t.g then .next (advance (ws (enterStep t) d 1#64))
      else if (cutOf t t.g.key.launch).isSome then waitFor t .cutHold
      else .next (advance (ws t d 0#64))) :=
  needS_ready hd

/-- `step`, and `stepq` of a register that awaits no load, begin with the close. -/
theorem exec_step_begins {s : State} {i : Instr}
    (hi : i ∈ [Instr.step] ++ (List.range 64).map (fun d => Instr.stepq (BitVec.ofNat 6 d)))
    (hd : ∀ d, i = .stepq d → Safety.settled s [d]) : ∃ k, exec i s = closing s i k := by
  rcases List.mem_append.mp hi with hi | hi
  · exact ⟨_, by rw [List.mem_singleton.mp hi]; rfl⟩
  · obtain ⟨d, -, rfl⟩ := List.mem_map.mp hi
    exact ⟨_, exec_stepq (hd _ rfl)⟩

/-- Settles O19: both instructions begin with the close, whose stages are the equations above; what follows it is the entry. -/
theorem stepsCloseAndEnter : Obligations.StepsCloseAndEnter := by
  unfold Obligations.StepsCloseAndEnter
  refine ⟨fun s => ⟨fun hn => ?_, fun h hd => ?_, fun i hi hset h hd ho => ?_⟩, fun s u => ?_⟩
  · -- a group that may not close
    exact ⟨closing_not_plain hn, fun d hset => (exec_stepq hset).trans (closing_not_plain hn)⟩
  · -- clauses that have not completed
    exact ⟨closing_early h hd, fun d hset => (exec_stepq hset).trans (closing_early h hd)⟩
  · -- the waits of the close
    obtain ⟨k, hk⟩ := exec_step_begins hi hset
    refine ⟨fun u hf ht hback => ?_, fun told hw hs => ?_, fun u hw hs htell => ?_⟩
    · rw [hk, (closing_begins h hd ho hf ht).1 u hback]
    · rw [hk, closing_begun h hd ho hw, closeWritten_waits hs]
    · rw [hk, closing_begun h hd ho hw, closeWritten_tells hs htell]
  · -- the entry
    intro plain closes h hd
    refine ⟨fun hc => ?_, fun d hset hc => ?_⟩
    · have hstep : exec .step s = _ := closing_closes h hd hc
      exact ⟨fun hm => ⟨_, hstep.trans (if_pos hm), rfl⟩, fun hm => hstep.trans (if_neg (by simp [hm]))⟩
    · have hstepq := (exec_stepq hset).trans (closing_closes h hd hc)
      refine ⟨fun hm => ⟨_, hstepq.trans (if_pos hm), rfl⟩, fun hm hcut => ⟨_, hstepq.trans ?_, rfl⟩,
        fun hm hcut => hstepq.trans ?_⟩
      · rw [if_neg (by simp [hm]), if_neg (by simp [hcut])]
      · rw [if_neg (by simp [hm]), if_pos (Option.isSome_iff_ne_none.mpr hcut)]

end Sys2Proof.StepRule
end

section
/-!
OBLIGATION O41. The events of the step rule: close, entry, announcements, margin values (07, R191-R193, R203).
-/

namespace Sys2Proof.StepEvents
open Sys2Proof Sys2Proof.Machine Sys2Proof.DeviceViews

/-! ### What leaves the focused group and the stashes alone -/

/-- From `s` to `t` the group in focus and the stashes are the same. -/
def Keeps (s t : State) : Prop := t.g = s.g ∧ t.stash = s.stash

theorem Keeps.refl (s : State) : Keeps s s := ⟨rfl, rfl⟩

theorem Keeps.trans {s t u : State} (h : Keeps s t) (h' : Keeps t u) : Keeps s u := ⟨h'.1.trans h.1, h'.2.trans h.2⟩

theorem keeps_foldl {α : Type} {f : State → α → State} (h : ∀ t x, Keeps t (f t x)) (l : List α) (s : State) :
    Keeps s (l.foldl f s) := by
  induction l generalizing s with
  | nil => exact .refl s
  | cons x l ih => exact (h s x).trans (ih _)

/-! ### Publication and snapshot of a step (12, R261-R264) -/

theorem wroteWord_keeps (s : State) (whole : Bool) (w : Nat) : Keeps s (wroteWord s whole w) := by
  unfold wroteWord
  split
  · exact .refl s
  · exact ⟨setLine_g .., setLine_stash ..⟩

theorem publishTag_keeps (s : State) (core launch win : Nat) (ws : List GKey) : Keeps s (publishTag s core 5 launch win ws) := by
  have hbytes : ∀ l : List Spec, Keeps s (l.foldl (fun t x =>
      publishByte { t with unpub := t.unpub.filter (fun u => !(u.core = core && u.addr = x.addr)) } core 5 x.addr x.val ws) s) := by
    intro l
    refine keeps_foldl (fun t x => ?_) l s
    exact ⟨rfl, rfl⟩
  unfold publishTag
  exact (hbytes _).trans (.trans ⟨rfl, rfl⟩ (keeps_foldl (fun t w => wroteWord_keeps t _ w) _ _))

theorem commitMarks_keeps (s : State) (g : Group) : Keeps s (commitMarks s g 5) := by
  unfold commitMarks
  split
  · exact .refl s
  · rename_i l _
    have hmarks := keeps_foldl (f := fun t (m : GKey × Nat × Nat) => publishTag t g.core 5 l.handle m.2.1 [g.key])
      (fun t m => publishTag_keeps t ..)
    dsimp only
    split
    · exact hmarks _ s
    · exact (hmarks _ s).trans ⟨rfl, rfl⟩

theorem settleBack_keeps (s : State) (g : Group) : Keeps s (settleBack s g) := by
  unfold settleBack
  split
  · exact .refl s
  · split
    · exact .refl s
    · exact ⟨rfl, rfl⟩

theorem publishGroup_keeps (s : State) (core : Nat) (k : GKey) : Keeps s (publishGroup s core k 5) := by
  obtain ⟨hstash, hg⟩ := publishOver_frame s (fun n => n.core = core && (s.strict || n.writers.contains k))
    (fun u => u.core = core && u.writers.contains k)
  exact ⟨hg, hstash⟩

theorem publicationPoint_keeps (s : State) (g : Group) : Keeps s (publicationPoint s g 5) :=
  ((settleBack_keeps s g).trans (publishGroup_keeps ..)).trans (commitMarks_keeps ..)

theorem acquire_keeps (s : State) (core : Nat) : Keeps s (acquire s core 5) := by
  unfold acquire
  dsimp only
  split
  · exact ⟨rfl, rfl⟩
  · obtain ⟨hstash, hg⟩ := publishOver_frame s
      (fun n => scopeContains core 5 n.core && !scopeContains n.core n.scope core) (fun _ => false)
    exact ⟨hg, hstash⟩

theorem dropClean_keeps (s : State) (g : Group) : Keeps s (dropClean s g) := by
  unfold dropClean
  split
  · exact .refl s
  · split
    · exact .refl s
    · exact ⟨rfl, rfl⟩

/-- The group in focus, updated under its key. -/
theorem updG_self {s : State} {f : Group → Group} (hlive : s.g.live = true) (hf : (f s.g).key = s.g.key) :
    updG s s.g.key f = { s with g := f s.g } := by
  simp [updG, getG_self hlive, setG, hlive, hf]

/-- `h` is `g` with another snapshot and other published copies. -/
def ViewsOnly (g h : Group) : Prop :=
  h = { g with snap := h.snap, acqAt := h.acqAt, x0 := h.x0, x1 := h.x1, t0 := h.t0, t1 := h.t1 }

theorem ViewsOnly.refl (g : Group) : ViewsOnly g g := rfl

theorem ViewsOnly.trans {g h k : Group} (a : ViewsOnly g h) (b : ViewsOnly h k) : ViewsOnly g k := by
  unfold ViewsOnly at *
  rw [b, a]

theorem takeSnapshot_views {s : State} {g : Group} (hlive : s.g.live = true) (hk : g.key = s.g.key) :
    ViewsOnly s.g (takeSnapshot s g 5).g ∧ (takeSnapshot s g 5).stash = s.stash := by
  obtain ⟨hg, hstash⟩ := acquire_keeps s g.core
  unfold takeSnapshot
  rw [hk, ← hg, updG_self (hg ▸ hlive) rfl]
  exact ⟨rfl, hstash⟩

/-! ### Copies and announcements (07, R187, R191, R193) -/

theorem sendStep_keeps (s : State) (kind dst slice : Nat) (d : Desc) (a b c e : Nat) : Keeps s (sendStep s kind dst slice d a b c e) := by
  have hsettle : ∀ peer sl, Keeps s (settlePair s peer sl) := by
    intro peer sl
    unfold settlePair
    split
    · exact .refl s
    · exact ⟨rfl, rfl⟩
  have hroute : ∀ (t : State) p, Keeps t (enterRouter t p) := by
    intro t p
    unfold enterRouter
    split <;> exact ⟨rfl, rfl⟩
  unfold sendStep
  split
  · unfold enterStepPacket
    dsimp only
    split
    · exact (hsettle ..).trans (hroute ..)
    · exact (hsettle ..).trans ⟨rfl, rfl⟩
  · exact .refl s

theorem landMargin_keeps (s : State) (m : MVal) : Keeps s (landMargin s m) := by
  unfold landMargin
  dsimp only
  split
  · exact .refl s
  · exact ⟨rfl, rfl⟩

theorem sendValue_keeps (s : State) (g : Group) (r l : Nat) : Keeps s (sendValue s g r l) := by
  unfold sendValue
  refine keeps_foldl (fun t p => ?_) _ s
  dsimp only
  split
  · split
    · split
      · exact .refl t
      · split
        · exact landMargin_keeps ..
        · exact ⟨rfl, rfl⟩
    · exact .refl t
  · exact sendStep_keeps ..

theorem announce_keeps (s : State) (g : Group) : Keeps s (announce s g) := by
  unfold announce
  refine keeps_foldl (fun t h => ?_) _ s
  dsimp only
  split
  · split
    · exact .refl t
    · exact ⟨rfl, rfl⟩
  · exact sendStep_keeps ..

theorem reachCut_keeps (s : State) (k : GKey) : Keeps s (reachCut s k) := by
  unfold reachCut
  split <;> exact ⟨rfl, rfl⟩

theorem publishCopy_views (g : Group) (r l : Nat) : ViewsOnly g (publishCopy g r l) := by
  unfold publishCopy
  dsimp only
  split <;> rfl

theorem publishRegs_views (s : State) (l : List (Nat × Nat)) :
    ViewsOnly s.g (publishRegs s l).g ∧ (publishRegs s l).stash = s.stash := by
  unfold publishRegs
  induction l generalizing s with
  | nil => exact ⟨.refl s.g, rfl⟩
  | cons x l ih =>
    rw [List.foldl_cons]
    dsimp only
    split
    · exact ih s
    · obtain ⟨hg, hstash⟩ := sendValue_keeps { s with g := publishCopy s.g x.1 x.2 } (publishCopy s.g x.1 x.2) x.1 x.2
      obtain ⟨hviews, hrest⟩ := ih (sendValue { s with g := publishCopy s.g x.1 x.2 } (publishCopy s.g x.1 x.2) x.1 x.2)
      rw [hg] at hviews
      exact ⟨(publishCopy_views ..).trans hviews, hrest.trans hstash⟩

/-! ### Close and entry (07, R189, R191-R192) -/

/-- Closing a step changes the focused group's snapshot and its copies, and the step is closed. -/
theorem closeStep_views {s : State} (hlive : s.g.live = true) :
    (∃ h, ViewsOnly s.g h ∧ (closeStep s).g = { h with isOpen := false }) ∧ (closeStep s).stash = s.stash := by
  unfold closeStep
  dsimp only
  generalize hs0 : dropClean (publicationPoint s s.g 5) s.g = s0
  obtain ⟨hg0, hstash0⟩ : Keeps s s0 := hs0 ▸ (publicationPoint_keeps s s.g).trans (dropClean_keeps _ s.g)
  generalize hs1 : snapshotPoint (publicationPoint s s.g 5) s.g 5 = s1
  obtain ⟨hg1, hstash1⟩ : ViewsOnly s0.g s1.g ∧ s1.stash = s0.stash := by
    rw [← hs1, snapshotPoint, hs0]
    exact takeSnapshot_views (hg0 ▸ hlive) (congrArg Group.key hg0).symm
  generalize hs2 : publishRegs s1 (allRegs s1.g) = s2
  obtain ⟨hg2, hstash2⟩ : ViewsOnly s1.g s2.g ∧ s2.stash = s1.stash := hs2 ▸ publishRegs_views ..
  generalize hs3 : announce s2 s2.g = s3
  obtain ⟨hg3, hstash3⟩ : Keeps s2 s3 := hs3 ▸ announce_keeps ..
  obtain ⟨hg4, hstash4⟩ := reachCut_keeps { s3 with g := { s3.g with isOpen := false } } s3.g.key
  refine ⟨⟨_, (hg0 ▸ hg1).trans hg2, ?_⟩, ?_⟩
  · exact hg4.trans (congrArg (fun h : Group => { h with isOpen := false }) hg3)
  · exact hstash4.trans (hstash3.trans (hstash2.trans (hstash1.trans hstash0)))

theorem enterStep_views {s : State} (hlive : s.g.live = true) :
    ViewsOnly { s.g with step := s.g.step + 1, isOpen := true } (enterStep s).g :=
  (takeSnapshot_views (s := { s with g := { s.g with step := s.g.step + 1, isOpen := true } }) (g := s.g) hlive rfl).1

theorem finishStep_closes {s : State} (h : (cur s).wait = some (.stepClose true) ∨ tellPeers s .step 5 = none) :
    finishStep s = closeStep s := by
  rcases h with h | h <;> simp [finishStep, h]

theorem finishStep_tells {s u : State} (hw : (cur s).wait ≠ some (.stepClose true)) (h : tellPeers s .step 5 = some u) :
    finishStep s = setCur u { cur u with wait := some (.stepClose true) } := by
  simp [finishStep, hw, h]

theorem exec_stepClose (s : State) (k : GKey) : exec (.stepClose k) s =
    .next (if atClose s k then withFocus s k ((getG s k).elim false (fun g => g.p1.occ)) finishStep else s) := by
  change execStepClose k s = _
  unfold execStepClose
  split <;> rfl

theorem exec_stepEntry {s : State} {k : GKey} {g : Group} (hg : getG s k = some g) : exec (.stepEntry k) s =
    .next (if g.isOpen = false ∧ mayEnter s g = true ∧ g.stop = .running ∧ (pathOf g g.p1.occ).wait = some .stepEntry
      then withFocus s k g.p1.occ (fun t => advance (enterStep t)) else s) := by
  change execStepEntry k s = _
  simp only [execStepEntry, hg, Bool.and_eq_true, Bool.not_eq_true', decide_eq_true_eq, and_assoc]
  split <;> rfl

/-! ### Announcements and margin values (07, R191-R193, R203; logs 77, 78) -/

theorem exec_closeAnnouncement_none {s : State} {n : Nat} (h : s.anns.length ≤ n) : exec (.closeAnnouncement n) s = .next s := by
  change execCloseAnnouncement n s = _
  simp [execCloseAnnouncement, h]

theorem exec_closeAnnouncement {s : State} {n : Nat} {a : Ann} (h : s.anns[n]? = some a) : exec (.closeAnnouncement n) s =
    .next (updG { s with anns := s.anns.eraseIdx n } a.dst (fun g =>
      { g with closedBy := assocSet g.closedBy a.src.gid (max a.step (assocD 0 g.closedBy a.src.gid)) })) := by
  change execCloseAnnouncement n s = _
  simp only [execCloseAnnouncement, h]

theorem exec_marginValueArrival_none {s : State} {slice n : Nat} (h : (inSlice s slice)[n]? = none) :
    exec (.marginValueArrival slice n) s = .next s := by
  change execMarginValueArrival slice n s = _
  simp only [execMarginValueArrival, h]

/-- The oldest value of a slice for a parcel comes into its slot, behind no reply. -/
theorem exec_marginValueArrival {s : State} {slice n : Nat} {m : MVal} (h : (inSlice s slice)[n]? = some m)
    (hfirst : ∀ x ∈ (inSlice s slice).take n, x.launch ≠ m.launch ∨ x.parcel ≠ m.parcel)
    (hreply : replyAhead s slice m.core = false) :
    exec (.marginValueArrival slice n) s = .next (landMargin { s with margin := s.margin.erase m } m) := by
  have hnone : ((inSlice s slice).take n).any (fun x => x.launch = m.launch && x.parcel = m.parcel) = false := by
    rw [List.any_eq_false]
    intro x hx hsame
    obtain ⟨hlaunch, hparcel⟩ : x.launch = m.launch ∧ x.parcel = m.parcel := by
      simpa only [Bool.and_eq_true, decide_eq_true_eq] using hsame
    exact (hfirst x hx).elim (fun h => h hlaunch) (fun h => h hparcel)
  change execMarginValueArrival slice n s = _
  simp [execMarginValueArrival, h, hnone, hreply]

/-- Two values are for one slot of a margin buffer: one reader parcel, source, register and parity (07, R192). -/
def SameSlot (m x : MVal) : Prop :=
  x.launch = m.launch ∧ x.parcel = m.parcel ∧ x.cell = m.cell ∧ x.reg = m.reg ∧ x.tag % 2 = m.tag % 2

theorem landMargin_only (s : State) (m : MVal) : landMargin s m = { s with mbuf := (landMargin s m).mbuf } := by
  unfold landMargin
  dsimp only
  split <;> rfl

/-- A slot never goes back to an earlier tag. -/
theorem landMargin_later {s : State} {m y : MVal} (hy : y ∈ s.mbuf) (hsame : SameSlot m y) (h : noEarlier m.tag y.tag = false) :
    landMargin s m = s := by
  obtain ⟨h1, h2, h3, h4, h5⟩ := hsame
  unfold landMargin
  dsimp only
  rw [if_pos]
  rw [List.any_eq_true]
  exact ⟨y, hy, by simp [h1, h2, h3, h4, h5, h]⟩

/-- A value that no later one of its slot precedes takes the slot. -/
theorem mem_landMargin {s : State} {m : MVal} (h : ∀ x ∈ s.mbuf, SameSlot m x → noEarlier m.tag x.tag = true) (x : MVal) :
    x ∈ (landMargin s m).mbuf ↔ (x ∈ s.mbuf ∧ ¬SameSlot m x) ∨ x = m := by
  unfold landMargin
  dsimp only
  rw [if_neg]
  · simp only [SameSlot, List.mem_append, List.mem_filter, List.mem_singleton, Bool.not_eq_true', ← Bool.not_eq_true, Bool.and_eq_true,
      decide_eq_true_eq, and_assoc]
  · simpa [SameSlot] using h

theorem mem_landMargin_other {s : State} {m x : MVal} (h : ¬SameSlot m x) : x ∈ (landMargin s m).mbuf ↔ x ∈ s.mbuf := by
  by_cases hl : ∃ y ∈ s.mbuf, SameSlot m y ∧ noEarlier m.tag y.tag = false
  · obtain ⟨y, hy, hsame, hlater⟩ := hl
    rw [landMargin_later hy hsame hlater]
  · have hnone : ∀ y ∈ s.mbuf, SameSlot m y → noEarlier m.tag y.tag = true :=
      fun y hy hsame => (Bool.not_eq_false _).mp fun hlater => hl ⟨y, hy, hsame, hlater⟩
    have hne : x ≠ m := fun e => h (e ▸ ⟨rfl, rfl, rfl, rfl, rfl⟩)
    simp only [mem_landMargin hnone, h, hne, not_false_eq_true, and_true, or_false]

/-! ### The statement -/

/-- Settles O41: each event is its own equation above; what a close and an entry leave alone is read off `closeStep_views` and
`enterStep_views`. -/
theorem stepEventsCloseAndEnter : Obligations.StepEventsCloseAndEnter := by
  unfold Obligations.StepEventsCloseAndEnter
  refine ⟨fun s k h => ?_, fun s k g hg h => ⟨_, exec_stepClose s k, ?_⟩,
    fun s => finishStep_closes, fun s u => finishStep_tells, ?_, ?_, ?_,
    fun s n a ha => ⟨_, exec_closeAnnouncement ha, rfl⟩, fun s n => exec_closeAnnouncement_none, ?_, ?_⟩
  · simp [exec_stepClose, h]
  · simp [h, hg]
  · -- what a close leaves alone
    intro s t hlive
    obtain ⟨⟨h, hviews, hg⟩, hstash⟩ := closeStep_views hlive
    have hg : t.g = _ := hg
    rw [hg, hviews]
    exact ⟨rfl, rfl, rfl, rfl, rfl, hstash, rfl, rfl⟩
  · -- entry of a closed group
    intro s k g hg
    refine ⟨fun ho hm hs hw => ⟨_, exec_stepEntry hg, if_pos ⟨ho, hm, hs, hw⟩⟩, fun h => ?_⟩
    rw [exec_stepEntry hg, if_neg]
    rintro ⟨ho, hm, -, -⟩
    rcases h with h | h <;> simp [h] at ho hm
  · -- what an entry changes
    intro s hlive
    rw [enterStep_views hlive]
    exact ⟨rfl, rfl, rfl, rfl⟩
  · -- a margin value arrives
    intro s slice n m l hm hfirst hreply same
    refine ⟨_, exec_marginValueArrival hm hfirst hreply, ?_, fun h => ?_, ?_, fun x hx => mem_landMargin_other hx⟩
    · rw [landMargin_only]
    · have hmem := mem_landMargin (s := { s with margin := s.margin.erase m }) h
      refine ⟨(hmem m).mpr (.inr rfl), fun x hx hsame => ?_⟩
      exact ((hmem x).mp hx).resolve_left (fun hold => hold.2 hsame)
    · rintro ⟨y, hy, hsame, hlater⟩
      rw [landMargin_later (s := { s with margin := s.margin.erase m }) hy hsame hlater]
  · -- no such value among those that the slice forwards
    intro s slice n h
    refine exec_marginValueArrival_none (List.getElem?_eq_none ?_)
    rw [inSlice, List.length_take]
    omega
end Sys2Proof.StepEvents
end

section
/-!
OBLIGATION O32. Sources read through a bearing, and the reads of a lane instruction that has issued (07, R185-R189; 19, R357).
-/

namespace Sys2Proof.LaneReads
open Sys2Proof Sys2Proof.Machine

/-! ### How a lane instruction reads its sources -/

section
variable {s : State} {i : Instr} {e : CEnt} {op : BitVec 10} {f : LaneF} (he : curEnt s = some e) (hi : laneParts i = some (op, f))
include he hi

/-- An instruction that has issued goes on once its halo loads have returned, with what it read as it issued. -/
theorem reads_held {o : Op} (ho : heldOp s i = some o) (hdone : ∀ p ∈ o.parts, p.st = .done ∧ p.err = none) :
    Safety.reads s i (dropHeld s i) (heldIn s e (laneSpec (cxOf s.g (cur s).gfmt) op.toNat f) f o) := by
  have hst : o.parts.any (fun p => p.st != .done) = false := by
    simpa using fun p hp => (hdone p hp).1
  have herr : o.parts.findSome? (fun p => p.err.map (fun x => (p.lane, x))) = none := by
    simpa using fun p hp => (hdone p hp).2
  intro k
  simp only [withLane, he, hi, ho, goHeld, hst, Bool.false_eq_true, if_false, herr]

variable (ho : heldOp s i = none) (hq : queueBad s.g (laneSpec (cxOf s.g (cur s).gfmt) op.toNat f) op.toNat f = false)
include ho hq

theorem withLane_closed {pre : Option Cause} {k : State → LaneIn → Res} (hx : ∃ x ∈ [f.srcA, f.srcB, f.srcC], srcBearing x ≠ 0)
    (hopen : s.g.isOpen = false) : withLane s i pre k = .next (takeTrap s { cause := .stepClosed, slot := s.slot }) := by
  have hany : (srcTypes (laneSpec (cxOf s.g (cur s).gfmt) op.toNat f) f).any (fun x => srcBearing x.1 != 0) = true := by
    simpa [srcTypes] using hx
  simp only [withLane, he, hi, ho, hq, hany, hopen, Bool.not_false, Bool.and_self, Bool.false_eq_true, if_false, if_true]
  rfl

theorem withLane_edge {k : State → LaneIn → Res} {r : NbRead} (hopen : s.g.isOpen = true)
    (hr : (nbReads s.g (lanesOf (actMask s.g e.mask f)) (srcTypes (laneSpec (cxOf s.g (cur s).gfmt) op.toNat f) f)).find?
      (fun r => r.dst = .edge) = some r) :
    withLane s i none k = .next (takeTrap s { cause := .nbEdge, slot := s.slot, lane := some r.lane }) := by
  simp only [withLane, he, hi, ho, hq, hopen, Bool.not_true, Bool.and_false, Bool.false_eq_true, if_false, hr]
  rfl

end

/-- Where the bearings lead depends on the group's place, and on none of its registers. -/
theorem nbReads_congr {g h : Group} (hd : g.d = h.d) (hk : g.key = h.key) (hw : g.width = h.width) (hh : g.handler = h.handler)
    (act : List Nat) (src : List (BitVec 14 × Nat)) : nbReads g act src = nbReads h act src := by
  simp only [nbReads, laneCell, hd, hk, hw, hh]

/-- A held instruction reads no register again. -/
theorem heldIn_congr {s : State} {g : Group} (hd : g.d = s.g.d) (hk : g.key = s.g.key) (hw : g.width = s.g.width)
    (hh : g.handler = s.g.handler) (e : CEnt) (sp : LaneSpec) (f : LaneF) (o : Op) :
    heldIn { s with g := g } e sp f o = heldIn s e sp f o := by
  simp only [heldIn, nbReads_congr hd hk hw hh, hw]

/-! ### Views (07, R187-R188) -/

/-- The copy of a cell of the group's own core is its group's, if it is tagged with the step. -/
theorem copyAt_own {s : State} {g h : Group} {q : Parcel} {n : Nat} (r : Nat) (st : Int)
    (hp : parcelPkg s g.d (parcelOfCell g.d n) = pkgNo s)
    (hq : parcelOf s ⟨g.key.launch, parcelOfCell g.d n⟩ = some q) (hc : q.core = g.core)
    (hh : getG s ⟨g.key.launch, groupOfCell g.d n⟩ = some h) : copyAt s g n r st =
      if tagOf h (st % 2 = 1) r (n % g.width) = some st then some (copyVal h (st % 2 = 1) r (n % g.width)) else none := by
  simp [copyAt, hp, hq, hc, hh]

/-- The step whose copies a view shows: the current one, or the one before. -/
theorem viewOf_step {s : State} {g : Group} {now : Bool} (n r : Nat) (h : now = true ∨ g.step ≠ 0) :
    viewOf s g n r now = copyAt s g n r (if now then g.step else (g.step : Int) - 1) := by
  cases now with
  | true => rfl
  | false => simp [viewOf, h.resolve_left]

/-- Settles O32: a held instruction goes on with what it holds; the two traps come before any read; a view is the copy with its
step's tag. -/
theorem neighbourReadsSeePublishedCopies : Obligations.NeighbourReadsSeePublishedCopies := by
  unfold Obligations.NeighbourReadsSeePublishedCopies
  refine ⟨fun s i e op f o he hi ho hdone => ⟨reads_held he hi ho hdone, fun g hd hk hw hh => heldIn_congr hd hk hw hh ..⟩,
    fun s i e op f he hi ho hq hx => ⟨fun hopen k => withLane_closed he hi ho hq hx hopen,
      fun hopen r hr k => withLane_edge he hi ho hq hopen hr⟩, fun s g n r => ⟨fun h0 => ?_, fun q h now hnow hp hq hc hh => ?_⟩⟩
  · simp [viewOf, h0]
  · have hview := (viewOf_step n r hnow).trans (copyAt_own r _ hp hq hc hh)
    exact ⟨fun htag => hview.trans (if_pos htag), fun htag => hview.trans (if_neg htag)⟩

end Sys2Proof.LaneReads
end

section
/-!
OBLIGATION O40. The classes of the grid and of the group: publication, neighbours, draws, sampling, predicates, exchange (07,
R196-R197; 08, R229-R235).
-/

namespace Sys2Proof.GroupClass
open Sys2Proof Sys2Proof.Machine

/-! ### What reading the sources changes (05, R138, R144) -/

/-- `t` is `s` but for the elements that the focused group's queue registers have lost to pops. -/
def Popped (s t : State) : Prop := t = { s with g := { s.g with q2 := t.g.q2, q3 := t.g.q3, qb := t.g.qb } }

theorem Popped.refl (s : State) : Popped s s := rfl

theorem Popped.trans {s t u : State} (a : Popped s t) (b : Popped t u) : Popped s u := by
  unfold Popped at *
  rw [b, a]

theorem popLanes_popped {s : State} {n : Nat} {act l : List Nat} {g : Group} (h : popLanes s.g n act = some (g, l)) :
    Popped s { s with g := g } := by
  revert h
  unfold popLanes
  dsimp only
  split
  · split
    · simp
    · rintro ⟨⟩
      rfl
  · split
    · split
      · simp
      · rintro ⟨⟩
        rfl
    · split
      · simp
      · split
        · simp
        · rintro ⟨⟩
          rfl

theorem readSource_popped {s t : State} {e : CEnt} {f : LaneF} {act vs l : List Nat} {rs : List NbRead} {j ty : Nat} {x : BitVec 14}
    (h : readSource s e f act rs vs j x ty = some (t, l)) : Popped s t := by
  revert h
  unfold readSource
  dsimp only
  split
  · rintro ⟨⟩
    exact .refl s
  · split
    · split
      · simp
      · rename_i hpop
        rintro ⟨⟩
        exact popLanes_popped hpop
    · rintro ⟨⟩
      exact .refl s

theorem readSources_popped {s t : State} {e : CEnt} {f : LaneF} {m : W32} {src : List (BitVec 14 × Nat)} {rs : List NbRead}
    {vs : List Nat} {x : LaneIn} (h : readSources s e f m src rs vs = .ok (t, x)) : Popped s t := by
  revert h
  unfold readSources
  dsimp only
  split
  · simp
  · rename_i h1
    split
    · simp
    · rename_i h2
      split
      · simp
      · rename_i h3
        rintro ⟨⟩
        exact ((readSource_popped h1).trans (readSource_popped h2)).trans (readSource_popped h3)

theorem goHeld_cases (s : State) (e : CEnt) (i : Instr) (sp : LaneSpec) (f : LaneF) (o : Op) :
    (∃ r, ∀ k, goHeld s e i sp f o k = r) ∨ ∃ x, ∀ k, goHeld s e i sp f o k = k (dropHeld s i) x := by
  unfold goHeld
  split
  · exact .inl ⟨_, fun _ => rfl⟩
  · split
    · exact .inl ⟨_, fun _ => rfl⟩
    · exact .inr ⟨_, fun _ => rfl⟩

theorem haloThen_cases (s s1 : State) (i : Instr) (x : LaneIn) (ws : List (Nat × Nat)) :
    (∃ r, ∀ k, haloThen s s1 i x ws k = r) ∨ ∀ k, haloThen s s1 i x ws k = k s1 x := by
  unfold haloThen
  split
  · exact .inr fun _ => rfl
  · exact .inl ⟨_, fun _ => rfl⟩

/-- A lane instruction goes on with what it has read, or comes to its outcome without going on. -/
theorem withLane_cases (s : State) (i : Instr) : (∃ r, ∀ k, withLane s i none k = r) ∨
    ∃ s1 x, (∀ k, withLane s i none k = k s1 x) ∧ (heldOp s i = none → Popped s s1) := by
  unfold withLane
  split
  · split
    · -- it has issued
      rename_i e op f _ _ _ o ho
      rcases goHeld_cases s e i (laneSpec (cxOf s.g (cur s).gfmt) op.toNat f) f o with hstop | ⟨x, hgo⟩
      · exact .inl hstop
      · exact .inr ⟨_, x, hgo, fun hn => by simp [ho] at hn⟩
    · -- it reads its sources, unless a check before that stops it
      dsimp only
      split
      · exact .inl ⟨_, fun _ => rfl⟩
      split
      · exact .inl ⟨_, fun _ => rfl⟩
      split
      · exact .inl ⟨_, fun _ => rfl⟩
      split
      · exact .inl ⟨_, fun _ => rfl⟩
      split
      · exact .inl ⟨_, fun _ => rfl⟩
      · rename_i hread
        rcases haloThen_cases s _ i _ _ with hstop | hgo
        · exact .inl hstop
        · exact .inr ⟨_, _, hgo, fun _ => readSources_popped hread⟩
  · exact .inl ⟨_, fun _ => rfl⟩

/-- Reading sources that have not been read before changes the queue registers only. -/
theorem popped_of_reads {s s1 : State} {i : Instr} {x : LaneIn} (hr : Safety.reads s i s1 x) (hn : heldOp s i = none) : Popped s s1 := by
  rcases withLane_cases s i with ⟨r, hconst⟩ | ⟨t, y, hgo, hpop⟩
  · have hnext := (hconst (fun t _ => .next t)).symm.trans (hr _)
    have hfault := (hconst (fun _ _ => .fault .poweredDown)).symm.trans (hr _)
    exact absurd (hnext.symm.trans hfault) (by simp)
  · have hsame := (hgo (fun t _ => .next t)).symm.trans (hr _)
    simp only [Host.Outcome.next.injEq] at hsame
    exact hsame ▸ hpop hn

/-! ### The stash while an instruction waits (05, R109; 06, R158-R159; log 71) -/

theorem stashFull_popped {s t : State} {off n : Nat} {wr : Bool} (hp : Popped s t) (h : Safety.stashFull s off n wr) :
    Safety.stashFull t off n wr := by
  rw [hp]
  exact h

theorem issue_noParts {s : State} {o : Op} (h : o.parts = []) : issue s o = addOp s (issuedOp s o) := by
  simp [issue, issuedOp, h, numberParts]

/-- An operation without accesses, whatever it is then said to have taken of the paths, keeps no byte of the stash waiting. -/
theorem stashPending_held (s : State) (o : Op) (paths : BitVec 4) (id off n : Nat) (wr : Bool) (h : o.parts = []) :
    stashPending { s with ops := (s.ops ++ [o]).map (fun q => if q.id = id then { q with paths := paths } else q) } off n wr =
      stashPending s off n wr := by
  have hsame : ∀ q : Op, (if q.id = id then { q with paths := paths } else q).g = q.g ∧
      (if q.id = id then { q with paths := paths } else q).parts = q.parts := by
    intro q
    split <;> exact ⟨rfl, rfl⟩
  simp only [stashPending, List.any_map, Function.comp_def, hsame, List.any_append]
  simp [h]

/-- An instruction that waits without loads is in no stash access's way. -/
theorem stashFull_hold {s : State} {off n : Nat} {wr : Bool} (i : Instr) (x : LaneIn) (paths : BitVec 4) (h : Safety.stashFull s off n wr) :
    Safety.stashFull (hold s i x [] paths) off n wr := by
  unfold hold
  split
  · exact h
  · dsimp only
    rw [issue_noParts rfl]
    obtain ⟨hpending, hempty, hmap⟩ := h
    exact ⟨(stashPending_held s _ paths s.nextId off n wr rfl).trans hpending, hempty, hmap⟩

theorem laneStash_full {s : State} {e : CEnt} {wr : Bool} {rs : List (Nat × Nat × Nat)} {k : Res}
    (h : ∀ r ∈ rs, Safety.stashFull s r.2.1 r.2.2 wr) : laneStash s e wr rs k = k := by
  have hpending : rs.any (fun r => stashPending s r.2.1 r.2.2 wr) = false := by
    simpa using fun a b c hr => (h (a, b, c) hr).1
  have hempty : rs.findSome? (fun r => emptyLine s s.g.core r.2.1 r.2.2) = none := by
    simpa using fun a b c hr => (h (a, b, c) hr).2.1
  have hmap : rs.findSome? (fun r => (mapNeed s s.g r.2.1 r.2.2 wr).map (fun n => (r.1, n))) = none := by
    simpa using fun a b c hr => (h (a, b, c) hr).2.2
  simp only [laneStash, hpending, Bool.false_eq_true, if_false, hempty, hmap]

/-! ### Each instruction -/

theorem exec_xpub {s s1 : State} {f : LaneF} {x : LaneIn} (hopen : s.g.isOpen = true) (hr : Safety.reads s (.xpub f) s1 x) :
    exec (.xpub f) s = .next (laneNext (publishRegs s1 (pubList f x.act)) x.e x.act.length) := by
  change execXpub f s = _
  rw [execXpub, pubClosed, if_pos hopen, hr]

/-- `sample` whose rows are in order and in the stash draws its words, whether it has waited for them or not. -/
theorem exec_sample {s s1 : State} {f : LaneF} {x : LaneIn} (hr : Safety.reads s (.sample f) s1 x)
    (hfault : ∀ l ∈ x.act, rowFault s1 (x.a.getD l 0 % 2 ^ 32) (x.b.getD l 0 % 2 ^ 32) = none)
    (hfull : ∀ l ∈ x.act, Safety.stashFull s (x.a.getD l 0 % 2 ^ 32) (4 * (x.b.getD l 0 % 2 ^ 32)) false)
    (hroom : heldOp s (.sample f) ≠ none ∨ captureFull s = false) :
    let r := x.act.map (fun l =>
      (l, sampleRow (rowOf s1 (x.a.getD l 0 % 2 ^ 32) (x.b.getD l 0 % 2 ^ 32)) (drawWord s1.g l)))
    let g1 := writeDest (drawOne s1.g x.act) x.act f.dest.toNat false (byLane s1.g.width r)
    let g2 := if modBits f 16 3 = 0 then g1 else r.foldl (fun g p => setK g (modBits f 16 3) p.1 (p.2 = 2 ^ 32 - 1)) g1
    exec (.sample f) s = .next (laneNext { s1 with g := g2 } x.e x.act.length) := by
  have hrows : x.act.findSome? (fun l => (rowFault s1 (x.a.getD l 0 % 2 ^ 32) (x.b.getD l 0 % 2 ^ 32)).map (fun c => (l, c))) = none := by
    simpa using hfault
  have hwait : (!(heldOp s (.sample f)).isSome && captureFull s) = false := by
    rcases hroom with h | h
    · simp [Option.isSome_iff_ne_none.mpr h]
    · simp [h]
  have hstash : ∀ r ∈ x.act.map (fun l => (l, x.a.getD l 0 % 2 ^ 32, 4 * (x.b.getD l 0 % 2 ^ 32))), Safety.stashFull
      (if (heldOp s (.sample f)).isSome then s else hold s1 (.sample f) x [] 0#4) r.2.1 r.2.2 false := by
    intro r hmem
    obtain ⟨l, hl, rfl⟩ := List.mem_map.mp hmem
    split
    · exact hfull l hl
    · rename_i hn
      exact stashFull_hold _ x _ (stashFull_popped (popped_of_reads hr (by simpa using hn)) (hfull l hl))
  change execSample f s = _
  rw [execSample, hr]
  simp only [hrows, hwait, Bool.false_eq_true, if_false, laneStash_full hstash]

theorem shflFrom_eq (m l c : Nat) : shflFrom m l c = if m = 0 then (c : Int) else if m = 1 then (l : Int) - (c : Int)
    else if m = 2 then (l : Int) + (c : Int) else ((l ^^^ c : Nat) : Int) := by
  unfold shflFrom
  split <;> simp_all

/-- Settles O40: each instruction reads its sources and lands its result, `sample` once its rows are there. -/
theorem laneGroupClassResults : Obligations.LaneGroupClassResults := by
  unfold Obligations.LaneGroupClassResults
  intro s f t wide md reduced
  refine ⟨fun hopen s1 x hr => ⟨_, exec_xpub hopen hr, rfl⟩, gives_of_alu rfl, fun s1 x hr => ⟨_, hr _, rfl⟩,
    fun s1 x hr => ⟨_, hr _, rfl⟩, fun s1 x hr => ?_, gives_of_alu rfl, gives_of_alu ?_, gives_of_alu rfl, gives_of_alu ?_,
    gives_of_alu rfl⟩
  · -- sample
    intro a n hfault hfull hroom r g1 g2
    exact ⟨_, exec_sample hr hfault hfull hroom, rfl⟩
  · -- shfl: the lane by its mode
    change execShfl f s = _
    simp only [execShfl, laneFun, shflFrom_eq]
    rfl
  · -- gred: every acting lane takes part
    have hall : ∀ l : List Nat, l.filter (fun _ => true) = l := fun l => List.filter_eq_self.mpr fun _ _ => rfl
    change execGred f s = _
    simp only [execGred, groupReduce, hall]
    rfl

end Sys2Proof.GroupClass
end

section
/-!
OBLIGATION O30. The tile control registers (10, R240, R242).
-/

namespace Sys2Proof.TileControl
open Sys2Proof Sys2Proof.Machine

theorem clausesIssued_nil {p : Path} (h : p.cq = []) : clausesIssued p = true := by simp [clausesIssued, h]

section
variable {s : State} (hq : (cur s).cq = [])
include hq

/-- Earlier clauses have issued and read the old value (10, R242), and the value is there: the register takes its defined bits. -/
theorem exec_tcfg {a : BitVec 6} {n : BitVec 4} (ha : Safety.settled s [a]) :
    exec (.tcfg a n) s = .next (advance { s with g := { s.g with tc := s.g.tc.set n.toNat (rs s a &&& tcMask) } }) := by
  change execTcfg a n s = _
  rw [execTcfg, needS_ready ha, clausesIssued_nil hq]
  rfl

theorem exec_tcfgR {d : BitVec 6} {n : BitVec 4} (hd : Safety.settled s [d]) :
    exec (.tcfgR d n) s = .next (advance (ws s d (s.g.tc.getD n.toNat 0#64))) := by
  change execTcfgR d n s = _
  rw [execTcfgR, needS_ready hd, clausesIssued_nil hq]
  rfl

end

/-- Beyond the register file that was written, only the path moves. -/
theorem advance_tc (s : State) (l : List W64) : advance { s with g := { s.g with tc := l } } =
    { s with g := { setPath s.g s.slot { cur s with pc := (cur s).pc + 4#64, wait := none, exempt := false } with tc := l } } := by
  cases hs : s.slot <;> simp [advance, setCur, setPath, cur, pathOf, hs]

/-- Settles O30: a write keeps the bits of the mask and moves the path on, and a read is a write of one scalar register. -/
theorem tileControlRegistersReadBack : Obligations.TileControlRegistersReadBack := by
  unfold Obligations.TileControlRegistersReadBack
  exact fun s a d n hq => ⟨fun ha => ⟨_, exec_tcfg hq ha, advance_tc s _⟩, fun hd => sets_of (exec_tcfgR hq hd) rfl⟩

end Sys2Proof.TileControl
end

section
/-!
OBLIGATION O39. The matrix class up to its issue: the checks in their order, then one operation for the array, or the accesses of
the rows of `tld` and `tst` (10, R244-R256; 21, R400).
-/

namespace Sys2Proof.MatrixClass
open Sys2Proof Sys2Proof.Machine Sys2Proof.GroupClass

/-! ### The order of the checks (10, R245) -/

/-- The tiles and accumulators named are there; the place of a reserved tile is not looked at. -/
abbrev Placed (g : Group) (u : MatUse) : Prop :=
  (∀ t ∈ u.tiles, tileReserved t = true ∨ t.base + tileExtent t ≤ 1024 * g.d.tile) ∧ (∀ a ∈ u.accs, a < g.d.accs)

/-- The format codes of narrow tiles and of a narrow destination are valid. -/
abbrev ValidFormats (u : MatUse) : Prop :=
  (∀ t ∈ u.tiles, t.ety = 4 → fmtValid t.fmt = true) ∧ (∀ f ∈ u.narrow, fmtValid f = true)

/-- The formats form a combination that the instruction allows. -/
abbrev Combines (u : MatUse) : Prop :=
  (∀ t ∈ u.tiles, tileReserved t = false ∧ (t.scm = 1 → t.ety = 4)) ∧ u.combo = true

/-- Rows fit in 256 bytes, and the instruction's own rules of shape hold. -/
abbrev Shaped (u : MatUse) : Prop := (∀ t ∈ u.tiles, tileRB t ≤ 256) ∧ u.shape = true

theorem misplaced_iff (g : Group) (u : MatUse) : (u.tiles.any (fun t => !tileReserved t && 1024 * g.d.tile < t.base + tileExtent t)
    || u.accs.any (fun a => g.d.accs ≤ a)) = true ↔ ¬Placed g u := by
  rw [Placed, Decidable.not_and_iff_not_or_not]
  simp

theorem invalidFormat_iff (u : MatUse) : (u.tiles.any (fun t => t.ety = 4 && !fmtValid t.fmt)
    || u.narrow.any (fun f => !fmtValid f)) = true ↔ ¬ValidFormats u := by
  rw [ValidFormats, Decidable.not_and_iff_not_or_not]
  simp

theorem uncombined_iff (u : MatUse) : (u.tiles.any (fun t => tileReserved t || (t.scm = 1 && t.ety != 4))
    || !u.combo) = true ↔ ¬Combines u := by
  rw [Combines, Decidable.not_and_iff_not_or_not]
  simp [Decidable.or_iff_not_imp_left]

theorem misshaped_iff (u : MatUse) : (u.tiles.any (fun t => 256 < tileRB t) || !u.shape) = true ↔ ¬Shaped u := by
  rw [Shaped, Decidable.not_and_iff_not_or_not]
  simp

/-- The checks one within the other, each with its cause where it fails. -/
theorem matCheck_eq (g : Group) (act : List Nat) (u : MatUse) : matCheck g act u =
    if Placed g u then
      if ValidFormats u then
        if Combines u then
          if Shaped u then (act.find? (fun l => u.rows ≤ l + u.row0)).map (fun l => (.tileShape, some l))
          else some (.tileShape, none)
        else some (.matFmt, none)
      else some (.illFmt, none)
    else some (.tileNoalloc, none) := by
  simp only [matCheck, misplaced_iff, invalidFormat_iff, uncombined_iff, misshaped_iff, ite_not]
  cases act.find? (fun l => u.rows ≤ l + u.row0) <;> rfl

/-- Every check passes where the rows that the lanes drive are there too. -/
theorem matCheck_none {g : Group} {act : List Nat} {u : MatUse} (hp : Placed g u) (hv : ValidFormats u) (hc : Combines u)
    (hs : Shaped u) (hrows : ∀ l ∈ act, l + u.row0 < u.rows) : matCheck g act u = none := by
  have hfind : act.find? (fun l => u.rows ≤ l + u.row0) = none := by simpa using hrows
  rw [matCheck_eq, if_pos hp, if_pos hv, if_pos hc, if_pos hs, hfind]
  rfl

/-! ### The operation for the array (10, R246) -/

/-- What an instruction leaves whose operation has gone to the array. -/
def issuedMat (s1 : State) (i : Instr) (x : LaneIn) (f : LaneF) (vals : List (List Nat)) (ps : List Part) : State :=
  laneNext (issue s1 { laneOpOf s1 i x .matrix ps with setB := true, vals := vals, tcs := s1.g.tc, land := .lane f }) x.e x.act.length

theorem issueMat_room {s s1 : State} {i : Instr} {x : LaneIn} {f : LaneF} {vals : List (List Nat)} {ps : List Part}
    (hroom : captureFull s1 = false) : issueMat s s1 i x f vals ps = .next (issuedMat s1 i x f vals ps) := by
  simp only [issueMat, hroom, Bool.false_eq_true, if_false]
  rfl

section
variable {s s1 : State} {i : Instr} {x : LaneIn} {v : List Nat → MatUse} {k : State → LaneIn → Res} (hr : Safety.reads s i s1 x)
include hr

theorem withMat_trap {c : Cause} {l : Option Nat} (hcheck : matCheck s1.g x.act (v x.act) = some (c, l)) :
    withMat s i v k = laneTrap s c l := by
  rw [withMat, hr, hcheck]

theorem withMat_goesOn (hcheck : matCheck s1.g x.act (v x.act) = none) : withMat s i v k = k s1 x := by
  rw [withMat, hr, hcheck]

end

/-- The instruction, its sources read, makes the checks of `u` and issues one operation for the array that holds `vals`. -/
def ChecksAndIssues (s s1 : State) (x : LaneIn) (f : LaneF) (i : Instr) (u : MatUse) (vals : List (List Nat)) : Prop :=
  Safety.reads s i s1 x →
    (∀ c l, matCheck s1.g x.act u = some (c, l) → exec i s = .next (takeTrap s { cause := c, slot := s.slot, lane := l })) ∧
    (matCheck s1.g x.act u = none → Safety.completes i s (fun t => t = issuedMat s1 i x f vals []))

/-- An instruction that makes its checks by `withMat` and then issues to an array with room for it. -/
theorem checksAndIssues_of_withMat {s s1 : State} {x : LaneIn} {f : LaneF} {i : Instr} {v : List Nat → MatUse} {vals : List (List Nat)}
    {u : MatUse} {k : State → LaneIn → Res} (hroom : captureFull s1 = false) (hexec : exec i s = withMat s i v k) (hu : v x.act = u)
    (hk : k s1 x = issueMat s s1 i x f vals []) : ChecksAndIssues s s1 x f i u vals := by
  subst hu
  intro hr
  refine ⟨fun c l hcheck => ?_, fun hcheck => ⟨_, ?_, rfl⟩⟩
  · rw [hexec, withMat_trap hr hcheck]
    rfl
  · rw [hexec, withMat_goesOn hr hcheck, hk, issueMat_room hroom]

/-- The tile that an instruction of one tile names, with the row its lanes start at (10, R248). -/
def tileUse (s : State) (f : LaneF) (combo shape : Tile → Bool) : MatUse :=
  { tiles := [tileNo s f 0], accs := [], combo := combo (tileNo s f 0), shape := shape (tileNo s f 0), rows := (tileNo s f 0).rows
    row0 := immBits f 4 5 }

/-- What a product names: the two tiles and the accumulator (10, R250). -/
def productUse (s : State) (f : LaneF) (dist : Bool) : MatUse :=
  { tiles := [tileNo s f 0, tileNo s f 4], accs := [immBits f 8 3]
    combo := prodCombo (tileNo s f 0) (tileNo s f 4) (modBits f 16 2) dist
    shape := (tileNo s f 0).cols = (tileNo s f 4).cols && (tileNo s f 4).rows ≤ (if modBits f 16 2 = 2 then 16 else 32)
    rows := Nat.min 32 (tileNo s f 0).rows, row0 := immBits f 11 5 }

/-- What `ald`, `aclr` and `mtopk` name: one accumulator, of `rows` rows. -/
def accUse (f : LaneF) (rows : Nat) : MatUse := { tiles := [], accs := [immBits f 0 3], rows := rows, row0 := immBits f 3 5 }

/-! Each instruction of the class, as its checks and what it then does. -/

section
variable (f : LaneF) (s : State)

theorem exec_tzero : exec (.tzero f) s = withMat s (.tzero f) (fun _ => tileUse s f (fun _ => true) (fun _ => true))
    (fun s1 x => issueMat s s1 (.tzero f) x f [] []) := rfl

theorem exec_tmovi : exec (.tmovi f) s = withMat s (.tmovi f) (fun _ => tileUse s f (fun _ => true) (movShape f))
    (fun s1 x => issueMat s s1 (.tmovi f) x f [x.a] []) := rfl

theorem exec_tmovo : exec (.tmovo f) s = withMat s (.tmovo f) (fun _ => tileUse s f (fun _ => true) (movShape f))
    (fun s1 x => issueMat s s1 (.tmovo f) x f [] []) := rfl

theorem exec_tsum : exec (.tsum f) s =
    withMat s (.tsum f) (fun _ => tileUse s f (fun t => tileInt t = (f.ty = 8#5)) (fun _ => true))
      (fun s1 x => issueMat s s1 (.tsum f) x f [] []) := rfl

theorem exec_mma : exec (.mma f) s = withMat s (.mma f) (fun _ => productUse s f false)
    (fun s1 x => issueMat s s1 (.mma f) x f [] []) := rfl

theorem exec_mdist : exec (.mdist f) s = withMat s (.mdist f) (fun _ => productUse s f true)
    (fun s1 x => issueMat s s1 (.mdist f) x f [] []) := rfl

theorem exec_ald : exec (.ald f) s = withMat s (.ald f) (fun _ => accUse f (if modBit f 16 && f.ty = 0#5 then 16 else 32))
    (fun s1 x => issueMat s s1 (.ald f) x f [x.a] []) := rfl

theorem exec_aclr : exec (.aclr f) s = withMat s (.aclr f) (fun _ => accUse f 32)
    (fun s1 x => issueMat s s1 (.aclr f) x f [] []) := rfl

theorem exec_mtopk : exec (.mtopk f) s = withMat s (.mtopk f) (fun _ => accUse f 32) (fun s1 x =>
    if 256 < x.act.length * Nat.min (modBits f 16 5 + 1) (immBits f 8 5 + 1) then laneTrap s .qregBad
    else issueMat s s1 (.mtopk f) x f [x.a] []) := rfl

end

section
variable {s s1 : State} {x : LaneIn} {f : LaneF} (hroom : captureFull s1 = false)
include hroom

theorem tzero_checksAndIssues : ChecksAndIssues s s1 x f (.tzero f) (tileUse s f (fun _ => true) (fun _ => true)) [] :=
  checksAndIssues_of_withMat hroom (exec_tzero f s) rfl rfl

theorem tmovi_checksAndIssues : ChecksAndIssues s s1 x f (.tmovi f) (tileUse s f (fun _ => true) (movShape f)) [x.a] :=
  checksAndIssues_of_withMat hroom (exec_tmovi f s) rfl rfl

theorem tmovo_checksAndIssues : ChecksAndIssues s s1 x f (.tmovo f) (tileUse s f (fun _ => true) (movShape f)) [] :=
  checksAndIssues_of_withMat hroom (exec_tmovo f s) rfl rfl

theorem tsum_checksAndIssues :
    ChecksAndIssues s s1 x f (.tsum f) (tileUse s f (fun t => tileInt t = (f.ty = 8#5)) (fun _ => true)) [] :=
  checksAndIssues_of_withMat hroom (exec_tsum f s) rfl rfl

theorem mma_checksAndIssues : ChecksAndIssues s s1 x f (.mma f) (productUse s f false) [] :=
  checksAndIssues_of_withMat hroom (exec_mma f s) rfl rfl

theorem mdist_checksAndIssues : ChecksAndIssues s s1 x f (.mdist f) (productUse s f true) [] :=
  checksAndIssues_of_withMat hroom (exec_mdist f s) rfl rfl

theorem ald_checksAndIssues : ChecksAndIssues s s1 x f (.ald f) (accUse f (if modBit f 16 && f.ty = 0#5 then 16 else 32)) [x.a] :=
  checksAndIssues_of_withMat hroom (exec_ald f s) rfl rfl

theorem aclr_checksAndIssues : ChecksAndIssues s s1 x f (.aclr f) (accUse f 32) [] :=
  checksAndIssues_of_withMat hroom (exec_aclr f s) rfl rfl

/-- q2 can hold the pairs of the acting lanes. -/
theorem mtopk_checksAndIssues (hfit : x.act.length * Nat.min (modBits f 16 5 + 1) (immBits f 8 5 + 1) ≤ 256) :
    ChecksAndIssues s s1 x f (.mtopk f) (accUse f 32) [x.a] :=
  checksAndIssues_of_withMat hroom (exec_mtopk f s) rfl (if_neg (Nat.not_lt.mpr hfit))

end

/-! ### `mtopk` and `adrain` (10, R255-R256) -/

/-- More pairs than q2 can hold. -/
theorem exec_mtopk_tooMany {s s1 : State} {f : LaneF} {x : LaneIn} (hr : Safety.reads s (.mtopk f) s1 x)
    (hcheck : matCheck s1.g x.act (accUse f 32) = none)
    (hmany : 256 < x.act.length * Nat.min (modBits f 16 5 + 1) (immBits f 8 5 + 1)) :
    exec (.mtopk f) s = .next (takeTrap s { cause := .qregBad, slot := s.slot }) := by
  rw [exec_mtopk, withMat_goesOn hr hcheck]
  exact if_pos hmany

/-- What `adrain` names. -/
def drainUse (s : State) (f : LaneF) (act : List Nat) : MatUse :=
  { tiles := if modBit f 16 then [tileNo s f 8] else [], accs := [immBits f 0 3]
    narrow := if !modBit f 16 && f.ty = 4#5 then [narrowFmt (cur s).gfmt false] else []
    combo := !modBit f 16 || ((tileNo s f 8).ety != 0 && (tileNo s f 8).scm != 1)
    shape := !(modBit f 19 && 16 < drainN f (tileNo s f 8)) && (!modBit f 16 ||
      ((tileNo s f 8).cols ≤ 32 && act.all (fun l => l + immBits f 3 5 < (tileNo s f 8).rows)))
    row0 := immBits f 3 5 }

/-- A drain through tables that are in order and in the stash issues with each lane's table read. -/
theorem exec_adrain_tables {s s1 : State} {f : LaneF} {x : LaneIn} (hroom : captureFull s1 = false) (hmq : modBit f 18 = true)
    (hr : Safety.reads s (.adrain f) s1 x) (hcheck : matCheck s1.g x.act (drainUse s f x.act) = none)
    (hfault : tableFault s1 (drainN f (tileNo s f 8)) x = none)
    (hfull : ∀ l ∈ x.act, Safety.stashFull s (x.a.getD l 0 % 2 ^ 32) (8 * drainN f (tileNo s f 8)) false) :
    exec (.adrain f) s = .next (issuedMat s1 (.adrain f) x f [x.a, x.b] (tableParts s1 (drainN f (tileNo s f 8)) x)) := by
  have hstash : ∀ r ∈ x.act.map (fun l => (l, x.a.getD l 0 % 2 ^ 32, 8 * drainN f (tileNo s f 8))),
      Safety.stashFull s r.2.1 r.2.2 false := by simpa using hfull
  change execAdrain f s = _
  rw [execAdrain]
  refine (withMat_goesOn (v := drainUse s f) hr hcheck).trans ?_
  simp only [hmq, if_true, hfault, laneStash_full hstash, issueMat_room hroom]

/-- Without tables a drain reads no word of the stash. -/
theorem adrain_checksAndIssues {s s1 : State} {f : LaneF} {x : LaneIn} (hroom : captureFull s1 = false) (hmq : modBit f 18 = false) :
    ChecksAndIssues s s1 x f (.adrain f) (drainUse s f x.act) [x.b] := by
  refine checksAndIssues_of_withMat (v := drainUse s f) hroom rfl rfl ?_
  simp only [hmq, Bool.false_eq_true, if_false]
  exact laneStash_full (by simp)

/-! ### `tld` and `tst` (10, R247; 21, R400) -/

theorem laneWatched_unwatched {s : State} {l : List (Nat × Acc × Nat × Nat)} {k : Res} (h : Safety.unwatched s l) :
    laneWatched s l k = k := by
  unfold laneWatched
  rcases h with hexempt | hnone
  · rw [if_pos hexempt]
  · simp only [hnone, ite_self]

theorem laneWatched_hit {s : State} {l : List (Nat × Acc × Nat × Nat)} {k : Res} {n ln a : Nat} (hexempt : (cur s).exempt = false)
    (hhit : watchFind s s.g.pid l = some (n, ln, a)) :
    laneWatched s l k = .next (takeTrap s { cause := .watch, slot := s.slot, addr := a, info := n, lane := some ln }) := by
  simp only [laneWatched, hexempt, Bool.false_eq_true, if_false, hhit]

theorem laneRoom_room {s s1 : State} {e : CEnt} {cls : OpCls} {paths : BitVec 4} {k : Res} (h : Safety.room s1 cls paths) :
    laneRoom s s1 e cls paths k = k := by
  obtain ⟨hfence, hcount, hcapture⟩ := h
  cases hc : capturable cls
  · simp [laneRoom, hfence, hcount, hc]
  · simp [laneRoom, hfence, hcount, hc, hcapture hc]

theorem moveCheck_none {g : Group} {f : LaneF} {t : Tile} {act : List Nat}
    (hcheck : matCheck g act { tiles := [t], accs := [], rows := t.rows, row0 := immBits f 4 5 } = none)
    (hscale : t.scm = 1 ∨ f.srcC = 0#14) : moveCheck g f t act = none := by
  rw [moveCheck, hcheck]
  rcases hscale with h | h <;> simp [h]

/-- `tst` where `wr` says so, else `tld`. -/
def moveInstr (f : LaneF) (wr : Bool) : Instr := if wr then .tst f else .tld f

theorem exec_move (s : State) (f : LaneF) (wr : Bool) : exec (moveInstr f wr) s = tileMove s (moveInstr f wr) f wr := by
  cases wr <;> rfl

/-- What a `tld` or `tst` leaves whose rows are at `ps`: the rows of the stash are read at once. -/
def movedRows (s s1 : State) (f : LaneF) (wr : Bool) (x : LaneIn) (ps : List Part) : State :=
  laneNext (if ps = [] then s1 else issue s1 { laneOpOf s1 (moveInstr f wr) x (if wr then .store else .load) (ps.map (fun p =>
      if p.kind = .stash && !wr then { p with st := .done, res := stashRead s1 s1.g.core p.fa p.size } else p)) with
    setB := true, tcs := s1.g.tc, land := .lane f, vals := moveVals f (tileNo s f 0) x }) x.e x.act.length

section
variable {s s1 : State} {f : LaneF} {x : LaneIn} {wr : Bool} (hr : Safety.reads s (moveInstr f wr) s1 x)
include hr

/-- A watch comes before every other check. -/
theorem exec_move_watch {n l a : Nat} (hexempt : (cur s).exempt = false)
    (hhit : watchFind s s.g.pid (rowsNamed f (tileNo s f 0) (if wr then .write else .read) x) = some (n, l, a)) :
    exec (moveInstr f wr) s = .next (takeTrap s { cause := .watch, slot := s.slot, addr := a, info := n, lane := some l }) := by
  rw [exec_move, tileMove, hr, laneWatched_hit hexempt hhit]

/-- The checks made and the waits over, the accesses of the rows issue. -/
theorem exec_move_issues {ps : List Part}
    (hcheck : matCheck s1.g x.act
      { tiles := [tileNo s f 0], accs := [], rows := (tileNo s f 0).rows, row0 := immBits f 4 5 } = none)
    (hscale : (tileNo s f 0).scm = 1 ∨ f.srcC = 0#14)
    (hwatch : Safety.unwatched s (rowsNamed f (tileNo s f 0) (if wr then .write else .read) x))
    (hrows : laneRows s1 f (tileNo s f 0) wr x x.act = .ok ps)
    (hroom : Safety.room s1 (if wr then .matrix else .load) (partPaths ps))
    (hfull : ∀ p ∈ ps, p.kind = .stash → Safety.stashFull s p.fa p.size wr) :
    exec (moveInstr f wr) s = .next (movedRows s s1 f wr x ps) := by
  have hstash : ∀ r ∈ ps.filterMap (fun p => if p.kind = .stash then some (p.lane, p.fa, p.size) else none),
      Safety.stashFull s r.2.1 r.2.2 wr := by
    intro r hmem
    obtain ⟨p, hp, hsome⟩ := List.mem_filterMap.mp hmem
    obtain ⟨hkind, heq⟩ := Option.ite_none_right_eq_some.mp hsome
    obtain rfl := Option.some.inj heq
    exact hfull p hp hkind
  rw [exec_move, tileMove, hr, laneWatched_unwatched hwatch, moveCheck_none hcheck hscale, hrows]
  exact (laneRoom_room hroom).trans (laneStash_full hstash)

end

/-! ### The statement -/

/-- Settles O39: each instruction makes its checks and issues; `tld` and `tst` come to a watch before them; the order of the checks
is `matCheck_eq`. -/
theorem matrixClassChecksAndIssues : Obligations.MatrixClassChecksAndIssues := by
  unfold Obligations.MatrixClassChecksAndIssues
  refine ⟨⟨fun s f s1 x hroom => ?_, ?_⟩, ?_, fun g act u => ?_⟩
  · intro issued one both
    exact ⟨tzero_checksAndIssues hroom, tmovi_checksAndIssues hroom, tmovo_checksAndIssues hroom, tsum_checksAndIssues hroom,
      mma_checksAndIssues hroom, mdist_checksAndIssues hroom, ald_checksAndIssues hroom, aclr_checksAndIssues hroom,
      mtopk_checksAndIssues hroom,
      fun hmany hr hcheck => exec_mtopk_tooMany hr hcheck hmany,
      fun hmq => adrain_checksAndIssues hroom hmq,
      fun hmq hr hcheck hfault hfull => ⟨_, exec_adrain_tables hroom hmq hr hcheck hfault hfull, rfl⟩⟩
  · -- tld and tst issue
    intro s f s1 x wr ps i t acc cls hr hcheck hscale hwatch hrows hroom hfull
    exact ⟨_, exec_move_issues hr hcheck hscale hwatch hrows hroom hfull, rfl⟩
  · -- a watch on a row
    intro s f s1 x wr n l a i hr hexempt hhit
    exact exec_move_watch hr hexempt hhit
  · -- the order of the checks
    intro placed valid combo shape
    refine ⟨fun hp => ?_, fun hp hv => ?_, fun hp hv hc => ?_, fun hp hv hc hs => ?_, matCheck_none⟩ <;> rw [matCheck_eq]
    · exact if_neg hp
    · rw [if_pos hp, if_neg hv]
    · rw [if_pos hp, if_pos hv, if_neg hc]
    · rw [if_pos hp, if_pos hv, if_pos hc, if_neg hs]

end Sys2Proof.MatrixClass
end

section
/-!
OBLIGATION O45. A group's publication at fabric scope (12, R261-R266).
-/

namespace Sys2Proof.Publication
open Sys2Proof.Machine Sys2Proof.DeviceViews Sys2Proof.StepEvents

/-! ### Which bytes a publication takes -/

/-- The only byte at an address, however often it is listed, is the newest there. -/
theorem newestAt_of_forall_eq {l : List Unpub} {u : Unpub} {a : Nat} (hmem : u ∈ l) (haddr : u.addr = a)
    (honly : ∀ x ∈ l, x.addr = a → x = u) : newestAt l a = some u.val := by
  have hne : l.filter (fun x => x.addr = a) ≠ [] := List.ne_nil_of_mem (a := u) (by simp [hmem, haddr])
  have hlast := List.getLast_mem hne
  simp only [List.mem_filter, decide_eq_true_eq] at hlast
  obtain ⟨hin, hat⟩ := hlast
  rw [newestAt, List.getLast?_eq_some_getLast hne, Option.map_some, honly _ hin hat]

/-- Only the choice among the bytes that are unpublished matters. -/
theorem publishWhere_congr {s : State} {sc : Nat} {r r' : Unpub → Bool} (h : ∀ x ∈ s.unpub, r x = r' x) :
    publishWhere s sc r = publishWhere s sc r' := by
  have hleft : s.unpub.filter (fun x => !r x) = s.unpub.filter (fun x => !r' x) :=
    List.filter_congr (fun x hx => by rw [h x hx])
  rw [publishWhere, publishWhere, hleft, List.filter_congr h]

theorem publishOver_congr {s : State} {sc : Nat} {p : Narrow → Bool} {q q' : Unpub → Bool} (h : ∀ x ∈ s.unpub, q x = q' x) :
    publishOver s sc p q = publishOver s sc p q' := by
  obtain ⟨hunpub, -, -, -⟩ := widenList_frame { s with narrow := [] } sc p s.narrow
  refine publishWhere_congr (fun x hx => ?_)
  rw [hunpub] at hx
  rw [h x hx]

/-- Where the choice takes every unpublished byte at an address, every core sees the newest of them afterwards. -/
theorem viewByte_publishOver_of_mem {s : State} (hw : Memory.wf s.mem = true) {p : Narrow → Bool} {q : Unpub → Bool} {a : Nat}
    {v : Byte} (hq : ∀ x ∈ s.unpub, x.addr = a → q x = true) (hv : newestAt s.unpub a = some v) (c : Nat) :
    viewByte (publishOver s 5 p q) c a = v := by
  have hchoice : ∀ x ∈ s.unpub, q x = (decide (x.addr = a) || q x) := by
    intro x hx
    by_cases hxa : x.addr = a
    · simp [hxa, hq x hx hxa]
    · simp [hxa]
  rw [publishOver_congr hchoice]
  exact viewByte_publishOver hw (fun x hx => by simp [hx]) hv c

/-! ### What else a publication changes -/

/-- The bytes chosen, and the newer stores to the words that it widens, are no longer unpublished. -/
theorem publishOver_unpub (s : State) (p : Narrow → Bool) (q : Unpub → Bool) :
    (publishOver s 5 p q).unpub = s.unpub.filter (fun x => !(q x || newerThan s 5 p x)) := by
  obtain ⟨hwiden, -, -, -⟩ := widenList_frame { s with narrow := [] } 5 p s.narrow
  obtain ⟨hpublish, -, -⟩ := publishWhere_frame (widenList { s with narrow := [] } 5 p s.narrow) (fun x => q x || newerThan s 5 p x)
  exact hpublish.trans (by rw [hwiden])

theorem widenList_pOrder (s : State) (sc : Nat) (p : Narrow → Bool) (l : List Narrow) : (widenList s sc p l).pOrder = s.pOrder := by
  induction l with
  | nil => rfl
  | cons n l ih =>
    rw [widenList]
    split
    · split
      · exact ih
      · exact ih
    · exact ih

theorem publishAll_pOrder (s : State) (us : List Unpub) : (publishAll s 5 us).pOrder = s.pOrder := by
  induction us generalizing s with
  | nil => rfl
  | cons u us ih => exact ih _

theorem publishOver_pOrder (s : State) (p : Narrow → Bool) (q : Unpub → Bool) : (publishOver s 5 p q).pOrder = s.pOrder :=
  (publishAll_pOrder _ _).trans (widenList_pOrder { s with narrow := [] } 5 p s.narrow)

/-! ### A group's publication -/

/-- The unpublished bytes that a publication of the group takes (12, R263). -/
def ownBytes (core : Nat) (g : GKey) (x : Unpub) : Bool := x.core = core && x.writers.contains g

/-- The narrowly published bytes that it widens: the group's, or in STRICT_SCOPE mode its core's (12, R268). -/
def ownNarrow (s : State) (core : Nat) (g : GKey) (n : Narrow) : Bool := n.core = core && (s.strict || n.writers.contains g)

theorem publishGroup_eq (s : State) (core : Nat) (g : GKey) (sc : Nat) : publishGroup s core g sc =
    tickP (passHost (publishOver s sc (ownNarrow s core g) (ownBytes core g)) (ownBytes core g)) := rfl

/-- Passing on host-window stores and counting the publication change nothing that a core sees. -/
theorem viewByte_publishGroup (s : State) (core : Nat) (g : GKey) (sc c a : Nat) : viewByte (publishGroup s core g sc) c a =
    viewByte (publishOver s sc (ownNarrow s core g) (ownBytes core g)) c a := by
  rw [publishGroup_eq]
  exact viewByte_congr rfl rfl rfl

theorem publishGroup_unpub (s : State) (core : Nat) (g : GKey) : (publishGroup s core g 5).unpub =
    s.unpub.filter (fun x => !(ownBytes core g x || newerThan s 5 (ownNarrow s core g) x)) := by
  rw [publishGroup_eq]
  exact publishOver_unpub ..

theorem publishGroup_pOrder (s : State) (core : Nat) (g : GKey) : (publishGroup s core g 5).pOrder = s.pOrder + 1 := by
  rw [publishGroup_eq]
  exact congrArg (· + 1) (publishOver_pOrder ..)

/-! ### The statement -/

/-- Settles O45: the one byte held at the address is the group's, so the publication takes it, whether or not a narrower one is left
there, and every core sees it. -/
theorem publishedStoresAreSeenByEveryCore : Obligations.PublishedStoresAreSeenByEveryCore := by
  unfold Obligations.PublishedStoresAreSeenByEveryCore
  intro s core c a g u hwf hfind hwriter honly _ t newer
  have hheld : u.core = core ∧ u.addr = a := by simpa using List.find?_some hfind
  obtain ⟨hcore, haddr⟩ := hheld
  have hown : ∀ x ∈ s.unpub, x.addr = a → ownBytes core g x = true := by
    intro x hx hxa
    obtain rfl := honly x hx hxa
    simp only [ownBytes, hcore, hwriter, decide_true, Bool.and_self]
  have hnewest : newestAt s.unpub a = some u.val := newestAt_of_forall_eq (List.mem_of_find?_eq_some hfind) haddr honly
  have hview : viewByte t c a = u.val :=
    (viewByte_publishGroup ..).trans (viewByte_publishOver_of_mem hwf hown hnewest c)
  exact ⟨hview, publishGroup_unpub .., (publishGroup_keeps ..).1, publishGroup_pOrder ..⟩

end Sys2Proof.Publication
end
